-- ==== Sys2Proof/Word.lean ====
section
/-! DEFINITION. The word types: registers are 32 bits (R12), device bytes 8 bits, and the sparse tables
in which the model keeps what the spec numbers. -/

namespace Sys2Proof

/-- A register or instruction word (R12). -/
abbrev Word := BitVec 32

/-- One byte of an addressed memory. -/
abbrev Byte := BitVec 8

/-- A sparse table: entries by number, numbers strictly rising. -/
abbrev SMap (α : Type) := List (Nat × α)

end Sys2Proof
end

