-- ==== Sys2Proof/Syntax.lean ====
section
/-! DEFINITION. The commands of the block: one constructor of Instr per row of the table of operations and events,
with the operands that name where it acts and the data that reaches the device with it. -/

namespace Sys2Proof

/-- Port number (R28). -/
abbrev PortId := Fin 512
/-- Lane number (R27). -/
abbrev LaneId := Fin 1024
/-- Berth die number (R21). -/
abbrev BerthId := Fin 16
/-- Logical cluster number (R24). -/
abbrev ClusterId := Fin 80
/-- Stage die, quay die or stack number (R22). -/
abbrev StackId := Fin 20
/-- Pool number (R129). -/
abbrev PoolId := Fin 17
/-- Link class: 0 to 7 TC0 to TC7, 8 XC (R77). -/
abbrev ClassId := Fin 9
/-- Access-table number (R46). -/
abbrev TargetId := Fin 108
/-- Master identifier (R43). -/
abbrev MasterId := BitVec 12
/-- Egress queue number 9p + c (R152). -/
abbrev QueueId := Fin 4608
/-- Collective context index (R98). -/
abbrev CtxId := Fin 4096
/-- Cue engine number (R42). -/
abbrev EngineId := Fin 116
/-- Curtain line number. -/
abbrev LineId := Fin 32
/-- Host ring number (R469). -/
abbrev RingId := Fin 64
/-- A device address (R35). -/
abbrev DevAddr := BitVec 48

/-- The packet header (R98); the reserved fields are carried because the device never changes them (R99). -/
structure Header where
  dst : BitVec 20
  src : BitVec 20
  cls : BitVec 4
  kind : BitVec 6
  len : BitVec 13
  ord : Bool
  cm : Bool
  rsvA : BitVec 7
  ctx : BitVec 12
  rsvB : BitVec 12
  seq : BitVec 32
  step : BitVec 16
  addr : BitVec 48
  flow : BitVec 32
  rsvC : BitVec 32
  deriving DecidableEq, Repr

/-- A frame as a port's receiver sees it (R74, R75): the SOF fields, the packet, the trailer (R100), and how it
ended: PAD and LCRC of its EOF word, or ABT; `fecCorr` and `fecUnc` count the FEC codewords that were corrected and
that were uncorrectable, and `symErr` the corrected symbols on each lane of the port (R61). -/
structure RxFrame where
  sofClass : BitVec 4
  lseq : BitVec 8
  hdr : Header
  payload : List Byte
  trailer : BitVec 32
  pad : BitVec 3
  lcrc : BitVec 16
  fecCorr : BitVec 16
  fecUnc : BitVec 16
  symErr : List (BitVec 16)
  abt : Bool
  deriving DecidableEq, Repr

/-- An error met while a replica is read out (R90, R493). -/
inductive TxError where
  | none
  | memory
  | checkValue
  deriving DecidableEq, Repr

/-- An SPDM request (R518), as its bytes spell it: what NEGOTIATE_ALGORITHMS offers, slots, offsets, and the kind of
summary (0 none, 1 TCB, 255 all). -/
inductive SpdmReq where
  | getVersion
  | getCapabilities
  | negotiateAlgorithms (p256 sha256 dmtf : Bool)
  | getDigests
  | getCertificate (slot : BitVec 8) (offset length : BitVec 16)
  | challenge (slot summary : BitVec 8)
  | getMeasurements (index : BitVec 8) (signed : Bool)
  | other (code : BitVec 8)
  deriving DecidableEq, Repr

/-- SPDM error codes that the spec names (R516, R518), and InvalidRequest. -/
inductive SpdmError where
  | unexpectedRequest
  | unsupportedRequest
  | unspecified
  | negotiationFail
  | invalidRequest
  deriving DecidableEq, Repr

/-- An SPDM response (R518) with what the spec says it carries. -/
inductive SpdmResp where
  | version (major minor : Nat)
  | capabilities (cert chal measSig : Bool) (ctExponent transferSize maxMessage : Nat)
  | algorithms
  | digests (chain : List Byte)
  | certificate (portion : List Byte) (remainder : Nat)
  | challengeAuth (chainDigest nonce summary signature : List Byte)
  | measurements (count : Nat) (blocks : List (Nat × List Byte)) (nonce signature : List Byte)
  | error (code : SpdmError)
  deriving DecidableEq, Repr, Inhabited

/-- A prompter register g0 to g31 (R292). -/
abbrev GReg := BitVec 5

/-- The fields of a flag-format instruction word (R295, R300). -/
structure FlagForm where
  rd : GReg
  ra : GReg
  rt : GReg
  r : Bool
  c : Bool
  f8 : BitVec 8
  deriving DecidableEq, Repr

/-- A word of protected storage (R429, R438, R443, R489), by the class of its memory: 0 a cell of a packet; 1 and 2 a word of a
cluster's scratch or private memory by its diagnostic-view address (R35), an item of a mailbox (physical slot, mailbox, place from the oldest),
or the issue queues and registers of a slot; 3 a place of the hash accumulator (8 × set + way); 4 a panel buffer, ACTIVE or NEXT; 5 a line
of a stack cache; 6 a word of a forwarding table's copy; 7 the free-store entry or state word of a buffer; 8 an item of the sample FIFO or the event
queue; 9 the memories that work for a context; 10 a frame in replay storage by LSEQ; 11 a cue sheet or a gate list. A burst of a stack is named by its offset, with
the bytes received wrongly of its 36 and what each was changed by, and whether the stack's on-die ECC reports it; `parity` is one failed
transfer of a pseudo-channel. -/
inductive Spot where
  | packet (pkt : Nat)
  | word (addr : Nat)
  | item (slot box i : Nat)
  | queues (slot : Nat)
  | hash (slot i : Nat)
  | panel (slot : Nat) (next : Bool)
  | line (stack i : Nat)
  | table (engine table i : Nat)
  | freeEntry (pool buf : Nat)
  | stateWord (pool buf : Nat)
  | sample (i : Nat)
  | event (i : Nat)
  | context (x : Nat)
  | replay (port lseq : Nat)
  | sheet (engine : Nat)
  | gates (port : Nat)
  | burst (stack off : Nat) (flips : List (Nat × Nat)) (onDie : Bool)
  | parity (stack pch : Nat)
  deriving DecidableEq, Repr

/-- Bits of a stored word that have changed by themselves: one of them (R489: corrected), or, where `bad`, more. -/
structure Upset where
  spot : Spot
  bad : Bool
  deriving DecidableEq, Repr

/-- The commit groups of the device: every block with class C fields (R16), and within a block one group per table,
berth die, pool, port, engine, line, cluster or stack as its chapter says. -/
inductive CommitGroup where
  | acc (t : TargetId)
  | fmc
  | layout (b : BerthId)
  | fwd
  | pool (k : PoolId)
  | sched (p : PortId)
  | gate (p : PortId)
  | time
  | cue (e : EngineId)
  | curt (l : LineId)
  | arr (c : ClusterId)
  | stk (n : StackId)
  | clk
  deriving DecidableEq, Repr

/-- The commands. Each constructor is a row of the table of operations and events; its text is that row's. -/
inductive Instr where
  /-- R580: A write to a register with no row of its own, judged field by field under its classes. -/
  | registerWrite (m : MasterId) (off : BitVec 24) (v : Word)
  /-- R16: A write to a BLOCK_COMMIT register arms the shadow when its tag matches BLOCK_CTAG. -/
  | blockCommit (m : MasterId) (g : CommitGroup) (tag : Byte)
  /-- R16: At the block's next boundary the armed shadow is applied whole, or refused by the block's check, and PENDING returns to 0. -/
  | commitApply (g : CommitGroup)
  /-- R53: A write of ACC_TBL_STATUS.CLR clears DENYCNT, the deny record and FIRSTEV. -/
  | accDenyClr (t : TargetId)
  /-- R59: The last access admitted under the previous table completes and DRAINED reads 1. -/
  | accessDrained (t : TargetId)
  /-- R465: A host access to BAR0 reaches the registers as master 0x000, with the size and alignment check of R582. -/
  | bar0Access (off : BitVec 26) (len : BitVec 13) (write : Option (List Byte))
  /-- R466: A host access to BAR2 reaches device memory at WINBASE plus the offset. -/
  | bar2Access (off : BitVec 33) (len : BitVec 13) (write : Option (List Byte))
  /-- R69: A write of 1 to PORT_CTL.EN moves the port from DOWN to WAKE. -/
  | portEnable (m : MasterId) (p : PortId)
  /-- R69: A write of 0 to PORT_CTL.EN moves the port to DOWN from any state. -/
  | portDisable (p : PortId)
  /-- R89: A write of PORT_CTL.RETRAIN sends an ACTIVE port to RETRAIN. -/
  | portRetrain (p : PortId)
  /-- R95: A write of PORT_CTL.REWIDEN clears LFAIL and retrains at the configured width. -/
  | portRewiden (p : PortId)
  /-- R69: The lane-group PLL locks and the port moves from WAKE to TRAINING. -/
  | wakePllLocked (p : PortId)
  /-- R69: The PLL is not locked 1 ms after entry to WAKE, and the port fails with TRAIN. -/
  | wakeTimeout (p : PortId)
  /-- R69: All lanes finish training or adaptation, and the port enters LOCKING. -/
  | trainingDone (p : PortId)
  /-- R69: Training does not finish within its timeout, and the port fails with TRAIN. -/
  | trainingTimeout (p : PortId)
  /-- R69: FEC alignment and deskew complete, and the port enters INIT. -/
  | lockAligned (p : PortId)
  /-- R69: Alignment does not complete within 1 ms, and the port fails with LOCK. -/
  | lockTimeout (p : PortId)
  /-- R76: A received INIT word is recorded; the port may enter ACTIVE, fail with WIDTH, or downshift. -/
  | initWordRx (p : PortId) (index : BitVec 4) (value : BitVec 16) (done : Bool)
  /-- R76: Every 1 µs the sender repeats its INIT words. -/
  | initRepeat (p : PortId)
  /-- R69: Ten ms pass in INIT without both ends DONE, and the port fails with INIT. -/
  | initTimeout (p : PortId)
  /-- R69: RETRAIN does not regain ACTIVE within 10 ms, and the port fails. -/
  | retrainTimeout (p : PortId)
  /-- R93: A lane loses signal, lock or alignment, or exceeds THRESH, so LFAIL is set and the port retrains. -/
  | laneFail (lane : LaneId) (sig cdr align : Bool)
  /-- R85: A received frame is accepted in sequence, discarded as duplicate, or NAKed as bad or out of sequence. -/
  | frameRx (p : PortId) (f : RxFrame)
  /-- R73: A reserved control word or a misplaced frame word is counted and discarded. -/
  | controlWordProterr (p : PortId) (word : BitVec 64) (inFrame : Bool)
  /-- R80: A CRD word adds returned credit; an overflow sends the port to RETRAIN. -/
  | crdRx (p : PortId) (c : ClassId) (count : BitVec 16)
  /-- R86: A link ACK frees replay storage up to the acknowledged LSEQ. -/
  | linkAckRx (p : PortId) (lseq : BitVec 8)
  /-- R86: A NAK replays every stored frame from E onward before any new frame. -/
  | nakRx (p : PortId) (e : BitVec 8)
  /-- R86: Two hundred ns after the oldest unacknowledged acceptance, the receiver sends ACK. -/
  | ackDelayExpiry (p : PortId)
  /-- R80: At least every 1 µs the receiver sends each class's cumulative CRD. -/
  | creditRefresh (p : PortId)
  /-- R86: The oldest frame is not acknowledged within ACKTMO, so it is replayed, or the port retrains after MAX replays. -/
  | acktmoExpiry (p : PortId)
  /-- R154: When the link can start a frame, the port picks XC or a TC queue by deficit round-robin and starts its head. -/
  | egressChoose (p : PortId)
  /-- R583: A frame starts on egress once it can no longer run short of data. -/
  | cutThroughStart (p : PortId) (c : ClassId)
  /-- R146: A replica finishes its copy, releases its cells and verifies the check value. -/
  | frameTxEnd (p : PortId) (err : TxError)
  /-- R120: A fenced port discards one queued packet per quay cycle. -/
  | fenceDrain (p : PortId)
  /-- R67: The armed quad modes apply once the affected ports are disabled and DOWN, resetting credits and the scale table. -/
  | layoutApply (b : BerthId)
  /-- R581: A write that changes LINK_CFG.FORM loads that form's preset into LINK_TXEQ. -/
  | formWrite (m : MasterId) (lane : LaneId) (form : BitVec 1)
  /-- R96: Clears every counter of the port. -/
  | portCntClr (p : PortId)
  /-- R101: A header checked once its 32 bytes arrive is metered, discarded as HDRERR, or passed to lookup. -/
  | packetIngress (p : PortId) (sofClass : BitVec 4) (lseq : BitVec 8) (h : Header)
  /-- R107: The forwarding lookup resolves a port, group or multicast target, or drops the packet, and allocates its cells. -/
  | lookupComplete (p : PortId)
  /-- R106: A packet whose DST is FWD_SELF.ID goes to the device without a lookup. -/
  | devicePacketDeliver (p : PortId)
  /-- R105: A PUT addressed to the device writes its data after verification, or is dropped if refused. -/
  | put (i : BitVec 12)
  /-- R105: A PUT_ACK is written and answered with an ACK carrying its status. -/
  | putAck (i : BitVec 12)
  /-- R105: A GET is checked for form and access, then answered with GETRESP or ACK. -/
  | get (i : BitVec 12)
  /-- R102: A GETRESP is delivered to the injector that awaits it, or discarded with HDRERR. -/
  | getresp (i : BitVec 12)
  /-- R102: An ACK status record is delivered to the injector that awaits it, or discarded. -/
  | ack (i : BitVec 12)
  /-- R123: An injector starts a held packet once throttling and pool room allow. -/
  | injectedPacketStart (m : MasterId) (i : BitVec 12)
  /-- R109: A write of FWD_IND_DATA adds one word to the staging list. -/
  | fwdStageWord (m : MasterId) (v : Word)
  /-- R124: Clears every FWD counter and FWD_LASTDROP. -/
  | fwdCntClr
  /-- R137: A pool allocation command takes buffers from the free store, or waits. -/
  | alloc (k : PoolId) (owner : MasterId) (n : BitVec 16) (sharers : BitVec 10) (job : Byte)
  /-- R134: A waiting allocation is served once a buffer frees and the threshold state lets it through. -/
  | allocGrant (k : PoolId)
  /-- R137: The owner adds references to a buffer, or the command is refused. -/
  | addref (k : PoolId) (buf : BitVec 24) (n : BitVec 10) (by_ : MasterId)
  /-- R137: The owner hands the buffer to a new owner. -/
  | pass (k : PoolId) (buf : BitVec 24) (dest : MasterId) (by_ : MasterId)
  /-- R140: Decrements SHARERS and frees the buffer at zero, or refuses with DFREE or WRONGOWNER. -/
  | release (k : PoolId) (buf : BitVec 24) (by_ : MasterId)
  /-- R130: A write of EN = 1 checks the configuration and enters INIT or sets CFGERR. -/
  | poolEnable (m : MasterId) (k : PoolId)
  /-- R130: The pool manager finishes filling the ring and state words, and the pool enters NORMAL. -/
  | poolInitDone (k : PoolId)
  /-- R131: A write of EN = 0 disables an idle pool, or is refused. -/
  | poolDisable (m : MasterId) (k : PoolId)
  /-- R151: Clears the pool's counters, error record, FIRSTEV and INCONS. -/
  | poolStatusClr (k : PoolId)
  /-- R148: Every PERIOD ms the leak audit starts a sweep over every enabled pool. -/
  | auditSweepStart
  /-- R149: At the end of a sweep the free words are compared with the free store, and INCONS is raised on a difference. -/
  | auditSweepEnd
  /-- R150: Clears every BUF counter. -/
  | bufCntClr
  /-- R163: At its fabric time, a gate-list entry ends and the next entry opens and closes classes. -/
  | gateEdge (p : PortId)
  /-- R166: At BASE plus k cycles the committed gate list takes over. -/
  | gateTakeover (p : PortId)
  /-- R169: Clears every SCHED counter. -/
  | schedCntClr (p : PortId)
  /-- R171: Clears the queue's high-water marks and sample count. -/
  | telQClr (q : QueueId)
  /-- R168: A read of TEL_SFIFO_LO removes the oldest sample and latches its upper word. -/
  | sfifoPop (m : MasterId)
  /-- R173: Each AON tick advances the master time, and every replica loads the tick value. -/
  | aonTick (upsets : List Upset)
  /-- R177: A read of TIME_NOW_LO returns ns bits and latches the high word and fraction. -/
  | timeNowRead (m : MasterId)
  /-- R178: A MODE 1 commit sets fabric time at the AON tick. -/
  | timeSet
  /-- R178: A MODE 2 commit steps fabric time by a signed amount at the AON tick. -/
  | timeStep
  /-- R178: A MODE 3 commit slews fabric time at 200 ppm. -/
  | timeSlew
  /-- R205: Clears every TIME counter. -/
  | timeCntClr
  /-- R182: Every 2^SYNCINT µs, SYNC is sent on each active tide port, and a follower sends DREQ. -/
  | syncSend
  /-- R183: A received SYNC is accepted or rejected; an accepted one feeds the servo. -/
  | sync (i : BitVec 8)
  /-- R182: A received DREQ is answered with DRESP when its DOMAIN matches. -/
  | dreq (i : BitVec 8)
  /-- R184: A DRESP completes the exchange and the follower steps or slews by the computed offset. -/
  | dresp (i : BitVec 8)
  /-- R185: HOLDCNT intervals pass without an accepted SYNC, and the tide engine enters HOLDOVER. -/
  | holdoverEntry
  /-- R187: A 1PPS_IN edge is recorded and, with SRC 2, aligns the sub-second phase. -/
  | ppsEdge
  /-- R188: REF10M_IN is missing for 10 µs, so REFOK falls and the internal oscillator takes over. -/
  | refLoss
  /-- R188: No 1PPS_IN edge arrives within 1.1 s, so PPSOK falls. -/
  | ppsLoss
  /-- R189: 1PPS_OUT rises at the programmed position within the second. -/
  | ppsOutRise
  /-- R189: 1PPS_OUT falls after WIDTH µs high. -/
  | ppsOutFall
  /-- R192: An enabled cue engine takes its next entry when the entry's time is reached, firing or skipping it. -/
  | cueEntryDue (e : EngineId)
  /-- R196: The cluster engine wakes its cluster one wake time ahead of an entry. -/
  | cueEarlyWake (e : EngineId)
  /-- R584: A write of 1 to CUE_CTL.EN resumes the engine at NEXT of repetition k. -/
  | cueEnable (e : EngineId)
  /-- R584: A write of 0 to CUE_CTL.EN stops the engine after any entry already firing. -/
  | cueDisable (e : EngineId)
  /-- R206: Clears the cue counters and FIRSTEV. -/
  | cueCntClr (e : EngineId)
  /-- R202: TMO µs after the first arrival without release, TIMEOUT is set and an event raised. -/
  | curtainTimeout (l : LineId)
  /-- R207: Clears the line's counter, TIMEOUT and FIRSTEV. -/
  | curtClr (l : LineId)
  /-- R215: The descriptor loads a group into a context, and the context enters LOADING. -/
  | groupCreate (r : RingId) (i : BitVec 8)
  /-- R215: The group descriptor has been read and checked; the context enters IDLE or returns to FREE with a refusal. -/
  | groupLoaded (x : CtxId)
  /-- R224: The descriptor aborts any running instance and moves the context to DESTROYING. -/
  | groupDestroy (r : RingId) (i : BitVec 8)
  /-- R221: All buffers released, the context returns to FREE. -/
  | destroyDone (x : CtxId)
  /-- R219: A contribution packet is accepted, held as early or discarded, and may start or abort the instance. -/
  | contrib (i : BitVec 12)
  /-- R219: A tree-mode partial from a child is checked and combined. -/
  | partial_ (i : BitVec 12)
  /-- R263: Exact-mode records from a child are checked and merged. -/
  | xpartial (i : BitVec 12)
  /-- R229: A RESULT from the parent is checked and replicated to this device's destinations. -/
  | result (i : BitVec 12)
  /-- R236: An error packet from the parent or a child aborts the instance. -/
  | cerr (i : BitVec 12)
  /-- R233: Once a chunk's data from every contributor is combined, its results are issued or its partial sent upward. -/
  | chunkCombined (x : CtxId) (k : BitVec 32) (err : Option (BitVec 10))
  /-- R221: The last result replica has finished; the instance ends OK or PARTIAL_FENCED and the context returns to IDLE. -/
  | drainDone (x : CtxId)
  /-- R237: After the CERR packets, every buffer is released and the context returns to IDLE. -/
  | abortDone (x : CtxId)
  /-- R223: TMO µs after RUNNING without reaching DRAINING, the instance aborts with TIMEOUT. -/
  | instanceTimeout (x : CtxId)
  /-- R222: A write of COLL_CTL.START starts a CUED instance. -/
  | collStart (m : MasterId) (x : CtxId)
  /-- R224: A write of COLL_CTL.ABORT aborts a running instance with HOST_ABORT. -/
  | collAbort (x : CtxId)
  /-- R242: A write of COLL_STRAG empties the straggler history and clears every mark. -/
  | collStragWrite (x : CtxId) (v : Word)
  /-- R245: Clears the context's counters and COLL_BADREC. -/
  | collCntClr (x : CtxId)
  /-- R246: Clears the express reducer's counters and XRED_HWLAT. -/
  | xredCntClr (n : Fin 4)
  /-- R284: The descriptor clears, powers or loads a cluster and reads its image. -/
  | loadProgram (r : RingId) (i : BitVec 8)
  /-- R277: The image has been written into the cluster memories, and rehearsal starts. -/
  | imageLoaded (c : ClusterId)
  /-- R286: Rehearsal ends, and the cluster reads LOADED or is cleared with a refusal code. -/
  | rehearsalDone (c : ClusterId)
  /-- R289: The descriptor arms a LOADED cluster to begin at fabric time T. -/
  | start (r : RingId) (i : BitVec 8)
  /-- R289: At T the prompter begins at ENTRY and the cluster enters RUNNING. -/
  | startTimeReached (c : ClusterId)
  /-- R290: The descriptor halts a cluster with cause STOP, or clears it or turns it off. -/
  | stop (r : RingId) (i : BitVec 8)
  /-- R290: Clearing finishes zeroing the cluster, which enters EMPTY or OFF. -/
  | clearingDone (c : ClusterId)
  /-- R277: A cluster domain finishes its 2 µs power-up from OFF. -/
  | clusterPowerUpDone (c : ClusterId)
  /-- R312: After END, every queue and the stevedore are empty, so the cluster enters LOADED and START completes. -/
  | programEnd (c : ClusterId)
  /-- R278: After DOZEDLY idle stage cycles the cluster enters DOZE. -/
  | dozeEntry (c : ClusterId)
  /-- R278: After RETDLY µs in DOZE the cluster enters RETAIN. -/
  | retainEntry (c : ClusterId)
  /-- R279: A wake event returns a DOZE or RETAIN cluster to RUNNING. -/
  | clusterWake (c : ClusterId)
  /-- R280: A write of CLU_CTL.HALT halts the cluster with cause STOP. -/
  | halt (c : ClusterId)
  /-- R282: A write of CLU_CTL.RESUME returns a cluster halted by STOP or DEBUG to RUNNING. -/
  | resume (m : MasterId) (c : ClusterId)
  /-- R281: A macro-op not done after MOPTMO × 100 µs fails the cluster. -/
  | progressTimeout (c : ClusterId)
  /-- R291: Clears every CLU counter. -/
  | cluCntClr (c : ClusterId)
  /-- R295: rd := ra + rb. -/
  | aluAdd (c : ClusterId) (rd : GReg) (ra : GReg) (rb : GReg)
  /-- R295: rd := ra − rb. -/
  | aluSub (c : ClusterId) (rd : GReg) (ra : GReg) (rb : GReg)
  /-- R295: rd := ra and rb. -/
  | aluAnd (c : ClusterId) (rd : GReg) (ra : GReg) (rb : GReg)
  /-- R295: rd := ra or rb. -/
  | aluOr (c : ClusterId) (rd : GReg) (ra : GReg) (rb : GReg)
  /-- R295: rd := ra xor rb. -/
  | aluXor (c : ClusterId) (rd : GReg) (ra : GReg) (rb : GReg)
  /-- R295: rd := ra shifted left by rb[4:0]. -/
  | aluSll (c : ClusterId) (rd : GReg) (ra : GReg) (rb : GReg)
  /-- R295: rd := ra shifted right with zero fill. -/
  | aluSrl (c : ClusterId) (rd : GReg) (ra : GReg) (rb : GReg)
  /-- R295: rd := ra shifted right with sign fill. -/
  | aluSra (c : ClusterId) (rd : GReg) (ra : GReg) (rb : GReg)
  /-- R295: rd := 1 if ra < rb as signed. -/
  | aluSlt (c : ClusterId) (rd : GReg) (ra : GReg) (rb : GReg)
  /-- R295: rd := 1 if ra < rb as unsigned. -/
  | aluSltu (c : ClusterId) (rd : GReg) (ra : GReg) (rb : GReg)
  /-- R295: rd := low 32 bits of ra × rb. -/
  | aluMul (c : ClusterId) (rd : GReg) (ra : GReg) (rb : GReg)
  /-- R295: rd := high 32 bits of the signed product. -/
  | aluMulh (c : ClusterId) (rd : GReg) (ra : GReg) (rb : GReg)
  /-- R295: rd := high 32 bits of the unsigned product. -/
  | aluMulhu (c : ClusterId) (rd : GReg) (ra : GReg) (rb : GReg)
  /-- R295: rd := signed minimum. -/
  | aluMin (c : ClusterId) (rd : GReg) (ra : GReg) (rb : GReg)
  /-- R295: rd := signed maximum. -/
  | aluMax (c : ClusterId) (rd : GReg) (ra : GReg) (rb : GReg)
  /-- R295: rd := unsigned minimum. -/
  | aluMinu (c : ClusterId) (rd : GReg) (ra : GReg) (rb : GReg)
  /-- R295: rd := unsigned maximum. -/
  | aluMaxu (c : ClusterId) (rd : GReg) (ra : GReg) (rb : GReg)
  /-- R295: rd := ra rotated left by rb[4:0]. -/
  | aluRotl (c : ClusterId) (rd : GReg) (ra : GReg) (rb : GReg)
  /-- R295: rd := leading zeros of ra. -/
  | aluClz (c : ClusterId) (rd : GReg) (ra : GReg)
  /-- R295: rd := set bits of ra. -/
  | aluPopc (c : ClusterId) (rd : GReg) (ra : GReg)
  /-- R295: rd := ra + sext(IMM16). -/
  | addi (c : ClusterId) (rd : GReg) (ra : GReg) (imm : BitVec 16)
  /-- R295: rd := ra and zext(IMM16). -/
  | andi (c : ClusterId) (rd : GReg) (ra : GReg) (imm : BitVec 16)
  /-- R295: rd := ra or zext(IMM16). -/
  | ori (c : ClusterId) (rd : GReg) (ra : GReg) (imm : BitVec 16)
  /-- R295: rd := ra xor zext(IMM16). -/
  | xori (c : ClusterId) (rd : GReg) (ra : GReg) (imm : BitVec 16)
  /-- R295: Signed compare with an immediate. -/
  | slti (c : ClusterId) (rd : GReg) (ra : GReg) (imm : BitVec 16)
  /-- R295: Unsigned compare with an immediate. -/
  | sltiu (c : ClusterId) (rd : GReg) (ra : GReg) (imm : BitVec 16)
  /-- R295: Shift or rotate by an immediate amount of the selected kind. -/
  | shi (c : ClusterId) (rd : GReg) (ra : GReg) (kind : BitVec 2) (amt : BitVec 5)
  /-- R295: rd := IMM16 << 16. -/
  | lui (c : ClusterId) (rd : GReg) (imm : BitVec 16)
  /-- R296: Local signed byte load through the self alias. -/
  | lb (c : ClusterId) (rd : GReg) (ra : GReg) (imm : BitVec 16)
  /-- R296: Local unsigned byte load. -/
  | lbu (c : ClusterId) (rd : GReg) (ra : GReg) (imm : BitVec 16)
  /-- R296: Local signed half-word load. -/
  | lh (c : ClusterId) (rd : GReg) (ra : GReg) (imm : BitVec 16)
  /-- R296: Local unsigned half-word load. -/
  | lhu (c : ClusterId) (rd : GReg) (ra : GReg) (imm : BitVec 16)
  /-- R296: Local word load. -/
  | lw (c : ClusterId) (rd : GReg) (ra : GReg) (imm : BitVec 16)
  /-- R296: Local byte store. -/
  | sb (c : ClusterId) (rs : GReg) (ra : GReg) (imm : BitVec 16)
  /-- R296: Local half-word store. -/
  | sh (c : ClusterId) (rs : GReg) (ra : GReg) (imm : BitVec 16)
  /-- R296: Local word store. -/
  | sw (c : ClusterId) (rs : GReg) (ra : GReg) (imm : BitVec 16)
  /-- R296: Far signed byte load at a 48-bit device address. -/
  | lbx (c : ClusterId) (rd : GReg) (ra : GReg) (imm : BitVec 16)
  /-- R296: Far unsigned byte load. -/
  | lbux (c : ClusterId) (rd : GReg) (ra : GReg) (imm : BitVec 16)
  /-- R296: Far signed half-word load. -/
  | lhx (c : ClusterId) (rd : GReg) (ra : GReg) (imm : BitVec 16)
  /-- R296: Far unsigned half-word load. -/
  | lhux (c : ClusterId) (rd : GReg) (ra : GReg) (imm : BitVec 16)
  /-- R296: Far word load. -/
  | lwx (c : ClusterId) (rd : GReg) (ra : GReg) (imm : BitVec 16)
  /-- R299: Far byte store, posted. -/
  | sbx (c : ClusterId) (rs : GReg) (ra : GReg) (imm : BitVec 16)
  /-- R299: Far half-word store, posted. -/
  | shx (c : ClusterId) (rs : GReg) (ra : GReg) (imm : BitVec 16)
  /-- R299: Far word store, posted. -/
  | swx (c : ClusterId) (rs : GReg) (ra : GReg) (imm : BitVec 16)
  /-- R299: An outstanding far store is acknowledged, releasing stalled stores, loads or signals. -/
  | farStoreAck (c : ClusterId) (i : Fin 8)
  /-- R295: Branch if equal. -/
  | beq (c : ClusterId) (ra : GReg) (rb : GReg) (off : BitVec 16)
  /-- R295: Branch if not equal. -/
  | bne (c : ClusterId) (ra : GReg) (rb : GReg) (off : BitVec 16)
  /-- R295: Branch if less, signed. -/
  | blt (c : ClusterId) (ra : GReg) (rb : GReg) (off : BitVec 16)
  /-- R295: Branch if greater or equal, signed. -/
  | bge (c : ClusterId) (ra : GReg) (rb : GReg) (off : BitVec 16)
  /-- R295: Branch if less, unsigned. -/
  | bltu (c : ClusterId) (ra : GReg) (rb : GReg) (off : BitVec 16)
  /-- R295: Branch if greater or equal, unsigned. -/
  | bgeu (c : ClusterId) (ra : GReg) (rb : GReg) (off : BitVec 16)
  /-- R295: Jump relative and link. -/
  | jal (c : ClusterId) (rd : GReg) (off : BitVec 16)
  /-- R295: Jump to a register plus offset and link. -/
  | jalr (c : ClusterId) (rd : GReg) (ra : GReg) (imm : BitVec 16)
  /-- R304: Start a hardware loop with its count from ra. -/
  | loop (c : ClusterId) (n : Bool) (ra : GReg) (last : BitVec 16)
  /-- R304: Start a hardware loop with an immediate count. -/
  | loopi (c : ClusterId) (n : Bool) (count : BitVec 9) (last : BitVec 16)
  /-- R313: Read a CSR; reading cyc_lo latches cyc_hi. -/
  | csrr (c : ClusterId) (rd : GReg) (csr : BitVec 12)
  /-- R307: Write a CSR; a write to an active loop counter is ignored and sets LCWARN. -/
  | csrw (c : ClusterId) (rs : GReg) (csr : BitVec 12)
  /-- R300: Set the cluster's own flag after earlier stores are acknowledged. -/
  | setf (c : ClusterId) (x : FlagForm)
  /-- R300: Clear the cluster's own flag. -/
  | clrf (c : ClusterId) (x : FlagForm)
  /-- R300: Read a flag's state without waiting. -/
  | tstf (c : ClusterId) (x : FlagForm)
  /-- R300: Stall until the flag is set, clearing it atomically with C = 1. -/
  | waitf (c : ClusterId) (x : FlagForm)
  /-- R303: Record this cluster's arrival at a curtain line. -/
  | carr (c : ClusterId) (x : FlagForm)
  /-- R302: Write the replica's fabric time in ns to a register pair. -/
  | time (c : ClusterId) (rd : GReg)
  /-- R302: Stall until fabric time reaches the value in a register pair. -/
  | waitt (c : ClusterId) (ra : GReg)
  /-- R308: Push a macro-op slot into its family's queue with parameters and return a ticket. -/
  | issue (c : ClusterId) (rd : GReg) (ra : GReg) (slot : BitVec 11)
  /-- R308: Issue the macro-op whose slot is in rb. -/
  | issuer (c : ClusterId) (rd : GReg) (ra : GReg) (rb : GReg)
  /-- R311: Return a queue or stevedore query value, optionally clearing the error record. -/
  | mqry (c : ClusterId) (rd : GReg) (ra : GReg) (sel : BitVec 16)
  /-- R310: Stall until the ticket's queue has retired past its sequence number. -/
  | mwait (c : ClusterId) (x : FlagForm)
  /-- R312: End the program once every queue and the stevedore are empty. -/
  | end_ (c : ClusterId)
  /-- R428: A flag or macro-op wait expires, the watchdog record is written and the cluster halts with WAIT. -/
  | waitTimeout (c : ClusterId)
  /-- R347: Load a weight panel into the idle panel buffer. -/
  | loadw (c : ClusterId)
  /-- R349: Stream activation rows through the loaded panel to the output. -/
  | stream (c : ClusterId) (once : List (BitVec 24)) (again : Option (BitVec 24))
  /-- R362: Column diagnosis ends and bypasses columns or fails the cluster. -/
  | diagnosisDone (c : ClusterId) (cols : BitVec 64) (other : Bool) (further : Bool)
  /-- R368: Clears every ARR counter. -/
  | arrCntClr (c : ClusterId)
  /-- R328: Element-wise A + B. -/
  | vecAdd (c : ClusterId)
  /-- R328: Element-wise A − B. -/
  | vecSub (c : ClusterId)
  /-- R328: Element-wise A × B. -/
  | vecMul (c : ClusterId)
  /-- R328: Element-wise A × B + C with one rounding. -/
  | vecFma (c : ClusterId)
  /-- R328: Element-wise maximum under the total order. -/
  | vecMax (c : ClusterId)
  /-- R328: Element-wise minimum under the total order. -/
  | vecMin (c : ClusterId)
  /-- R328: A plus the scalar s. -/
  | vecAdds (c : ClusterId)
  /-- R328: A times the scalar s. -/
  | vecMuls (c : ClusterId)
  /-- R328: Element-wise absolute value. -/
  | vecAbs (c : ClusterId)
  /-- R328: Element-wise negation. -/
  | vecNeg (c : ClusterId)
  /-- R328: Element-wise max(A, +0). -/
  | vecRelu (c : ClusterId)
  /-- R328: Element-wise exponential. -/
  | vecExp (c : ClusterId)
  /-- R328: Element-wise reciprocal. -/
  | vecRecip (c : ClusterId)
  /-- R328: Element-wise reciprocal square root. -/
  | vecRsqrt (c : ClusterId)
  /-- R328: Integer bitwise AND. -/
  | vecAnd (c : ClusterId)
  /-- R328: Integer bitwise OR. -/
  | vecOr (c : ClusterId)
  /-- R328: Integer bitwise XOR. -/
  | vecXor (c : ClusterId)
  /-- R329: Tree sum along rows or columns. -/
  | reduceSum (c : ClusterId)
  /-- R329: Tree maximum along rows or columns. -/
  | reduceMax (c : ClusterId)
  /-- R329: Tree minimum along rows or columns. -/
  | reduceMin (c : ClusterId)
  /-- R329: Tree sum of squares along rows or columns. -/
  | reduceSumsq (c : ClusterId)
  /-- R329: Convert every element of A to B.FMT. -/
  | convert (c : ClusterId)
  /-- R333: Weigh returned expert rows into each token's output in ascending expert order. -/
  | combine (c : ClusterId)
  /-- R330: Copy rows, optionally indirect or converting, through the stevedore. -/
  | gather (c : ClusterId)
  /-- R330: Write local data to an endpoint as PUT_ACK packets. -/
  | sendPut (c : ClusterId)
  /-- R331: Contribute local data to a collective context as CONTRIB packets. -/
  | sendContrib (c : ClusterId)
  /-- R330: Read from an endpoint with GET packets into local memory. -/
  | recv (c : ClusterId)
  /-- R332: A remote request without a response within WAITUS ends the macro-op with NORESP. -/
  | norespTimeout (c : ClusterId)
  /-- R403: Stable sort of records by key. -/
  | sort (c : ClusterId)
  /-- R404: Select the K greatest or least elements of each row with their indices. -/
  | topk (c : ClusterId)
  /-- R405: Keep records whose key satisfies the comparison and write their count. -/
  | filter (c : ClusterId)
  /-- R398: Write dense rows in bitmap-and-packed form and the byte count. -/
  | compress (c : ClusterId)
  /-- R407: Accumulate keyed values into the hash accumulator, spilling when sets are full. -/
  | scatteraddAdd (c : ClusterId)
  /-- R414: Accumulate rows of A into indexed rows of B. -/
  | scatteraddIntoRows (c : ClusterId)
  /-- R410: Re-apply spill records in order, inserting or re-spilling them. -/
  | scatteraddMerge (c : ClusterId)
  /-- R409: Write and invalidate resident entries in set order. -/
  | scatteraddDrain (c : ClusterId)
  /-- R333: Choose experts per token, send token rows and write route records. -/
  | route (c : ClusterId)
  /-- R335: Hold a queue until a flag is set, clearing it with CLEAR. -/
  | mopWaitf (c : ClusterId) (q : Fin 4)
  /-- R335: Set the cluster's own flag. -/
  | setfSet (c : ClusterId) (q : Fin 4)
  /-- R335: Clear the cluster's own flag. -/
  | setfClear (c : ClusterId) (q : Fin 4)
  /-- R335: Set another cluster's flag by a stevedore write. -/
  | setfRemote (c : ClusterId) (q : Fin 4)
  /-- R335: Macro-op curtain arrival. -/
  | setfCarr (c : ClusterId) (q : Fin 4)
  /-- R335: Hold a queue until a START_QUEUE cue action arrives. -/
  | cueStart (c : ClusterId) (q : Fin 4)
  /-- R335: Hold a queue until fabric time reaches a given value. -/
  | cueTime (c : ClusterId) (q : Fin 4)
  /-- R340: A macro-op completes, retires, records its status and sets DFLAG, or halts with MOPERR. -/
  | mopComplete (c : ClusterId) (q : Fin 4) (i : BitVec 6)
  /-- R389: Applies the seed as the latched high half with the written low half. -/
  | devJobSeedLoWrite (j : BitVec 8) (v : Word)
  /-- R389: Writes the seed's write latch only. -/
  | devJobSeedHiWrite (j : BitVec 8) (v : Word)
  /-- R391: Returns the low seed, latches the high half, and completes once every copy holds the value. -/
  | devJobSeedLoRead (m : MasterId) (j : BitVec 8)
  /-- R389: Applies the step as the latched high half with the written low half. -/
  | devJobStepLoWrite (j : BitVec 8) (v : Word)
  /-- R389: Writes the step's write latch only. -/
  | devJobStepHiWrite (j : BitVec 8) (v : Word)
  /-- R391: Returns the low step, latches the high half, and completes once every copy holds the value. -/
  | devJobStepLoRead (m : MasterId) (j : BitVec 8)
  /-- R389: Adds 1 to a job's step counter. -/
  | devJobAdvance (j : BitVec 8)
  /-- R418: A write of FLAG_f sets or clears a flag, with counted-flag effects. -/
  | flagWrite (m : MasterId) (c : ClusterId) (f : Byte) (v : Word)
  /-- R420: A write stored in scratch adds its bytes inside each window to COUNT. -/
  | scratchWriteCounted (m : MasterId) (c : ClusterId) (off : BitVec 23) (data : List Byte)
  /-- R421: A write sets TARGET and arms the slot. -/
  | cntAnnounce (m : MasterId) (c : ClusterId) (slot : Fin 16) (v : Word)
  /-- R430: An 8-byte write pushes an item; a 4-byte write latches the low word. -/
  | mbPushLo (m : MasterId) (c : ClusterId) (box : Fin 8) (wide : Bool) (v : BitVec 64)
  /-- R430: A 4-byte write pushes the latched pair, or the item is dropped when full. -/
  | mbPushHi (m : MasterId) (c : ClusterId) (box : Fin 8) (v : Word)
  /-- R431: An 8-byte read pops the oldest item; a 4-byte read returns the latched word. -/
  | mbPopLo (m : MasterId) (c : ClusterId) (box : Fin 8) (wide : Bool)
  /-- R431: A 4-byte read pops the oldest item and latches its low word. -/
  | mbPopHi (m : MasterId) (c : ClusterId) (box : Fin 8)
  /-- R437: Clears DROPS, CECNT and BADWR. -/
  | mbStatusClr (m : MasterId) (c : ClusterId) (box : Fin 8)
  /-- R446: An access to stack memory is served by the cache under its hint, or filled from the stack. -/
  | stackAccess (m : MasterId) (n : StackId) (off : BitVec 36) (len : BitVec 13) (hint : BitVec 2) (write : Option (List Byte))
  /-- R439: Every 3.9 or 1.95 µs a pseudo-channel is refreshed. -/
  | refresh (n : StackId) (p : Fin 32)
  /-- R445: Every INTERVAL ns the controller reads and corrects one line. -/
  | scrubRead (n : StackId) (flips : List (Nat × Nat × Nat))
  /-- R438: Every 1 ms the stack temperature is read; a large change starts a retrain. -/
  | stackTempRead (n : StackId) (t : Byte)
  /-- R456: Every INTERVAL ms each pseudo-channel is paused and re-centred, and drift is checked. -/
  | recentre (n : StackId) (p : Fin 32) (d : Byte)
  /-- R457: A write of STK_TRAIN.RETRAIN starts a stack retrain. -/
  | retrainRequest (n : StackId)
  /-- R457: A pseudo-channel finishes retraining; after the last one, TEMP is updated. -/
  | pchRetrainDone (n : StackId) (good : Bool)
  /-- R459: A write of STK_FENCE fences the named pseudo-channels. -/
  | stkFenceWrite (n : StackId) (mask : Word)
  /-- R451: Writes back the dirty lines in the page range. -/
  | writeback (m : MasterId) (n : StackId)
  /-- R451: Writes back and drops the lines in the range. -/
  | invalidate (m : MasterId) (n : StackId)
  /-- R451: Clears protection of the lines in the range. -/
  | unprotect (m : MasterId) (n : StackId)
  /-- R451: Drops the lines in the range without write-back. -/
  | discard (m : MasterId) (n : StackId)
  /-- R451: The cache sweep ends and BUSY falls. -/
  | cacheopDone (n : StackId)
  /-- R462: Clears every STK counter and STK_UELOG. -/
  | stkCntClr (n : StackId)
  /-- R469: A write sets a ring's submission tail, or is ignored with BADDB. -/
  | sqDoorbell (r : RingId) (v : BitVec 16)
  /-- R469: A write sets a ring's completion head. -/
  | cqDoorbell (r : RingId) (v : BitVec 16)
  /-- R469: A write sets the event ring head. -/
  | evqDoorbell (v : BitVec 16)
  /-- R471: The device fetches the head descriptor of a ring in round-robin turn when limits allow. -/
  | descriptorFetch (r : RingId) (words : Vector Word 16)
  /-- R477: Completes at once. -/
  | nop (r : RingId) (i : BitVec 8)
  /-- R484: Applies configuration records in order from host memory. -/
  | cfgBatch (r : RingId) (i : BitVec 8) (records : List Word)
  /-- R484: Batch record reads a register until it matches. -/
  | poll (r : RingId) (i : BitVec 8)
  /-- R484: A POLL record expires after TMO µs, ending the batch with TIMEOUT. -/
  | pollTimeout (r : RingId) (i : BitVec 8)
  /-- R480: Moves bytes between host and device memory at PCIe rate. -/
  | copy (r : RingId) (i : BitVec 8) (host : List Byte) (fails : Option Word)
  /-- R481: Sets host fence bits for ports or endpoints, optionally waiting for drain. -/
  | fence (r : RingId) (i : BitVec 8)
  /-- R481: Clears host fence bits for ports or endpoints. -/
  | unfence (r : RingId) (i : BitVec 8)
  /-- R482: Copies registers or sample records to host memory. -/
  | telemetryRead (r : RingId) (i : BitVec 8) (fails : Option (BitVec 17))
  /-- R553: Copies calibration-set bytes from flash to host memory. -/
  | calRead (r : RingId) (i : BitVec 8) (flash : Bool) (host : Bool)
  /-- R554: Erases, programs and verifies calibration-set bytes in flash. -/
  | calWrite (r : RingId) (i : BitVec 8) (host : List Byte) (good : Bool)
  /-- R520: Carries one SPDM request to the responder and returns its response. -/
  | attest (r : RingId) (i : BitVec 8) (q : SpdmReq) (fails : Bool)
  /-- R483: Changes WINBASE between two BAR2 TLPs. -/
  | remap (r : RingId) (i : BitVec 8)
  /-- R485: TIMER µs after the oldest unsignalled completion or event, the vector is raised. -/
  | interruptTimer (r : Option RingId)
  /-- R474: A write of HIF_RCFG.EN = 1 enables a ring with zeroed indices. -/
  | ringEnable (m : MasterId) (r : RingId)
  /-- R474: A write of HIF_RCFG.EN = 0 stops fetching; IDLE follows when outstanding work ends. -/
  | ringDisable (r : RingId)
  /-- R475: A failed ring access to host memory stops the ring with ERROR. -/
  | hostMemoryError (r : RingId) (fetch : Bool) (status : BitVec 32)
  /-- R486: A queued event record is written to the host event ring once it has room. -/
  | eventWrite
  /-- R486: A write of HIF_EVQ_CFG.EN enables or disables delivery of events to the host ring. -/
  | evqEnable (m : MasterId) (en : Bool)
  /-- R488: Clears every HIF counter. -/
  | hifCntClr
  /-- R467: PCIe hot reset or link-down disables every ring and the event ring. -/
  | pcieLinkDown
  /-- R544: PERST_N low resets only the PCIe endpoint. -/
  | perst
  /-- R495: A write of ERR_UFAIL fails a RUNNING cluster with cause HOST. -/
  | ufail (m : MasterId) (c : BitVec 7)
  /-- R498: The understudy has powered up and issued writes are acknowledged, so migration and reload begin. -/
  | switchinPowerUpDone (c : ClusterId)
  /-- R498: Migration and reload end, and the panels are rebuilt. -/
  | migrationDone (c : ClusterId) (refail : Bool)
  /-- R500: The panels are rebuilt, and the cluster enters RUNNING and re-executes repeatable macro-ops. -/
  | switchinRunning (c : ClusterId) (refail : Bool) (unc : BitVec 21)
  /-- R505: Every INTERVAL ms lane margins are compared, and a fall beyond MARGIN raises a record. -/
  | laneDriftCheck (margins : List (LaneId × BitVec 6))
  /-- R506: A W1C write clears REJECT with ERR_REJ and ERR_REJMID. -/
  | rejectClear
  /-- R506: Clears the ERR counters, ERR_UELOG and UEFIRST. -/
  | errCntClr
  /-- R511: A write of SEC_ARB.ADVANCE starts blowing ARB bits up to V. -/
  | arbAdvance (m : MasterId) (v : Byte)
  /-- R511: The last ARB bit is blown and BUSY falls. -/
  | arbAdvanceDone
  /-- R512: A write of SEC_UPD_CTL.GO checks a new image and starts programming flash. -/
  | updateGo
  /-- R512: Flash programming and read-back end, and the update result is recorded. -/
  | updateDone (good : Bool)
  /-- R514: A write of SEC_PUSH_CTL.GO checks the pushed image and continues boot or stays in recovery. -/
  | pushGo (good : Bool)
  /-- R522: A submitted unlock token is checked, grants its scope or is refused, and replaces the nonce. -/
  | debugTokenSubmit (jtag : Option (Vector Word 44))
  /-- R518: The SPDM responder returns version 1.2. -/
  | getVersion
  /-- R518: The responder returns its capabilities. -/
  | getCapabilities
  /-- R518: The responder agrees ECDSA P-256 with SHA-256, or fails. -/
  | negotiateAlgorithms (p256 : Bool) (sha256 : Bool) (dmtf : Bool)
  /-- R518: The responder returns the slot 0 digest. -/
  | getDigests
  /-- R518: The responder returns a portion of the certificate chain. -/
  | getCertificate (slot : Byte) (off : BitVec 16) (len : BitVec 16)
  /-- R518: The responder returns a signed challenge response. -/
  | challenge (slot : Byte) (summary : Byte)
  /-- R518: The responder returns measurement blocks, signed when asked. -/
  | getMeasurements (index : Byte) (signed : Bool)
  /-- R519: A DOE abort resets that route's SPDM state. -/
  | doeAbort
  /-- R521: JTAG boundary instruction BYPASS. -/
  | bypass (tdi : Bool)
  /-- R521: JTAG instruction IDCODE. -/
  | idcode
  /-- R521: JTAG instruction SAMPLE. -/
  | sample (lands : List Bool)
  /-- R521: JTAG instruction PRELOAD. -/
  | preload (cells : List Bool)
  /-- R521: JTAG instruction EXTEST. -/
  | extest (lands : List Bool) (cells : List Bool)
  /-- R521: JTAG instruction HIGHZ. -/
  | highz (tdi : Bool)
  /-- R521: JTAG instruction CLAMP. -/
  | clamp (tdi : Bool)
  /-- R63: IEEE 1149.6 AC test pulse on lane pins. -/
  | extestPulse (lands : List Bool) (cells : List Bool)
  /-- R63: IEEE 1149.6 AC test train on lane pins. -/
  | extestTrain (lands : List Bool) (cells : List Bool)
  /-- R535: Every 100 µs sensors are read and each die's thermal state is updated. -/
  | sensorRead (temps : List (BitVec 11))
  /-- R536: Every STEPDN ms in THROTTLE, the die's cap falls by 100 MHz. -/
  | capStepDown (n : StackId)
  /-- R536: Every STEPUP ms after THROTTLE, the cap rises by 100 MHz. -/
  | capStepUp (n : StackId)
  /-- R530: A write of CLK_STG_TARGET sets a die's target frequency and starts a change. -/
  | stgTargetWrite (n : StackId) (mhz : BitVec 12)
  /-- R531: VSETTLE µs after a voltage raise, the PLL begins slewing up. -/
  | vsettleDone (n : StackId)
  /-- R531: The PLL reaches the new frequency and, when lowering, the voltage request falls. -/
  | slewDone (n : StackId)
  /-- R538: A PLL loses lock, stopping its domain's clock, and raises an event. -/
  | pllUnlock (k : Fin 60)
  /-- R538: The PLL relocks and the domain resumes. -/
  | pllRelock (k : Fin 60)
  /-- R538: Every 1 ms without relock the event repeats. -/
  | pllRelockRetry (k : Fin 60)
  /-- R526: A wake request brings a power domain to ON after its wake time. -/
  | domainWake (d : Fin 262)
  /-- R525: A reduction engine without a context or cue engine for 1 ms turns OFF. -/
  | engineIdleOff (n : StackId)
  /-- R528: A committed spread setting applies where the triangle reaches nominal frequency. -/
  | sscApply
  /-- R541: Clears every PWR counter. -/
  | pwrCntClr
  /-- R542: Clears CLK_CNT_UNLOCK. -/
  | clkCntUnlockClr
  /-- R544: SYS_RESET_N low resets the whole device, and its rise starts boot. -/
  | sysReset (high : Bool) (powerOn : Bool) (lands : BitVec 16)
  /-- R546: AON domains and fuses are up and STG_PGOOD is high; the image check starts. -/
  | aonDone
  /-- R546: The image check ends; boot goes to CALREAD or RECOVERY. -/
  | romCheckDone (readError : Bool)
  /-- R551: The calibration set is read and validated, or marked damaged or missing. -/
  | calreadDone (missing : Bool)
  /-- R546: PLLs lock, the cores start, and identity and the scale table are loaded. -/
  | harbourDone
  /-- R547: Stacks, quay dies and lanes are up, pool 0 is filled, and READY is set. -/
  | bringupDone (trained : List (Option (Fin 3 × Byte × Word))) (groupsBad : BitVec 64)
  /-- R574: SMBus read byte of READY, RECOVERY and the thermal state. -/
  | smbStatus (pec : Bool)
  /-- R574: SMBus read word of the hottest sensor temperature. -/
  | smbHottest (pec : Bool)
  /-- R574: SMBus write of the BAR0 offset for REGDATA. -/
  | smbRegaddr (v : Word) (pec : Option Byte)
  /-- R574: SMBus read or write of the register at REGADDR as master 0x001. -/
  | smbRegdata (w : Option Word) (pec : Option Byte)
  /-- R574: SMBus read or write of GPIO directions. -/
  | smbGpiodir (w : Option (BitVec 16)) (pec : Option Byte)
  /-- R574: SMBus read or write of GPIO output values. -/
  | smbGpioout (w : Option (BitVec 16)) (pec : Option Byte)
  /-- R574: SMBus read of GPIO land values. -/
  | smbGpioin (lands : BitVec 16) (pec : Bool)
  /-- R574: SMBus read or write of the output slew settings. -/
  | smbSlew (w : Option (BitVec 16)) (pec : Option Byte)
  /-- R314: The data of a far load returns and is written to its destination register, or the refusal returns and the prompter traps with ACCESS. -/
  | farLoadDataReturn (c : ClusterId) (i : BitVec 8)
  /-- R485: A host access to the BAR4 MSI-X table or pending-bit array, where unmasking a vector sends its pending message. -/
  | msixTableAccess (write : Bool) (word : BitVec 14) (v : Word)
  /-- R545: A PCIe configuration request, answered within 20 ms of the later reset edge, whatever the boot stage. -/
  | configRequest (write : Bool) (reg : BitVec 10) (v : Word)
  /-- R463: The PCIe link trains up at a generation and width, which HIF_STATUS.GEN and WIDTH then show. -/
  | pcieLinkUp (gen : BitVec 3) (width : BitVec 4)
  /-- R545: PERST_N rises and the PCIe endpoint comes out of reset. -/
  | perstRelease
  /-- R188: REF10M_IN returns, REFOK rises and the AON ticks lock to the reference again. -/
  | ref10mRestore
  /-- R315: A fetched word with a reserved opcode, such as 0x0000_0000, traps with ILLEGAL. -/
  | illegalInstruction (c : ClusterId)
  /-- R518: An SPDM request with a code outside the subset receives ERROR, UnsupportedRequest. -/
  | unsupportedRequest (code : Byte)
  /-- R574: An SMBus command with an unlisted code, or before HARBOUR ends, is not acknowledged. -/
  | smbUnlistedCommand (code : Byte)
  /-- R576: SMB_SCL is held low for 25 to 35 ms and the target abandons the transaction. -/
  | smbusClockLowTimeout
  /-- R477: A fetched descriptor with a KIND value not listed is refused with BADDESC. -/
  | reservedDescriptorKind (r : RingId) (i : BitVec 8)
  deriving DecidableEq, Repr

end Sys2Proof
end

