-- ==== Sys2Proof/WellFormed.lean ====
section
/-! DEFINITION. What an operand must satisfy beyond its type for a command to stand for something that can reach the device. The
meanings are total: an ill-formed command has an effect too, but no sender sends it. -/

namespace Sys2Proof

/-- Master IDs that the device issues (R43). -/
def issued (m : MasterId) : Bool :=
  let n := m.toNat
  n ≤ 0x004 || (0x010 ≤ n && n < 0x0C8) || n == 0x0FF || (0x100 ≤ n && n < 0x140)

/-- A write carries as many bytes as its length says. -/
def writeFits (len : Nat) (write : Option (List Byte)) : Bool :=
  0 < len && (match write with
    | some bs => bs.length == len
    | none => true)

/-- Well-formed commands: accesses name issued masters (R43) and stay within their windows (R464), a packet holds at most 4,096
bytes (R98), a stack of readings has one entry per sensor, lane or stack (R22, R534). -/
def Instr.wf : Instr → Bool
  | .bar0Access _ len write => writeFits len.toNat write
  | .bar2Access off len write => writeFits len.toNat write && decide (off.toNat + len.toNat ≤ 2 ^ 33)
  | .frameRx _ f => decide (f.payload.length ≤ 4096)
  | .scratchWriteCounted m _ off data => issued m && decide (off.toNat + data.length ≤ 2 ^ 23) && data != []
  | .copy _ _ host _ => decide (host.length ≤ 4096)
  | .ufail m c => issued m && decide (c.toNat < 80)
  | .laneDriftCheck margins => decide (margins.length ≤ 1024)
  | .sensorRead temps => decide (temps.length ≤ 200)
  | .bringupDone trained _ => trained.length == 20
  | .smbRegaddr v _ => v.toNat % 4 == 0
  | .registerWrite m _ _ => issued m
  | .blockCommit m _ _ => issued m
  | .portEnable m _ => issued m
  | .formWrite m _ _ => issued m
  | .injectedPacketStart m _ => issued m
  | .fwdStageWord m _ => issued m
  | .poolEnable m _ => issued m
  | .poolDisable m _ => issued m
  | .sfifoPop m => issued m
  | .timeNowRead m => issued m
  | .collStart m _ => issued m
  | .resume m _ => issued m
  | .devJobSeedLoRead m _ => issued m
  | .devJobStepLoRead m _ => issued m
  | .flagWrite m _ _ _ => issued m
  | .cntAnnounce m _ _ _ => issued m
  | .mbPushLo m _ _ _ _ => issued m
  | .mbPushHi m _ _ _ => issued m
  | .mbPopLo m _ _ _ => issued m
  | .mbPopHi m _ _ => issued m
  | .mbStatusClr m _ _ => issued m
  | .stackAccess m _ _ _ _ _ => issued m
  | .writeback m _ => issued m
  | .invalidate m _ => issued m
  | .unprotect m _ => issued m
  | .discard m _ => issued m
  | .ringEnable m _ => issued m
  | .evqEnable m _ => issued m
  | .arbAdvance m _ => issued m
  | .commitApply .. | .accDenyClr .. | .accessDrained .. | .portDisable .. | .portRetrain .. | .portRewiden ..
  | .wakePllLocked .. | .wakeTimeout .. | .trainingDone .. | .trainingTimeout .. | .lockAligned ..
  | .lockTimeout .. | .initWordRx .. | .initRepeat .. | .initTimeout .. | .retrainTimeout .. | .laneFail ..
  | .controlWordProterr .. | .crdRx .. | .linkAckRx .. | .nakRx .. | .ackDelayExpiry .. | .creditRefresh ..
  | .acktmoExpiry .. | .egressChoose .. | .cutThroughStart .. | .frameTxEnd .. | .fenceDrain .. | .layoutApply ..
  | .portCntClr .. | .packetIngress .. | .lookupComplete .. | .devicePacketDeliver .. | .put .. | .putAck ..
  | .get .. | .getresp .. | .ack .. | .fwdCntClr | .alloc .. | .allocGrant .. | .addref .. | .pass .. | .release ..
  | .poolInitDone .. | .poolStatusClr .. | .auditSweepStart | .auditSweepEnd | .bufCntClr | .gateEdge ..
  | .gateTakeover .. | .schedCntClr .. | .telQClr .. | .aonTick .. | .timeSet | .timeStep | .timeSlew | .timeCntClr
  | .syncSend | .sync .. | .dreq .. | .dresp .. | .holdoverEntry | .ppsEdge | .refLoss | .ppsLoss | .ppsOutRise
  | .ppsOutFall | .cueEntryDue .. | .cueEarlyWake .. | .cueEnable .. | .cueDisable .. | .cueCntClr ..
  | .curtainTimeout .. | .curtClr .. | .groupCreate .. | .groupLoaded .. | .groupDestroy .. | .destroyDone ..
  | .contrib .. | .partial_ .. | .xpartial .. | .result .. | .cerr .. | .chunkCombined .. | .drainDone ..
  | .abortDone .. | .instanceTimeout .. | .collAbort .. | .collStragWrite .. | .collCntClr .. | .xredCntClr ..
  | .loadProgram .. | .imageLoaded .. | .rehearsalDone .. | .start .. | .startTimeReached .. | .stop ..
  | .clearingDone .. | .clusterPowerUpDone .. | .programEnd .. | .dozeEntry .. | .retainEntry .. | .clusterWake ..
  | .halt .. | .progressTimeout .. | .cluCntClr .. | .aluAdd .. | .aluSub .. | .aluAnd .. | .aluOr .. | .aluXor ..
  | .aluSll .. | .aluSrl .. | .aluSra .. | .aluSlt .. | .aluSltu .. | .aluMul .. | .aluMulh .. | .aluMulhu ..
  | .aluMin .. | .aluMax .. | .aluMinu .. | .aluMaxu .. | .aluRotl .. | .aluClz .. | .aluPopc .. | .addi ..
  | .andi .. | .ori .. | .xori .. | .slti .. | .sltiu .. | .shi .. | .lui .. | .lb .. | .lbu .. | .lh .. | .lhu ..
  | .lw .. | .sb .. | .sh .. | .sw .. | .lbx .. | .lbux .. | .lhx .. | .lhux .. | .lwx .. | .sbx .. | .shx ..
  | .swx .. | .farStoreAck .. | .beq .. | .bne .. | .blt .. | .bge .. | .bltu .. | .bgeu .. | .jal .. | .jalr ..
  | .loop .. | .loopi .. | .csrr .. | .csrw .. | .setf .. | .clrf .. | .tstf .. | .waitf .. | .carr .. | .time ..
  | .waitt .. | .issue .. | .issuer .. | .mqry .. | .mwait .. | .end_ .. | .waitTimeout .. | .loadw .. | .stream ..
  | .diagnosisDone .. | .arrCntClr .. | .vecAdd .. | .vecSub .. | .vecMul .. | .vecFma .. | .vecMax .. | .vecMin ..
  | .vecAdds .. | .vecMuls .. | .vecAbs .. | .vecNeg .. | .vecRelu .. | .vecExp .. | .vecRecip .. | .vecRsqrt ..
  | .vecAnd .. | .vecOr .. | .vecXor .. | .reduceSum .. | .reduceMax .. | .reduceMin .. | .reduceSumsq ..
  | .convert .. | .combine .. | .gather .. | .sendPut .. | .sendContrib .. | .recv .. | .norespTimeout ..
  | .sort .. | .topk .. | .filter .. | .compress .. | .scatteraddAdd .. | .scatteraddIntoRows ..
  | .scatteraddMerge .. | .scatteraddDrain .. | .route .. | .mopWaitf .. | .setfSet .. | .setfClear ..
  | .setfRemote .. | .setfCarr .. | .cueStart .. | .cueTime .. | .mopComplete .. | .devJobSeedLoWrite ..
  | .devJobSeedHiWrite .. | .devJobStepLoWrite .. | .devJobStepHiWrite .. | .devJobAdvance .. | .refresh ..
  | .scrubRead .. | .stackTempRead .. | .recentre .. | .retrainRequest .. | .pchRetrainDone .. | .stkFenceWrite ..
  | .cacheopDone .. | .stkCntClr .. | .sqDoorbell .. | .cqDoorbell .. | .evqDoorbell .. | .descriptorFetch ..
  | .nop .. | .cfgBatch .. | .poll .. | .pollTimeout .. | .fence .. | .unfence .. | .telemetryRead .. | .calRead ..
  | .calWrite .. | .attest .. | .remap .. | .interruptTimer .. | .ringDisable .. | .hostMemoryError ..
  | .eventWrite | .hifCntClr | .pcieLinkDown | .perst | .switchinPowerUpDone .. | .migrationDone ..
  | .switchinRunning .. | .rejectClear | .errCntClr | .arbAdvanceDone | .updateGo | .updateDone .. | .pushGo ..
  | .debugTokenSubmit .. | .getVersion | .getCapabilities | .negotiateAlgorithms .. | .getDigests
  | .getCertificate .. | .challenge .. | .getMeasurements .. | .doeAbort | .bypass .. | .idcode | .sample ..
  | .preload .. | .extest .. | .highz .. | .clamp .. | .extestPulse .. | .extestTrain .. | .capStepDown ..
  | .capStepUp .. | .stgTargetWrite .. | .vsettleDone .. | .slewDone .. | .pllUnlock .. | .pllRelock ..
  | .pllRelockRetry .. | .domainWake .. | .engineIdleOff .. | .sscApply | .pwrCntClr | .clkCntUnlockClr
  | .sysReset .. | .aonDone | .romCheckDone .. | .calreadDone .. | .harbourDone | .smbStatus .. | .smbHottest ..
  | .smbRegdata .. | .smbGpiodir .. | .smbGpioout .. | .smbGpioin .. | .smbSlew .. | .farLoadDataReturn ..
  | .msixTableAccess .. | .configRequest .. | .pcieLinkUp .. | .perstRelease | .ref10mRestore
  | .illegalInstruction .. | .unsupportedRequest .. | .smbUnlistedCommand .. | .smbusClockLowTimeout
  | .reservedDescriptorKind .. => true

end Sys2Proof
end

