-- ==== Sys2Proof/Config.lean ====
section
/-! DEFINITION. What the spec leaves open: each value is an opaque constant of the number that the state hands out or of
the operands, so that nothing in Lean can tell which it is. -/

namespace Sys2Proof.Config

/-- The frequency adjustment that a LOCKED follower tracks (R185 gives no rule for it). -/
opaque servoFreq : Nat → BitVec 24

/-- By how many units in the last place EXP, RECIP or RSQRT of an FP32 input differs from the rounded result (R328: at
most 1): 0 and 3 none, 1 one above, 2 one below. -/
opaque vecDelta : Nat → BitVec 32 → BitVec 2

/-- The FP32 result of RECIP or RSQRT where the real function has none: of zero, and RSQRT of a negative number. -/
opaque vecCorner : Nat → BitVec 32 → BitVec 32

/-- Cycles that the cycle counter of a prompter has counted since it was last read, by the number of the read (R313; the model counts no cycles). -/
opaque prompterCycles : Nat → BitVec 64

/-- Stage cycles that a STREAM waited for its panel, by its number (R350; the model counts no stage cycles). -/
opaque bubbleCycles : Nat → BitVec 32

/-- Which of the values that a job table entry's copies may hold is latched, by the number of the latch (R391). -/
opaque jobCopy : Nat → Nat

/-- What an engine leaves in byte `i` of a staging buffer, by the number of the write (R216 and R251 give no layout). -/
opaque stagingByte : Nat → Nat → BitVec 8

/-- Pier cycles that an express result takes beyond those of R269, by its number (R246 has it measured). -/
opaque expressWait : Nat → Nat

/-- Pier cycles that a replica waits for a full express lane, by the number of the replica (R92, R246). -/
opaque laneHold : Nat → Nat

/-- The byte of a GFLIN partial that a device with a parent sends upward where its receivers name no one row, from rows A
and B: no rule gives it. -/
opaque gflinUp : BitVec 8 → BitVec 8 → BitVec 8

/-- The entry index that the event record of a late one-time release shows (R192, R204 name none), by its number. -/
opaque onceIndex : Nat → BitVec 8

/-- How many data blocks of a frame have gone out when it ends with ABT, by the number of the frame (R90). -/
opaque blocksSent : Nat → Nat

/-- A word of configuration space, by the number of the read and the register (R463 names capabilities, no registers). -/
opaque configWord : Nat → BitVec 10 → BitVec 32

/-- ECDSA verification on P-256 of a key (X then Y), a digest and a signature (r then s) (R510, R522). -/
opaque ecdsaVerify : List Byte → List Byte → List Byte → Bool

/-- A word from the security root's random-number generator, by its number (R518, R522). -/
opaque random : Nat → BitVec 32

/-- A signature that the security root makes, by its number (R508, R518): 64 bytes. -/
opaque signature : Nat → BitVec 512

/-- Whether a certificate chain parses and its leaf holds the public key of IDKEY (R516). -/
opaque identityMatches : List Byte → Bool

/-- SHA-256 of the boot ROM (R517). -/
opaque romDigest : BitVec 256

/-- The measurement summary hash of measurements, each with its index (R518; its layout is SPDM's). -/
opaque spdmSummary : List (Nat × List Byte) → List Byte

/-- The bytes of an SPDM response (R518; the layout is SPDM's). -/
opaque spdmBytes : SpdmResp → List Byte

/-- The JTAG device identification code (R521 gives no value). -/
opaque idcode : BitVec 32

/-- Whether a flash slot reads back as the image programmed into it for a push, by the number of the programming (R514). -/
opaque readBack : Nat → Bool

/-- The eye margin that a lane has when its port enters ACTIVE, by the number of the entry and the lane (R505). -/
opaque eyeMargin : Nat → Nat → BitVec 6

/-- What a flash sector reads while it is erased and programmed for a CAL_WRITE, and after its read-back has failed, by the number
of the write and the offset of the byte (R548, R554). -/
opaque flashByte : Nat → Nat → BitVec 8

end Sys2Proof.Config
end

