-- ==== Sys2Proof/Machine/Bits.lean ====
section
/-! DEFINITION. Bit-field, sign-extension and byte-order helpers, and the sparse tables' operations. -/

namespace Sys2Proof.Machine

/-- Bits `[lo + width - 1 : lo]` of `n` (R10). -/
def fieldOf (n lo width : Nat) : Nat := n >>> lo % 2 ^ width

/-- `n` with bits `[lo + width - 1 : lo]` replaced by `v`. -/
def withField (n lo width v : Nat) : Nat :=
  n - fieldOf n lo width <<< lo + (v % 2 ^ width) <<< lo

/-- Bit `k` of `n`. -/
def bitOf (n k : Nat) : Bool := n.testBit k

/-- A Bool as a bit. -/
def b2n (b : Bool) : Nat := if b then 1 else 0

/-- Two's complement reading of the low `w` bits of `n` (R19). -/
def signed (w n : Nat) : Int :=
  if n % 2 ^ w < 2 ^ (w - 1) then (n % 2 ^ w : Nat) else (n % 2 ^ w : Nat) - (2 ^ w : Nat)

/-- An integer wrapped into `w` bits (R19). -/
def unsigned (w : Nat) (z : Int) : Nat := (z % (2 ^ w : Nat)).toNat

/-- `n` limited to the largest value of `w` bits, as every saturating counter is. -/
def saturate (w n : Nat) : Nat := min n (2 ^ w - 1)

/-- `k` bytes of `n`, lowest first (R10). -/
def toBytes : Nat → Nat → List Byte
  | 0, _ => []
  | k + 1, n => BitVec.ofNat 8 n :: toBytes k (n / 256)

/-- The number that bytes spell, lowest first (R10). -/
def ofBytes : List Byte → Nat
  | [] => 0
  | b :: bs => b.toNat + 256 * ofBytes bs

/-- The first entry numbered `k`. -/
def lookup {α : Type} (m : SMap α) (k : Nat) : Option α :=
  match m with
  | [] => none
  | (i, a) :: rest => if i = k then some a else lookup rest k

/-- Entry `k` set to `a`, numbers kept rising. -/
def place {α : Type} (m : SMap α) (k : Nat) (a : α) : SMap α :=
  match m with
  | [] => [(k, a)]
  | (i, b) :: rest =>
    if k < i then (k, a) :: (i, b) :: rest
    else if k = i then (k, a) :: rest
    else (i, b) :: place rest k a

/-- Entry `k` removed. -/
def erase {α : Type} (m : SMap α) (k : Nat) : SMap α :=
  match m with
  | [] => []
  | (i, b) :: rest => if i = k then rest else (i, b) :: erase rest k

/-- Entry `k` set to `a`, or removed where `a` is what an absent entry stands for: the canonical form. -/
def put {α : Type} [DecidableEq α] (m : SMap α) (k : Nat) (a dflt : α) : SMap α :=
  if a = dflt then erase m k else place m k a

/-- The canonical form of a sparse table: entry numbers strictly rise from above `lo` (an `Option`, none for no bound). -/
def rising {α : Type} : Option Nat → SMap α → Bool
  | _, [] => true
  | none, (i, _) :: rest => rising (some i) rest
  | some lo, (i, _) :: rest => decide (lo < i) && rising (some i) rest

/-- A list with its `k`-th element replaced. -/
def setAt {α : Type} (l : List α) (k : Nat) (a : α) : List α := l.set k a

/-- `n` elements `f 0, f 1, …`. -/
def tabulate {α : Type} (n : Nat) (f : Nat → α) : List α := (List.range n).map f

/-- `f` run `n` times with the index, from 0. -/
def iterate {α : Type} (n : Nat) (f : Nat → α → α) (a : α) : α :=
  (List.range n).foldl (fun x i => f i x) a

/-- Number of set bits below bit `w`. -/
def popcount : Nat → Nat → Nat
  | 0, _ => 0
  | w + 1, n => n % 2 + popcount w (n / 2)

/-- Ceiling division. -/
def ceilDiv (a b : Nat) : Nat := (a + b - 1) / b

end Sys2Proof.Machine
end

