-- ==== Sys2Proof/Machine/State.lean ====
section
/-! DEFINITION. The state of the block, as plain data. -/

namespace Sys2Proof.Machine

/-- One event record on its way to the event ring (R487), without PHASE. -/
structure EventRec where
  source : Nat
  typ : Nat
  job : Nat
  unit : Nat
  time : Nat
  payload : List Word
  seq : Nat
  deriving DecidableEq, Repr

/-- A FIFO with the organisation of R429 and the loss record of R432: what it holds, oldest first, and how many
were dropped since the last gap marker. -/
structure GapFifo (α : Type) where
  items : List α
  gap : Nat
  deriving DecidableEq, Repr

/-- Where a packet came from (R115, R127). -/
inductive PktSrc where
  | port (p : Nat)
  | injector (mid : Nat)
  deriving DecidableEq, Repr

/-- A packet inside the device: its header and payload, whether all of it has arrived and verified, whether an error
was found in it after forwarding began (R90), the pool 0 cells that hold it (R126), how many replicas still need it,
and the job of its origin (R115). `inRx` says that its frame is still arriving; `owes` that XC credit returns when it
leaves the receive buffer (R81); `rxAt` is the fabric time of its arrival, in 1/65,536 ns (R181). A collective's
replica names its context and rank (R226), and `sent` says that it finished whole (R239). -/
structure Pkt where
  hdr : Header
  payload : List Byte
  trailer : Word
  complete : Bool
  bad : Bool
  src : PktSrc
  cells : List Nat
  job : Nat
  refs : Nat
  inRx : Bool
  mcast : Bool
  owes : Bool
  rxAt : Nat
  coll : Option (Nat × Nat)
  sent : Bool
  deriving DecidableEq, Repr

/-- One entry of an egress queue (R152): the packet, its congestion mark, the depth and AON tick at enqueue (R167),
and whether it may start by cut-through (R583). -/
structure QEnt where
  pkt : Nat
  cm : Bool
  depth : Nat
  enqAt : Nat
  ready : Bool
  deriving DecidableEq, Repr

/-- A frame in replay storage (R84); `abt` replays as SOF and ABT (R90); `done` says that all of it has been sent. -/
structure Stored where
  lseq : Nat
  cls : Nat
  hdr : Header
  payload : List Byte
  trailer : Word
  abt : Bool
  sentAt : Nat
  done : Bool
  deriving DecidableEq, Repr

/-- The frame being sent on a port. -/
structure TxCur where
  pkt : Nat
  cls : Nat
  lseq : Nat
  cm : Bool
  deriving DecidableEq, Repr

/-- What the receiver did with the header of the frame now arriving (R101, R160). -/
inductive RxCur where
  | idle
  | dropped
  | packet (id : Nat)
  deriving DecidableEq, Repr

/-- The link layer of one port that PORT registers do not show: the phase of a retrain (2 TRAINING, 3 LOCKING, 4 INIT)
and when the state or phase was entered; INIT exchange (R76); transmitter and receiver sequence state (R84 to R87);
credit counts (R79, R80, R142); the frame being sent and the one being received. -/
structure LinkSt where
  phase : Nat
  since : Nat
  peerInit : List (Option Nat)
  peerDone : Bool
  sentDone : Bool
  txSeq : Nat
  stored : List Stored
  noProgress : Nat
  replayFrom : Option Nat
  rxExp : Nat
  nakHeld : Bool
  unacked : Nat
  unackedAt : Nat
  rxCount : List Nat
  withheld : List Nat
  lastCount : List Nat
  tx : Option TxCur
  rx : RxCur
  ptr : Nat
  deficit : List Nat
  deriving DecidableEq, Repr

/-- A credit bucket of a shaper or meter (R158, R160): credit in 1/65,536 bytes as it stood at an AON tick. -/
structure Bucket where
  credit : Int
  at_ : Nat
  deriving DecidableEq, Repr

/-- The gate list in force on a port (R162 to R166): the entry that is open, the fabric time in ns at which it began,
the takeover time of an armed list, per class the fabric time since which the guard band has refused its head and that packet, and whether
an uncorrectable word has opened every gate (R489). -/
structure GateSt where
  entry : Nat
  began : Nat
  takeover : Nat
  refusedSince : List (Option (Nat × Nat))
  broken : Bool
  deriving DecidableEq, Repr

/-- The state word of a buffer (R135); a free one keeps OWNER and JOB (R140). -/
structure BufWord where
  alloc : Bool
  sharers : Nat
  owner : Nat
  age : Bool
  job : Nat
  deriving DecidableEq, Repr

/-- A free store (R133): buffers `next` to `limit - 1` have never been issued, `freed` follow in the order they came
back; a retired slice takes nothing back (R461). Of the entries in that order the cache holds the first `front` and the last `back`, and the
ring those between; `line` counts the lines of 16 that the ring has been given. -/
structure FreeStore where
  next : Nat
  limit : Nat
  freed : List Nat
  retired : Bool
  front : Nat
  back : Nat
  line : Nat
  deriving DecidableEq, Repr

/-- A waiting staging allocation (R134). -/
structure PoolWait where
  owner : Nat
  n : Nat
  sharers : Nat
  job : Nat
  deriving DecidableEq, Repr

/-- One pool: its free stores (20 slices for pool 0, one otherwise), the state words of the buffers that have been allocated, the
requests that wait, and the buffers that units hold outside their engines' own lists (R148). -/
structure PoolSt where
  stores : List FreeStore
  words : SMap BufWord
  waiting : List PoolWait
  granted : List (Nat × Nat)
  deriving DecidableEq, Repr

/-- A packet an injector holds (R123): its transfer, header and payload, the job it injects for, whether its wait has
been counted, and whether its frame ends with ABT because a read for it failed (R105); for a collective's replica the cells it shares (R226) and its context and rank. -/
structure InjPkt where
  xfer : Nat
  hdr : Header
  payload : List Byte
  job : Nat
  throttled : Bool
  waited : Bool
  bad : Bool
  cells : Option (List Nat)
  coll : Option (Nat × Nat)
  deriving DecidableEq, Repr

/-- Ports, packets and forwarding (chapters 3 to 6). Tables are numbered by port, by queue 9p + c, by packet, by
master, or by table word; `fwdTab`, `fwdGroups` and `fwdMasks` are tables 0 to 2 of R124, of which the model keeps one
copy for the 20 engines, and `epFence` is table 3. `staging` holds (table, index, word), oldest first (R109).
`groupPtr` is numbered 20 g + engine (R113). `throttle` holds the AON tick at which injector m last started a packet for queue q, under
4,608 m + q, and `stopped` the queues with a stop in force (R123); `symbols` each lane's window of corrected symbols (R93). `groupBad` marks the lane groups that failed calibration at boot (R547). -/
structure Net where
  links : SMap LinkSt
  pkts : SMap Pkt
  nextPkt : Nat
  ingress : SMap (List Nat)
  egress : SMap (List QEnt)
  devRx : List Nat
  injq : SMap (List InjPkt)
  stripe : SMap Nat
  fwdTab : SMap Word
  fwdGroups : SMap Word
  fwdMasks : SMap Word
  epFence : SMap Word
  staging : List (Nat × Nat × Word)
  groupPtr : SMap Nat
  throttle : SMap Nat
  stopped : List Nat
  symbols : SMap (Nat × Nat)
  shapers : SMap Bucket
  meters : SMap Bucket
  gates : SMap GateSt
  sampleCount : SMap Nat
  samples : GapFifo Nat
  sampleHi : Nat
  groupBad : Nat
  deriving DecidableEq, Repr

/-- A one-time release of a cue engine (R204): its time in ns, the cluster and the flag, and whether a step of time has jumped over it
(R179). -/
structure CueRelease where
  time : Nat
  cluster : Nat
  flag : Nat
  late : Bool
  deriving DecidableEq, Repr

/-- A cue engine beyond its registers (R190 to R193): the index of its next entry, 256 after the last; the repetition k
unsaturated; the fabric time in 1/65,536 ns at which the predecessor of that entry was taken; one-time releases; and whether an
uncorrectable word has stopped the engine until a new sheet applies (R489, class 11). -/
structure CueSt where
  idx : Nat
  rep : Nat
  predAt : Nat
  once : List CueRelease
  broken : Bool
  deriving DecidableEq, Repr

/-- The time base beyond `fabTime` (R173, R178, R182 to R189): the phase accumulator in 1/16 × 10⁻⁹ of 1/65,536 ns;
what is left of a slew in 1/1,000 of 1/65,536 ns; the last accepted SYNC (t1, t2) that no exchange has taken up, and the one that the
exchange under way uses; the count and send time of the latest DREQ; SYNCs sent; consecutive offsets within and beyond the limits of R185; AON ticks of the last accepted SYNC, of the
last SYNC_SEND, of the last 1PPS_IN edge and of the last rise of 1PPS_OUT; the level of 1PPS_OUT, and whether a time at which it rises has been reached and it has not risen yet; the cue
engines; and the AON tick of each curtain line's first held arrival, with whether that wait's timeout has been reported. -/
structure TimeSt where
  phase : Nat
  slew : Int
  sync : Option (Nat × Nat)
  paired : Option (Nat × Nat)
  dreqSeq : Nat
  dreqSent : Option Nat
  syncSeq : Nat
  good : Nat
  wide : Nat
  syncAt : Nat
  sendAt : Nat
  ppsAt : Nat
  ppsRose : Nat
  ppsOut : Bool
  ppsDue : Bool
  cues : SMap CueSt
  firstArrival : SMap (Nat × Bool)
  deriving DecidableEq, Repr

/-- One line of a stack cache (R446, R447): its 64 bytes, whether they differ from the stack's, whether it is protected,
and when it was last used in the order of the stack's accesses. -/
structure CacheLine where
  data : List Byte
  dirty : Bool
  prot : Bool
  used : Nat
  deriving DecidableEq, Repr

/-- One stack beyond its registers and contents: the cached lines by line number, the count of accesses, the next offset
of the patrol scrub and the AON tick of its last read (R445), the AON ticks of recent uncorrectable bursts by pseudo-channel
(R459), the pseudo-channels still to be retrained with whether the whole stack is retraining (R457), and the pseudo-channel
whose turn it is to be re-centred, with the AON tick at which the round began (R456). -/
structure StackSt where
  lines : SMap CacheLine
  clock : Nat
  scrub : Nat
  scrubAt : Nat
  ueTimes : List (Nat × Nat)
  training : List Nat
  whole : Bool
  turn : Nat
  roundAt : Nat
  deriving DecidableEq, Repr

/-! Clusters (chapters 10 to 16). -/

/-- A hardware loop (R304 to R307): remaining count, whether it is active, first and last body address. -/
structure LoopSt where
  count : Nat
  active : Bool
  first : Nat
  last : Nat
  deriving DecidableEq, Repr

/-- What a prompter waits for (R300 to R302, R310, R427): a flag or a ticket with its timeout in µs and the fabric time, in 1/65,536 ns, at
which the wait began, or a fabric time in ns. -/
inductive PWait where
  | flag (f : Nat) (clear : Bool) (us since : Nat)
  | ticket (q seq us since : Nat)
  | time (ns : Nat)
  deriving DecidableEq, Repr

/-- A far load whose data has not returned (R296, R314): destination, size in bytes, sign extension, address, and the
PC and word of the load for a trap record. -/
structure FarLoad where
  rd : Nat
  size : Nat
  sext : Bool
  addr : Nat
  pc : Nat
  word : Nat
  deriving DecidableEq, Repr

/-- An exact value of a number format (R369 to R375): NaN, an infinity, or (−1)^neg × mag × 2^exp. -/
inductive Num where
  | nan
  | inf (neg : Bool)
  | fin (neg : Bool) (mag : Nat) (exp : Int)
  deriving DecidableEq, Repr

/-- A weight panel (R346, R356): K rows of N values, none where masked, the LOADW copy it was loaded by (R360), and that LOADW's place in
the order of starts, which names the buffer. -/
structure Panel where
  w : List (List (Option Num))
  copy : List Word
  id : Nat
  deriving DecidableEq, Repr

/-- Where a macro-op in a queue stands: not started, waiting on a flag, cue or time since a fabric time in 1/65,536 ns (R427), or running
since an AON tick (R281). -/
inductive MopPhase where
  | queued
  | waiting (since : Nat)
  | running (since : Nat)
  deriving DecidableEq, Repr

/-- A macro-op that was issued and has not retired (R308, R340): its slot, parameters and sequence number, whether it
has left the head of its queue (R350, R272), the started copy (R322), the status it ends with, the seed and step it latched
(R390), the bytes it added to each counter slot (R500), the order in which it started, whether a STREAM waited for its panel (R350) and took the
low-latency path (R351), the panel that a STREAM uses, whether a SCATTERADD waits for a spill chunk, and how many elements or records it has applied
(R408, R411). -/
structure Mop where
  slot : Nat
  params : List Word
  seq : Nat
  phase : MopPhase
  left : Bool
  copy : List Word
  status : Nat
  seed : Nat
  step : Nat
  counted : List Nat
  order : Nat
  low : Bool
  late : Bool
  panel : Option Panel
  blocked : Bool
  done : Nat
  deriving DecidableEq, Repr

/-- One issue queue (R271, R272, R309 to R311): its macro-ops in issue order, the next sequence number, the retired
count, sequence numbers that completed ahead of it, the first error, and a start kept pending (R191). -/
structure IssueQ where
  mops : List Mop
  seq : Nat
  retired : Nat
  early : List Nat
  err : Option (Nat × Nat)
  startPending : Bool
  deriving DecidableEq, Repr

/-- A counter slot (R420 to R422). -/
structure Counter where
  flag : Nat
  valid : Bool
  armed : Bool
  wbase : Nat
  wlimit : Nat
  count : Nat
  target : Nat
  deriving DecidableEq, Repr

/-- A mailbox (R429 to R435): items (payload and kind) with the pending gap count, the push and pop latches, counts and
control. -/
structure Mailbox where
  fifo : GapFifo (Nat × Nat)
  pushLo : Nat
  popLo : Nat
  drops : Nat
  cecnt : Nat
  badwr : Bool
  flag : Nat
  flagen : Bool
  deriving DecidableEq, Repr

/-- A piece of the spill list (R408, R411): a chunk's buffer and the records `[first, last)` that it holds, or, without a
buffer, the last record of a chunk that has been released, which a MERGE still keeps. -/
structure SpillChunk where
  buf : Option Nat
  first : Nat
  last : Nat
  kept : Option (Nat × Nat)
  deriving DecidableEq, Repr

/-- The hash accumulator (R406, R408): valid entries by 8 × set + way, the latched OP, POOL and value type, the spill
chunks in append order, and how many of them a running MERGE has written anew (R410). -/
structure HashAcc where
  ways : SMap (Nat × Nat)
  settings : Option (Nat × Nat × Nat)
  chunks : List SpillChunk
  merged : Nat
  deriving DecidableEq, Repr

/-- A flag set or a mailbox push that reaches a cluster in CLEARING and waits for the next program (R436). -/
inductive LateOp where
  | flag (f : Nat)
  | push (m payload : Nat)
  deriving DecidableEq, Repr

/-- A program in a cluster (R283 to R285). -/
structure Prog where
  addr : Nat
  crc : Nat
  entry : Nat
  mops : Nat
  minwidth : Nat
  total : Nat
  retain : Bool
  ctxs : List Nat
  deriving DecidableEq, Repr

/-- One outstanding remote request of a stevedore transfer (R330 to R332): its SEQ, the first element and number of
elements that it carries, and the AON tick of its hand-over to the injector. -/
structure RemoteReq where
  seq : Nat
  elem : Nat
  n : Nat
  sentAt : Nat
  deriving DecidableEq, Repr

/-- A stevedore transfer (R274): its number, the macro-op it serves (queue, sequence number), the endpoint, kind
(0 PUT_ACK, 1 GET, 2 CONTRIB), requests without a response, and what has come of rows that can be written only whole, by
the number of the piece. -/
structure Xfer where
  id : Nat
  q : Nat
  seq : Nat
  dst : Nat
  kind : Nat
  reqs : List RemoteReq
  parts : SMap (List Byte)
  deriving DecidableEq, Repr

/-- A descriptor of a ring: ring number and the descriptor's number among those fetched from it. -/
structure CmdRef where
  ring : Nat
  id : Nat
  deriving DecidableEq, Repr

/-- A load in progress (R284): image address, job, RETAINCOPY, the image once it has been read, and the descriptor. -/
structure LoadSt where
  addr : Nat
  job : Nat
  retain : Bool
  image : List Byte
  cmd : CmdRef
  deriving DecidableEq, Repr

/-- A failed cluster on its way through a switch-in (R498): cause, failed slot, the understudy's slot, step reached (0 fenced,
1 migrating, 2 panels), hash entries lost, and the AON tick of the fence. -/
structure SwitchSt where
  cause : Nat
  oldSlot : Nat
  newSlot : Nat
  step : Nat
  hashLost : Nat
  since : Nat
  deriving DecidableEq, Repr

/-- A recovery of the array (R360 to R362): the STREAM's sequence number, the check intervals to be executed again in row order, and the
one of them that will mismatch a second time. -/
structure Recovery where
  seq : Nat
  once : List Nat
  again : Option Nat
  deriving DecidableEq, Repr

/-- One logical cluster beyond its CLU and ARR registers: prompter registers, PC, loops, CSRs and waits (R292 to R313), the
accepted debug block (R316);
far accesses outstanding (R299); issue queues; flag page (R416 to R437); array panels (R348), that of a LOADW under way
among them, and hash accumulator; the
program and a load in progress; stevedore transfers; the AON ticks at which its state began and at which a wait last began or a macro-op last
completed (R278); the start time and START
descriptor (R289, R479); STOP descriptors that wait; whether CLEARING ends in OFF; flag sets and pushes that wait for clearing (R436);
the switch-in; a STREAM under diagnosis (R362), a recovery (R360), and columns found since an armed commit (R366). `cycles` is the cycle counter
as last read (R313); `started` numbers macro-ops in the order they start. -/
structure Clu where
  regs : List Word
  pc : Nat
  loop0 : LoopSt
  loop1 : LoopSt
  lcwarn : Bool
  dbg : List Word
  mopcnt : Nat
  cycles : Nat
  cycHi : Nat
  wait : Option PWait
  loads : List FarLoad
  stores : List (Nat × Nat)
  ended : Bool
  queues : List IssueQ
  started : Nat
  flags : Nat
  counters : List Counter
  mail : List Mailbox
  wdog : List Word
  active : Option Panel
  next : Option Panel
  filling : Option Panel
  hash : HashAcc
  prog : Option Prog
  load : Option LoadSt
  xfers : List Xfer
  nextXfer : Nat
  since : Nat
  busyAt : Nat
  startAt : Option Nat
  startedNs : Nat
  startCmd : Option CmdRef
  stops : List (CmdRef × Bool × Bool)
  toOff : Bool
  reload : Option LoadSt
  late : List LateOp
  switch : Option SwitchSt
  diag : Option (Nat × Nat)
  recov : Option Recovery
  found : Nat
  deriving DecidableEq, Repr

/-! Collectives (chapters 8 and 9). -/

/-- Data a context has accepted: rank, offset in the contribution, bytes; exact records are kept as their 36 bytes per
element under `exact`. -/
structure Contribution where
  rank : Nat
  off : Nat
  bytes : List Byte
  exact : Bool
  deriving DecidableEq, Repr

/-- A data chunk in flight (R216, R231): its number, its staging buffer, how many of its result packets have been
issued, the release time of a BARRIER once it is fixed, whether its partial has gone to the parent, and how many bytes
of the parent's result have been replicated. -/
structure Flight where
  chunk : Nat
  buf : Option Nat
  issued : Nat
  time : Option Nat
  upward : Bool
  replicated : Nat
  counted : Bool
  deriving DecidableEq, Repr

/-- A context beyond its COLL registers (R208 to R246): the group's header and entries (four words each), whether it is
express; chunks in flight, and chunks finished; data of chunks in flight; the intervals received (rank, offset, length);
packets that wait outside the window and early packets; ranks in order of arrival; ranks fenced; the number of the
instance's replicas not yet finished, and the serial number that tells them from an earlier instance's; the packet
index reached in each rank's result stream; latched seed and step; the AON tick of RUNNING; last-in history, newest
first; how an ABORTING instance ends (status, DETAIL, ranks listed), and the descriptors that wait on the context. -/
structure Coll where
  header : List Word
  entries : List (List Word)
  express : Bool
  inflight : List Flight
  finished : List Nat
  data : List Contribution
  got : List (Nat × Nat × Nat)
  waiting : List Nat
  early : List Nat
  arrived : List Nat
  fenced : List Nat
  replicas : Nat
  serial : Nat
  streams : SMap Nat
  seed : Nat
  step : Nat
  since : Nat
  history : List Nat
  outcome : Option (Nat × Nat × List Nat)
  create : Option (CmdRef × Nat × Nat)
  destroy : Option CmdRef
  deriving DecidableEq, Repr

/-- One entry of the job table (R389 to R391): seed and step counter, the write and read latches of their high halves,
and the values replaced less than 100 ns ago, with the AON tick of the replacement. -/
structure JobSt where
  seed : Nat
  step : Nat
  seedW : Nat
  seedR : Nat
  stepW : Nat
  stepR : Nat
  past : List (Nat × Nat × Nat)
  deriving DecidableEq, Repr

/-! Host interface (chapter 18). -/

/-- A descriptor that was fetched and has not completed: its number among those fetched from the ring, its index, words,
and whether it has started; when it started or reached its present record (AON tick); how far its work has come; the CRC
of what a COPY has moved, or the words that a CFG_BATCH has staged since it last committed them; and the records that a
CFG_BATCH has read. -/
structure Desc where
  id : Nat
  idx : Nat
  words : List Word
  started : Bool
  since : Nat
  progress : Nat
  tally : Nat
  data : List Word
  deriving DecidableEq, Repr

/-- One ring pair beyond its HIF registers (R468 to R475): indices, the number of descriptors fetched from it, those
outstanding in the order of fetching, unsignalled completions and the AON tick of the oldest; whether it has stopped with
ERROR, and whether its completions are discarded. -/
structure RingSt where
  serial : Nat
  head : Nat
  tail : Nat
  cqHead : Nat
  cqTail : Nat
  phase : Bool
  out : List Desc
  unsignalled : Nat
  oldest : Nat
  stopped : Bool
  mute : Bool
  deriving DecidableEq, Repr

/-- The event ring (R486), and whether events are discarded (R467). -/
structure EvRing where
  mute : Bool
  head : Nat
  tail : Nat
  phase : Bool
  unsignalled : Nat
  oldest : Nat
  deriving DecidableEq, Repr

/-- One SPDM route (R518, R519): how many of GET_VERSION, GET_CAPABILITIES and NEGOTIATE_ALGORITHMS have completed. -/
structure SpdmSt where
  stage : Nat
  deriving DecidableEq, Repr

/-- An access that waits for a cluster in CLEARING or FENCED (R290, R496), for a pseudo-channel in training (R457), or for an earlier write of
its order (R117): master, address, bytes to write or length to read, and for a packet its header, the address a GETRESP goes to and the job of
its response (R115). -/
structure HeldAccess where
  mid : Nat
  addr : Nat
  data : List Byte
  len : Nat
  write : Bool
  raddr : Nat
  reply : Option Header
  job : Nat
  deriving DecidableEq, Repr

/-- PCIe endpoint, rings, BAR4 table and DOE (R463 to R488): whether the endpoint is in reset and the link is up; the
MSI-X table words (4 per vector), pending bits; window base in 4 KiB pages; the round-robin pointer. -/
structure Hif where
  inReset : Bool
  linkUp : Bool
  rings : SMap RingSt
  ev : EvRing
  msix : SMap Word
  pending : List Nat
  lastRing : Nat
  doe : SpdmSt
  attest : SpdmSt
  deriving DecidableEq, Repr

/-- The security root (R507 to R523): debug nonce and token, measurement digests 1 to 5, the digest of the running image,
the push buffer, unlocks since reset, the target of an advance, the image of an update, whether GPIO2 asked for recovery at
reset (R572), and the CAL_WRITE that holds the flash. -/
structure Sec where
  nonce : List Word
  token : SMap Word
  measures : List (List Byte)
  runDigest : List Byte
  push : List Host.Cell
  unlocks : Nat
  advanceTo : Nat
  updImage : List Byte
  forced : Bool
  calBusy : Option CmdRef
  deriving DecidableEq, Repr

/-- Frequency control of one stage die (R530 to R532): thermal cap, a change in progress (0 none, 1 voltage settling,
2 slewing up, 3 slewing down), the frequency it goes to, when that began, and when the cap last moved. -/
structure DieClk where
  phase : Nat
  goal : Nat
  since : Nat
  capAt : Nat
  deriving DecidableEq, Repr

/-- The JTAG instructions that are always available (R521). -/
inductive JtagInstr where
  | bypass
  | idcode
  | sample
  | preload
  | extest
  | highz
  | clamp
  | extestPulse
  | extestTrain
  deriving DecidableEq, Repr

/-- Board-side signals and service functions (R521, R567 to R574): THERMTRIP_N; GPIO direction, output and external land
values; slew settings; the SMBus address and REGADDR; the JTAG instruction, the boundary cells captured last, the cells
that drive the lands in a test mode, and the bypass bit; STG_VID and how often STG_VIDSTB has been raised. -/
structure Board where
  thermTrip : Bool
  gpioDir : BitVec 16
  gpioOut : BitVec 16
  gpioIn : BitVec 16
  slew : BitVec 10
  smbAddr : BitVec 7
  regAddr : Word
  jtag : JtagInstr
  captured : List Bool
  preloaded : List Bool
  bypass : Bool
  vid : Nat
  strobes : Nat
  deriving DecidableEq, Repr

/-- Why a step stops. No command of this block stops with a fault: where the spec describes an error it is an effect
on the state. -/
inductive Fault where
  deriving DecidableEq, Repr

/-- Why a step has no meaning. -/
inductive Refusal where
  /-- The command of that row has no meaning yet. -/
  | notModelled (mnemonic : String)
  deriving DecidableEq, Repr

/-- What the device puts out: link words and frames, host messages and answers, newest first in `State.out`. -/
inductive Out where
  /-- A control word on a port (R72). -/
  | linkWord (port : Nat) (word : BitVec 64)
  /-- A frame on a port: its SOF word, its data blocks, and its EOF or ABT word (R74, R90). -/
  | frame (port : Nat) (sof : BitVec 64) (data : List (BitVec 64)) (close : BitVec 64)
  /-- Bytes that answer a read by a master (R57), least significant first. -/
  | readData (mid : Nat) (bytes : List Byte)
  /-- A read or write of a master ended with an error: cause of R53, or 0 for an uncorrectable word or a host read before the
  device is ready (R57, R466, R467). -/
  | refusal (mid cause : Nat) (write : Bool)
  /-- Bytes written to host memory at a PCIe address (R473, R480, R486). -/
  | hostWrite (addr : Nat) (bytes : List Byte)
  /-- An MSI-X message (R485). -/
  | msix (vector : Nat)
  /-- An answer as bytes: route 1 the DOE mailbox, 3 SMBus, 4 configuration space. -/
  | answer (route : Nat) (bytes : List Byte)
  /-- An SMBus command that is not acknowledged (R574). -/
  | nack
  /-- Bits shifted out at TDO, the first one first (R521). -/
  | tdo (bits : List Bool)
  deriving DecidableEq, Repr

/-- What fuses hold (R7, R25, R507 to R511): the memory option, the healthy slots (bit 5d + s), the vendor and debug
key hashes, the unit identity, ARB bits blown and the permanent debug lock. -/
structure Fuses where
  memopt : Nat
  slotOk : Nat
  vkHash : List Word
  dkHash : List Word
  uid : List Word
  arb : Nat
  permLock : Bool
  deriving DecidableEq, Repr

/-- What a unit has set off in another one and what takes effect at the next AON tick (DESIGN CHOICE, log entry 127): a write that an engine
or a packet makes at a register, the failure of a cluster whose private storage gave an uncorrectable word (R434, R495), and the access trap of
a prompter (R57). -/
inductive Post where
  | put (mid off : Nat) (bytes : List Byte)
  | fail (c : Nat)
  | trap (c addr : Nat)
  deriving DecidableEq, Repr

/-- The state of the block. `upsets` holds the words of protected storage whose bits have changed (R489), and `posts` what takes effect in another unit at the
next AON tick. `regs` holds the active register words by BAR0 offset and `shadow` the shadow copies of
class C fields (R15); an absent entry is the reset value, or for `shadow` the active value. `armedBy` names the master
whose commit armed a group, by the COMMIT register's offset (R506). `ticks` counts AON ticks. `freeCtr` numbers the
free values. `timers` holds the AON tick at which a numbered period or delay last began. `cal` holds
the calibration set in use (R549), empty where none is valid. `mem` holds the stacks (key n × 2^36 + offset) and the
cluster memories (the diagnostic addresses of R35), sorted by key; an unlisted byte is 0. `clus` and `colls` hold the
clusters and contexts that differ from their state at reset, `heat` the thermal states, numbered SDn, 20 + QDn, 40 + BDn, 56 + PDn, 60 + HDn and 64 + stack n, `flash` the SPI flash, `jobs` the job table
(R389), `laneMargin` the eye margin of each lane at ACTIVE, or 64 once drift was reported (R505). `pending` holds the commands
that wait, first in first out. -/
structure State where
  regs : SMap Word
  shadow : SMap Word
  armedBy : SMap Nat
  ticks : Nat
  fabTime : Nat
  freeCtr : Nat
  events : GapFifo EventRec
  eventSeq : Nat
  net : Net
  pools : List PoolSt
  timers : SMap Nat
  fuses : Fuses
  tm : TimeSt
  mem : List Host.Cell
  stackMem : SMap StackSt
  cal : List Host.Cell
  out : List Out
  clus : SMap Clu
  colls : SMap Coll
  held : List HeldAccess
  hif : Hif
  sec : Sec
  dies : SMap DieClk
  heat : SMap Nat
  board : Board
  flash : List Host.Cell
  jobs : SMap JobSt
  laneMargin : SMap Nat
  upsets : List Upset
  posts : List Post
  pending : List Instr
  deriving DecidableEq, Repr

/-! Reset. -/

/-- Pools after reset: pool 0 has twenty slices that boot has still to fill (R151), the staging pools are disabled. -/
def resetPools : List PoolSt :=
  ⟨List.replicate 20 ⟨0, 0, [], false, 0, 0, 0⟩, [], [], []⟩ :: List.replicate 16 ⟨[], [], [], []⟩

/-- Fuses of the device that the model starts from: an LQ36 with every slot healthy, no key and no identity. -/
def resetFuses : Fuses where
  memopt := 1
  slotOk := 2 ^ 100 - 1
  vkHash := List.replicate 8 0
  dkHash := List.replicate 8 0
  uid := [0, 0]
  arb := 0
  permLock := false

/-- Measurements after reset: the boot ROM's digest, and zeros for those that boot takes (R517). -/
def resetMeasures : List (List Byte) :=
  ((List.range 32).map fun i => (Config.romDigest.extractLsb' (8 * (31 - i)) 8 : Byte)) :: List.replicate 4 (List.replicate 32 0)

/-- Board-side signals while SYS_RESET_N is low (R567, R571 to R574): code 60 on STG_VID, slew settings 0x112. -/
def resetBoard : Board where
  thermTrip := false
  gpioDir := 0
  gpioOut := 0
  gpioIn := 0
  slew := 0x112
  smbAddr := 0x58
  regAddr := 0
  jtag := .idcode
  captured := []
  preloaded := []
  bypass := false
  vid := 60
  strobes := 0

/-- The block while SYS_RESET_N and PERST_N are low at power-on (R543, R544): every register at its reset value, fabric time 0,
an unlock nonce that nothing determines (R523). -/
def State.reset : State where
  regs := []
  shadow := []
  armedBy := []
  ticks := 0
  fabTime := 0
  freeCtr := 1
  events := ⟨[], 0⟩
  eventSeq := 0
  net :=
    { links := [], pkts := [], nextPkt := 0, ingress := [], egress := [], devRx := [], injq := [], stripe := [], fwdTab := []
      fwdGroups := [], fwdMasks := [], epFence := [], staging := [], groupPtr := [], throttle := [], stopped := [], symbols := [], shapers := []
      meters := [], gates := [], sampleCount := [], samples := ⟨[], 0⟩, sampleHi := 0, groupBad := 0 }
  pools := resetPools
  timers := []
  fuses := resetFuses
  tm := ⟨0, 0, none, none, 0, none, 0, 0, 0, 0, 0, 0, 0, false, false, [], []⟩
  mem := []
  stackMem := []
  cal := []
  out := []
  clus := []
  colls := []
  held := []
  hif :=
    { inReset := true, linkUp := false, rings := [], ev := ⟨false, 0, 0, true, 0, 0⟩, msix := [], pending := []
      lastRing := 0, doe := ⟨0⟩, attest := ⟨0⟩ }
  sec :=
    { nonce := (List.range 8).map Config.random, token := [], measures := resetMeasures, runDigest := [], push := []
      unlocks := 0, advanceTo := 0, updImage := [], forced := false, calBusy := none }
  dies := []
  heat := []
  board := resetBoard
  flash := []
  jobs := []
  laneMargin := []
  upsets := []
  posts := []
  pending := []

end Sys2Proof.Machine
end

