-- ==== Sys2Proof/Machine/RegMap.lean ====
section
/-! DEFINITION. The register map: one descriptor per register of the BAR0 layout (R42 and the register tables of
every chapter), with its fields, access codes and classes (R13, R15) and literal reset values. Bits that no field
names are reserved (R14). Reset values that are not literals stand in RegFile.lean. -/

namespace Sys2Proof.Machine

/-- Access codes joined to classes (R13, R15). -/
inductive Acc where
  | roS | roC | roL | rwS | rwC | rwL | woL | w1sL | w1cL
  deriving DecidableEq, Repr

/-- The register blocks of R42; `ACCG` is the part of ACC that no table owns (R54) and `TELF` the sample FIFO
registers of TEL (R168). -/
inductive Blk where
  | DEV | HIF | ACC | ACCG | SEC | PWR | CLK | CAL | ERR | TEL | TELF | TIME | CUE | CURT | PORT | LINK | FWD | BUF | POOL | SCHED | GATE | COLL | XRED | CLU | ARR | STK
  deriving DecidableEq, Repr

/-- BAR0 offset of a block (R42). -/
def Blk.base : Blk → Nat
  | .DEV => 0x0
  | .HIF => 0x100000
  | .ACC => 0x200000
  | .ACCG => 0x200000
  | .SEC => 0x300000
  | .PWR => 0x340000
  | .CLK => 0x380000
  | .CAL => 0x3C0000
  | .ERR => 0x400000
  | .TEL => 0x500000
  | .TELF => 0x500000
  | .TIME => 0x600000
  | .CUE => 0x680000
  | .CURT => 0x780000
  | .PORT => 0x800000
  | .LINK => 0x900000
  | .FWD => 0xA00000
  | .BUF => 0xB00000
  | .POOL => 0xB80000
  | .SCHED => 0xC00000
  | .GATE => 0xE00000
  | .COLL => 0x1000000
  | .XRED => 0x1800000
  | .CLU => 0x2000000
  | .ARR => 0x2800000
  | .STK => 0x3000000

/-- Bytes from one instance of a block to the next (R42). -/
def Blk.stride : Blk → Nat
  | .DEV => 0x100000
  | .HIF => 0x100000
  | .ACC => 0x800
  | .ACCG => 0x100000
  | .SEC => 0x40000
  | .PWR => 0x40000
  | .CLK => 0x40000
  | .CAL => 0x40000
  | .ERR => 0x100000
  | .TEL => 0x20
  | .TELF => 0x100000
  | .TIME => 0x80000
  | .CUE => 0x2000
  | .CURT => 0x100
  | .PORT => 0x800
  | .LINK => 0x400
  | .FWD => 0x100000
  | .BUF => 0x80000
  | .POOL => 0x4000
  | .SCHED => 0x1000
  | .GATE => 0x1000
  | .COLL => 0x800
  | .XRED => 0x10000
  | .CLU => 0x10000
  | .ARR => 0x10000
  | .STK => 0x80000

/-- Instances of a block (R42). -/
def Blk.count : Blk → Nat
  | .DEV => 1
  | .HIF => 1
  | .ACC => 108
  | .ACCG => 1
  | .SEC => 1
  | .PWR => 1
  | .CLK => 1
  | .CAL => 1
  | .ERR => 1
  | .TEL => 4608
  | .TELF => 1
  | .TIME => 1
  | .CUE => 116
  | .CURT => 32
  | .PORT => 512
  | .LINK => 1024
  | .FWD => 1
  | .BUF => 1
  | .POOL => 17
  | .SCHED => 512
  | .GATE => 512
  | .COLL => 4096
  | .XRED => 4
  | .CLU => 80
  | .ARR => 80
  | .STK => 20

/-- One field of a register: its lowest bit, its width, its class and its literal reset value. -/
structure FieldDesc where
  lo : Nat
  width : Nat
  acc : Acc
  rst : Nat
  deriving DecidableEq, Repr

/-- A register, or a row of like registers: offset of the first within an instance of its block, how many there are
and how far apart. -/
structure Reg where
  blk : Blk
  off : Nat
  cnt : Nat
  step : Nat
  fields : List FieldDesc
  deriving DecidableEq, Repr

/-- A named field of a named register. -/
structure Fld where
  reg : Reg
  lo : Nat
  width : Nat
  deriving DecidableEq, Repr

/-- BAR0 offset of register `r`, instance `i`, row index `j`. -/
def Reg.addr (r : Reg) (i j : Nat) : Nat := r.blk.base + i * r.blk.stride + r.off + j * r.step

namespace R

/-- DEV_IDENT (R7). -/
def DEV_IDENT : Reg := ⟨.DEV, 0x0, 1, 4, [⟨0, 16, .roS, 0x7240⟩, ⟨16, 8, .roS, 0xE⟩, ⟨24, 4, .roS, 0x0⟩]⟩
/-- DEV_REVISION (R7). -/
def DEV_REVISION : Reg := ⟨.DEV, 0x4, 1, 4, [⟨0, 8, .roS, 0x41⟩, ⟨8, 8, .roS, 0x1⟩]⟩
/-- DEV_SCALE_VERSION (R31). -/
def DEV_SCALE_VERSION : Reg := ⟨.DEV, 0x100, 1, 4, [⟨0, 16, .roS, 0x0⟩]⟩
/-- DEV_SCALE_GEN (R31). -/
def DEV_SCALE_GEN : Reg := ⟨.DEV, 0x104, 1, 4, [⟨0, 32, .roL, 0x0⟩]⟩
/-- DEV_SCALE_CLUSTERS (R31). -/
def DEV_SCALE_CLUSTERS : Reg := ⟨.DEV, 0x108, 1, 4, [⟨0, 8, .roL, 0x0⟩]⟩
/-- DEV_SCALE_SPARES (R31). -/
def DEV_SCALE_SPARES : Reg := ⟨.DEV, 0x10C, 1, 4, [⟨0, 8, .roL, 0x0⟩]⟩
/-- DEV_SCALE_PRESENT (R31). -/
def DEV_SCALE_PRESENT : Reg := ⟨.DEV, 0x110, 3, 4, [⟨0, 32, .roL, 0x0⟩]⟩
/-- DEV_SCALE_ADEPTH (R31). -/
def DEV_SCALE_ADEPTH : Reg := ⟨.DEV, 0x11C, 1, 4, [⟨0, 16, .roS, 0x0⟩]⟩
/-- DEV_SCALE_VLANES (R31). -/
def DEV_SCALE_VLANES : Reg := ⟨.DEV, 0x120, 1, 4, [⟨0, 16, .roS, 0x0⟩]⟩
/-- DEV_SCALE_SCRATCH (R31). -/
def DEV_SCALE_SCRATCH : Reg := ⟨.DEV, 0x124, 1, 4, [⟨0, 16, .roS, 0x0⟩]⟩
/-- DEV_SCALE_FLAGS (R31). -/
def DEV_SCALE_FLAGS : Reg := ⟨.DEV, 0x128, 1, 4, [⟨0, 16, .roS, 0x0⟩]⟩
/-- DEV_SCALE_MOPS (R31). -/
def DEV_SCALE_MOPS : Reg := ⟨.DEV, 0x12C, 1, 4, [⟨0, 16, .roS, 0x0⟩]⟩
/-- DEV_SCALE_STACKS (R31). -/
def DEV_SCALE_STACKS : Reg := ⟨.DEV, 0x130, 1, 4, [⟨0, 8, .roS, 0x0⟩]⟩
/-- DEV_SCALE_STACKMIB (R31). -/
def DEV_SCALE_STACKMIB : Reg := ⟨.DEV, 0x134, 1, 4, [⟨0, 32, .roS, 0x0⟩]⟩
/-- DEV_SCALE_STACKOK (R31). -/
def DEV_SCALE_STACKOK : Reg := ⟨.DEV, 0x138, 1, 4, [⟨0, 20, .roL, 0x0⟩]⟩
/-- DEV_SCALE_LANES (R31). -/
def DEV_SCALE_LANES : Reg := ⟨.DEV, 0x13C, 1, 4, [⟨0, 16, .roS, 0x0⟩]⟩
/-- DEV_SCALE_PORTS (R31). -/
def DEV_SCALE_PORTS : Reg := ⟨.DEV, 0x140, 1, 4, [⟨0, 16, .roL, 0x0⟩]⟩
/-- DEV_SCALE_CONTEXTS (R31). -/
def DEV_SCALE_CONTEXTS : Reg := ⟨.DEV, 0x144, 1, 4, [⟨0, 16, .roS, 0x0⟩]⟩
/-- DEV_SCALE_MEMBERS (R31). -/
def DEV_SCALE_MEMBERS : Reg := ⟨.DEV, 0x148, 1, 4, [⟨0, 16, .roL, 0x0⟩]⟩
/-- DEV_SCALE_FMAX (R31). -/
def DEV_SCALE_FMAX : Reg := ⟨.DEV, 0x14C, 1, 4, [⟨0, 16, .roL, 0x0⟩]⟩
/-- DEV_SCALE_POOLS (R31). -/
def DEV_SCALE_POOLS : Reg := ⟨.DEV, 0x150, 1, 4, [⟨0, 5, .roL, 0x0⟩]⟩
/-- DEV_SCALE_POOLCH (R31). -/
def DEV_SCALE_POOLCH : Reg := ⟨.DEV, 0x154, 17, 4, [⟨0, 32, .roL, 0x0⟩]⟩
/-- DEV_SCALE_AWIDTH (R31). -/
def DEV_SCALE_AWIDTH : Reg := ⟨.DEV, 0x1A0, 20, 4, [⟨0, 32, .roL, 0x0⟩]⟩
/-- ACC_ENT_MID (R53). -/
def ACC_ENT_MID : Reg := ⟨.ACC, 0x0, 64, 16, [⟨0, 12, .rwC, 0x0⟩, ⟨12, 12, .rwC, 0x0⟩]⟩
/-- ACC_ENT_BASE (R53). -/
def ACC_ENT_BASE : Reg := ⟨.ACC, 0x4, 64, 16, [⟨0, 32, .rwC, 0x0⟩]⟩
/-- ACC_ENT_LIMIT (R53). -/
def ACC_ENT_LIMIT : Reg := ⟨.ACC, 0x8, 64, 16, [⟨0, 32, .rwC, 0x0⟩]⟩
/-- ACC_ENT_CTL (R53). -/
def ACC_ENT_CTL : Reg := ⟨.ACC, 0xC, 64, 16, [⟨0, 4, .rwC, 0x0⟩, ⟨4, 4, .rwC, 0x0⟩, ⟨8, 1, .rwC, 0x0⟩, ⟨9, 1, .rwC, 0x0⟩, ⟨10, 1, .rwC, 0x0⟩, ⟨31, 1, .rwC, 0x0⟩]⟩
/-- ACC_TBL_CTAG (R53). -/
def ACC_TBL_CTAG : Reg := ⟨.ACC, 0x400, 1, 4, [⟨0, 8, .rwL, 0x0⟩]⟩
/-- ACC_TBL_COMMIT (R53). -/
def ACC_TBL_COMMIT : Reg := ⟨.ACC, 0x404, 1, 4, [⟨0, 8, .woL, 0x0⟩, ⟨8, 1, .roL, 0x0⟩]⟩
/-- ACC_TBL_STATUS (R53). -/
def ACC_TBL_STATUS : Reg := ⟨.ACC, 0x408, 1, 4, [⟨0, 1, .roL, 0x1⟩, ⟨1, 1, .woL, 0x0⟩, ⟨2, 1, .roL, 0x0⟩]⟩
/-- ACC_TBL_DENYCNT (R53). -/
def ACC_TBL_DENYCNT : Reg := ⟨.ACC, 0x40C, 1, 4, [⟨0, 32, .roL, 0x0⟩]⟩
/-- ACC_TBL_DENYMID (R53). -/
def ACC_TBL_DENYMID : Reg := ⟨.ACC, 0x410, 1, 4, [⟨0, 12, .roL, 0x0⟩, ⟨12, 4, .roL, 0x0⟩, ⟨16, 1, .roL, 0x0⟩]⟩
/-- ACC_TBL_DENYLO (R53). -/
def ACC_TBL_DENYLO : Reg := ⟨.ACC, 0x414, 1, 4, [⟨0, 32, .roL, 0x0⟩]⟩
/-- ACC_TBL_DENYHI (R53). -/
def ACC_TBL_DENYHI : Reg := ⟨.ACC, 0x418, 1, 4, [⟨0, 16, .roL, 0x0⟩]⟩
/-- PORT_CTL (R96). -/
def PORT_CTL : Reg := ⟨.PORT, 0x0, 1, 4, [⟨0, 1, .rwL, 0x0⟩, ⟨1, 1, .w1sL, 0x0⟩, ⟨2, 1, .w1sL, 0x0⟩, ⟨3, 1, .rwS, 0x1⟩]⟩
/-- PORT_STATUS (R96). -/
def PORT_STATUS : Reg := ⟨.PORT, 0x4, 1, 4, [⟨0, 4, .roL, 0x0⟩, ⟨4, 4, .roL, 0x0⟩, ⟨8, 8, .roL, 0x0⟩, ⟨16, 4, .roL, 0x0⟩]⟩
/-- PORT_RETRY (R96). -/
def PORT_RETRY : Reg := ⟨.PORT, 0x8, 1, 4, [⟨0, 16, .rwS, 0xC8⟩, ⟨16, 4, .rwS, 0x4⟩]⟩
/-- PORT_CRED (R96). -/
def PORT_CRED : Reg := ⟨.PORT, 0x10, 8, 4, [⟨0, 16, .rwS, 0x0⟩]⟩
/-- PORT_CRED8 (R96). -/
def PORT_CRED8 : Reg := ⟨.PORT, 0x30, 1, 4, [⟨0, 16, .roS, 0x20⟩]⟩
/-- PORT_TXCRED (R96). -/
def PORT_TXCRED : Reg := ⟨.PORT, 0x40, 9, 4, [⟨0, 16, .roL, 0x0⟩, ⟨16, 16, .roL, 0x0⟩]⟩
/-- PORT_CNT_FECCORR (R96). -/
def PORT_CNT_FECCORR : Reg := ⟨.PORT, 0x70, 1, 4, [⟨0, 32, .roL, 0x0⟩]⟩
/-- PORT_CNT_FECUNC (R96). -/
def PORT_CNT_FECUNC : Reg := ⟨.PORT, 0x74, 1, 4, [⟨0, 32, .roL, 0x0⟩]⟩
/-- PORT_CNT_REPLAY (R96). -/
def PORT_CNT_REPLAY : Reg := ⟨.PORT, 0x78, 1, 4, [⟨0, 32, .roL, 0x0⟩]⟩
/-- PORT_CNT_NAK (R96). -/
def PORT_CNT_NAK : Reg := ⟨.PORT, 0x7C, 1, 4, [⟨0, 32, .roL, 0x0⟩]⟩
/-- PORT_CNT_RETRAIN (R96). -/
def PORT_CNT_RETRAIN : Reg := ⟨.PORT, 0x80, 1, 4, [⟨0, 32, .roL, 0x0⟩]⟩
/-- PORT_CNT_ABORTTX (R96). -/
def PORT_CNT_ABORTTX : Reg := ⟨.PORT, 0x84, 1, 4, [⟨0, 32, .roL, 0x0⟩]⟩
/-- PORT_CNT_ABORTRX (R96). -/
def PORT_CNT_ABORTRX : Reg := ⟨.PORT, 0x88, 1, 4, [⟨0, 32, .roL, 0x0⟩]⟩
/-- PORT_CNT_PROTERR (R96). -/
def PORT_CNT_PROTERR : Reg := ⟨.PORT, 0x8C, 1, 4, [⟨0, 32, .roL, 0x0⟩]⟩
/-- PORT_CNT_CLOSEDDROP (R96). -/
def PORT_CNT_CLOSEDDROP : Reg := ⟨.PORT, 0x90, 1, 4, [⟨0, 32, .roL, 0x0⟩]⟩
/-- PORT_CNT_DOWNSHIFT (R96). -/
def PORT_CNT_DOWNSHIFT : Reg := ⟨.PORT, 0x94, 1, 4, [⟨0, 32, .roL, 0x0⟩]⟩
/-- PORT_CNT_REPLAYLOST (R96). -/
def PORT_CNT_REPLAYLOST : Reg := ⟨.PORT, 0x98, 1, 4, [⟨0, 32, .roL, 0x0⟩]⟩
/-- PORT_CNT_CLR (R96). -/
def PORT_CNT_CLR : Reg := ⟨.PORT, 0x9C, 1, 4, [⟨0, 1, .woL, 0x0⟩]⟩
/-- LINK_CFG (R97). -/
def LINK_CFG : Reg := ⟨.LINK, 0x0, 1, 4, [⟨0, 1, .rwS, 0x0⟩, ⟨1, 1, .rwS, 0x0⟩, ⟨2, 1, .rwS, 0x0⟩, ⟨3, 2, .rwS, 0x0⟩, ⟨5, 2, .rwL, 0x0⟩]⟩
/-- LINK_STATUS (R97). -/
def LINK_STATUS : Reg := ⟨.LINK, 0x4, 1, 4, [⟨0, 1, .roL, 0x0⟩, ⟨1, 1, .roL, 0x0⟩, ⟨2, 1, .roL, 0x0⟩, ⟨3, 1, .roL, 0x0⟩, ⟨4, 1, .roL, 0x0⟩]⟩
/-- LINK_TXEQ (R97). -/
def LINK_TXEQ : Reg := ⟨.LINK, 0x8, 1, 4, [⟨0, 6, .rwS, 0x0⟩, ⟨8, 6, .rwS, 0x0⟩, ⟨16, 6, .rwS, 0x0⟩]⟩
/-- LINK_CNT_SYMERR (R97). -/
def LINK_CNT_SYMERR : Reg := ⟨.LINK, 0xC, 1, 4, [⟨0, 32, .roL, 0x0⟩]⟩
/-- LINK_SERTHR (R97). -/
def LINK_SERTHR : Reg := ⟨.LINK, 0x10, 1, 4, [⟨0, 16, .rwL, 0x1000⟩, ⟨16, 4, .rwL, 0xA⟩]⟩
/-- LINK_QMODE (R97). -/
def LINK_QMODE : Reg := ⟨.LINK, 0x20, 1, 4, [⟨0, 2, .rwC, 0x0⟩]⟩
/-- LINK_BD_CTAG (R97). -/
def LINK_BD_CTAG : Reg := ⟨.LINK, 0x30, 1, 4, [⟨0, 8, .rwL, 0x0⟩]⟩
/-- LINK_BD_COMMIT (R97). -/
def LINK_BD_COMMIT : Reg := ⟨.LINK, 0x34, 1, 4, [⟨0, 8, .woL, 0x0⟩, ⟨8, 1, .roL, 0x0⟩]⟩
/-- FWD_CTL (R124). -/
def FWD_CTL : Reg := ⟨.FWD, 0x0, 1, 4, [⟨0, 1, .rwL, 0x0⟩]⟩
/-- FWD_SELF (R124). -/
def FWD_SELF : Reg := ⟨.FWD, 0x4, 1, 4, [⟨0, 20, .rwS, 0x0⟩]⟩
/-- FWD_CTAG (R124). -/
def FWD_CTAG : Reg := ⟨.FWD, 0x8, 1, 4, [⟨0, 8, .rwL, 0x0⟩]⟩
/-- FWD_COMMIT (R124). -/
def FWD_COMMIT : Reg := ⟨.FWD, 0xC, 1, 4, [⟨0, 8, .woL, 0x0⟩, ⟨8, 1, .roL, 0x0⟩]⟩
/-- FWD_IND_SEL (R124). -/
def FWD_IND_SEL : Reg := ⟨.FWD, 0x10, 1, 4, [⟨0, 20, .rwL, 0x0⟩, ⟨29, 1, .rwL, 0x0⟩, ⟨30, 2, .rwL, 0x0⟩]⟩
/-- FWD_IND_DATA (R124). -/
def FWD_IND_DATA : Reg := ⟨.FWD, 0x14, 1, 4, [⟨0, 32, .rwC, 0x0⟩]⟩
/-- FWD_STAGE (R124). -/
def FWD_STAGE : Reg := ⟨.FWD, 0x18, 1, 4, [⟨0, 11, .roL, 0x0⟩]⟩
/-- FWD_CNT_NOROUTE (R124). -/
def FWD_CNT_NOROUTE : Reg := ⟨.FWD, 0x20, 1, 4, [⟨0, 32, .roL, 0x0⟩]⟩
/-- FWD_CNT_HDRERR (R124). -/
def FWD_CNT_HDRERR : Reg := ⟨.FWD, 0x24, 1, 4, [⟨0, 32, .roL, 0x0⟩]⟩
/-- FWD_CNT_CRCERR (R124). -/
def FWD_CNT_CRCERR : Reg := ⟨.FWD, 0x28, 1, 4, [⟨0, 32, .roL, 0x0⟩]⟩
/-- FWD_CNT_FENCEDROP (R124). -/
def FWD_CNT_FENCEDROP : Reg := ⟨.FWD, 0x2C, 1, 4, [⟨0, 32, .roL, 0x0⟩]⟩
/-- FWD_CNT_EPFENCE (R124). -/
def FWD_CNT_EPFENCE : Reg := ⟨.FWD, 0x30, 1, 4, [⟨0, 32, .roL, 0x0⟩]⟩
/-- FWD_CNT_CMARK (R124). -/
def FWD_CNT_CMARK : Reg := ⟨.FWD, 0x34, 1, 4, [⟨0, 32, .roL, 0x0⟩]⟩
/-- FWD_CNT_CMRX (R124). -/
def FWD_CNT_CMRX : Reg := ⟨.FWD, 0x38, 1, 4, [⟨0, 32, .roL, 0x0⟩]⟩
/-- FWD_CNT_THROTTLE (R124). -/
def FWD_CNT_THROTTLE : Reg := ⟨.FWD, 0x3C, 1, 4, [⟨0, 32, .roL, 0x0⟩]⟩
/-- FWD_CNT_CLR (R124). -/
def FWD_CNT_CLR : Reg := ⟨.FWD, 0x40, 1, 4, [⟨0, 1, .woL, 0x0⟩]⟩
/-- FWD_LASTDROP (R124). -/
def FWD_LASTDROP : Reg := ⟨.FWD, 0x44, 1, 4, [⟨0, 20, .roL, 0x0⟩, ⟨20, 4, .roL, 0x0⟩]⟩
/-- FWD_CMTHR (R124). -/
def FWD_CMTHR : Reg := ⟨.FWD, 0x50, 9, 4, [⟨0, 16, .rwL, 0x0⟩]⟩
/-- FWD_THRTL (R124). -/
def FWD_THRTL : Reg := ⟨.FWD, 0x80, 1, 4, [⟨0, 16, .rwC, 0x400⟩, ⟨16, 16, .rwC, 0x1000⟩]⟩
/-- FWD_THRTL_INT (R124). -/
def FWD_THRTL_INT : Reg := ⟨.FWD, 0x84, 1, 4, [⟨0, 16, .rwC, 0x10⟩]⟩
/-- FWD_PFENCE (R124). -/
def FWD_PFENCE : Reg := ⟨.FWD, 0x100, 16, 4, [⟨0, 32, .roL, 0xFFFFFFFF⟩]⟩
/-- FWD_PFENCEH (R124). -/
def FWD_PFENCEH : Reg := ⟨.FWD, 0x140, 16, 4, [⟨0, 32, .rwL, 0x0⟩]⟩
/-- FWD_DETJOB (R124). -/
def FWD_DETJOB : Reg := ⟨.FWD, 0x180, 8, 4, [⟨0, 32, .rwC, 0x0⟩]⟩
/-- FWD_PORTJOB (R124). -/
def FWD_PORTJOB : Reg := ⟨.FWD, 0x200, 128, 4, [⟨0, 32, .rwC, 0x0⟩]⟩
/-- BUF_AUDIT (R150). -/
def BUF_AUDIT : Reg := ⟨.BUF, 0x0, 1, 4, [⟨0, 16, .rwL, 0x64⟩, ⟨16, 1, .rwL, 0x1⟩, ⟨17, 1, .rwL, 0x0⟩]⟩
/-- BUF_AUDIT_STATUS (R150). -/
def BUF_AUDIT_STATUS : Reg := ⟨.BUF, 0x4, 1, 4, [⟨0, 1, .roL, 0x0⟩]⟩
/-- BUF_P0_LOWCLS (R150). -/
def BUF_P0_LOWCLS : Reg := ⟨.BUF, 0x8, 1, 4, [⟨0, 8, .rwL, 0xF⟩]⟩
/-- BUF_CNT_MCREP (R150). -/
def BUF_CNT_MCREP : Reg := ⟨.BUF, 0x10, 1, 4, [⟨0, 32, .roL, 0x0⟩]⟩
/-- BUF_CNT_MCFENCE (R150). -/
def BUF_CNT_MCFENCE : Reg := ⟨.BUF, 0x14, 1, 4, [⟨0, 32, .roL, 0x0⟩]⟩
/-- BUF_CNT_NOBUF (R150). -/
def BUF_CNT_NOBUF : Reg := ⟨.BUF, 0x18, 1, 4, [⟨0, 32, .roL, 0x0⟩]⟩
/-- BUF_CNT_SLICESKIP (R150). -/
def BUF_CNT_SLICESKIP : Reg := ⟨.BUF, 0x1C, 1, 4, [⟨0, 32, .roL, 0x0⟩]⟩
/-- BUF_CNT_SLICEHOLD (R150). -/
def BUF_CNT_SLICEHOLD : Reg := ⟨.BUF, 0x20, 1, 4, [⟨0, 32, .roL, 0x0⟩]⟩
/-- BUF_CNT_CLR (R150). -/
def BUF_CNT_CLR : Reg := ⟨.BUF, 0x24, 1, 4, [⟨0, 1, .woL, 0x0⟩]⟩
/-- BUF_SLICEFREE (R150). -/
def BUF_SLICEFREE : Reg := ⟨.BUF, 0x100, 20, 4, [⟨0, 17, .roL, 0x0⟩]⟩
/-- POOL_CTL (R151). -/
def POOL_CTL : Reg := ⟨.POOL, 0x0, 1, 4, [⟨0, 1, .rwL, 0x0⟩, ⟨4, 4, .rwS, 0x0⟩, ⟨8, 3, .rwS, 0x1⟩]⟩
/-- POOL_COUNT (R151). -/
def POOL_COUNT : Reg := ⟨.POOL, 0x4, 1, 4, [⟨0, 24, .rwS, 0x0⟩]⟩
/-- POOL_RBASE_LO (R151). -/
def POOL_RBASE_LO : Reg := ⟨.POOL, 0x8, 1, 4, [⟨12, 20, .rwS, 0x0⟩]⟩
/-- POOL_RBASE_HI (R151). -/
def POOL_RBASE_HI : Reg := ⟨.POOL, 0xC, 1, 4, [⟨0, 16, .rwS, 0x0⟩]⟩
/-- POOL_CBASE_LO (R151). -/
def POOL_CBASE_LO : Reg := ⟨.POOL, 0x10, 1, 4, [⟨12, 20, .rwS, 0x0⟩]⟩
/-- POOL_CBASE_HI (R151). -/
def POOL_CBASE_HI : Reg := ⟨.POOL, 0x14, 1, 4, [⟨0, 16, .rwS, 0x0⟩]⟩
/-- POOL_CTAG (R151). -/
def POOL_CTAG : Reg := ⟨.POOL, 0x18, 1, 4, [⟨0, 8, .rwL, 0x0⟩]⟩
/-- POOL_COMMIT (R151). -/
def POOL_COMMIT : Reg := ⟨.POOL, 0x1C, 1, 4, [⟨0, 8, .woL, 0x0⟩, ⟨8, 1, .roL, 0x0⟩]⟩
/-- POOL_WARN (R151). -/
def POOL_WARN : Reg := ⟨.POOL, 0x20, 1, 4, [⟨0, 24, .rwC, 0x0⟩]⟩
/-- POOL_PLOW (R151). -/
def POOL_PLOW : Reg := ⟨.POOL, 0x24, 1, 4, [⟨0, 24, .rwC, 0x0⟩]⟩
/-- POOL_PALL (R151). -/
def POOL_PALL : Reg := ⟨.POOL, 0x28, 1, 4, [⟨0, 24, .rwC, 0x0⟩]⟩
/-- POOL_HYST (R151). -/
def POOL_HYST : Reg := ⟨.POOL, 0x2C, 1, 4, [⟨0, 24, .rwC, 0x0⟩]⟩
/-- POOL_STATUS (R151). -/
def POOL_STATUS : Reg := ⟨.POOL, 0x40, 1, 4, [⟨0, 3, .roL, 0x0⟩, ⟨3, 1, .roL, 0x0⟩, ⟨4, 1, .roL, 0x0⟩, ⟨5, 1, .roL, 0x0⟩, ⟨6, 1, .woL, 0x0⟩]⟩
/-- POOL_FREE (R151). -/
def POOL_FREE : Reg := ⟨.POOL, 0x44, 1, 4, [⟨0, 24, .roL, 0x0⟩]⟩
/-- POOL_MINFREE (R151). -/
def POOL_MINFREE : Reg := ⟨.POOL, 0x48, 1, 4, [⟨0, 24, .roL, 0x0⟩]⟩
/-- POOL_INCDIFF (R151). -/
def POOL_INCDIFF : Reg := ⟨.POOL, 0x4C, 1, 4, [⟨0, 25, .roL, 0x0⟩]⟩
/-- POOL_CNT_ALLOC (R151). -/
def POOL_CNT_ALLOC : Reg := ⟨.POOL, 0x50, 1, 4, [⟨0, 32, .roL, 0x0⟩]⟩
/-- POOL_CNT_WAIT (R151). -/
def POOL_CNT_WAIT : Reg := ⟨.POOL, 0x54, 1, 4, [⟨0, 32, .roL, 0x0⟩]⟩
/-- POOL_CNT_DFREE (R151). -/
def POOL_CNT_DFREE : Reg := ⟨.POOL, 0x58, 1, 4, [⟨0, 32, .roL, 0x0⟩]⟩
/-- POOL_CNT_WRONGOWN (R151). -/
def POOL_CNT_WRONGOWN : Reg := ⟨.POOL, 0x5C, 1, 4, [⟨0, 32, .roL, 0x0⟩]⟩
/-- POOL_CNT_RANGE (R151). -/
def POOL_CNT_RANGE : Reg := ⟨.POOL, 0x60, 1, 4, [⟨0, 32, .roL, 0x0⟩]⟩
/-- POOL_CNT_REFOVF (R151). -/
def POOL_CNT_REFOVF : Reg := ⟨.POOL, 0x64, 1, 4, [⟨0, 32, .roL, 0x0⟩]⟩
/-- POOL_CNT_LEAK (R151). -/
def POOL_CNT_LEAK : Reg := ⟨.POOL, 0x68, 1, 4, [⟨0, 32, .roL, 0x0⟩]⟩
/-- POOL_CNT_RECLAIM (R151). -/
def POOL_CNT_RECLAIM : Reg := ⟨.POOL, 0x6C, 1, 4, [⟨0, 32, .roL, 0x0⟩]⟩
/-- POOL_ERR_BUF (R151). -/
def POOL_ERR_BUF : Reg := ⟨.POOL, 0x70, 1, 4, [⟨0, 24, .roL, 0x0⟩, ⟨24, 4, .roL, 0x0⟩]⟩
/-- POOL_ERR_OWN (R151). -/
def POOL_ERR_OWN : Reg := ⟨.POOL, 0x74, 1, 4, [⟨0, 12, .roL, 0x0⟩, ⟨12, 12, .roL, 0x0⟩]⟩
/-- SCHED_CTAG (R169). -/
def SCHED_CTAG : Reg := ⟨.SCHED, 0x0, 1, 4, [⟨0, 8, .rwL, 0x0⟩]⟩
/-- SCHED_COMMIT (R169). -/
def SCHED_COMMIT : Reg := ⟨.SCHED, 0x4, 1, 4, [⟨0, 8, .woL, 0x0⟩, ⟨8, 1, .roL, 0x0⟩]⟩
/-- SCHED_QUANT (R169). -/
def SCHED_QUANT : Reg := ⟨.SCHED, 0x10, 8, 4, [⟨0, 16, .rwC, 0x1038⟩]⟩
/-- SCHED_SHRATE (R169). -/
def SCHED_SHRATE : Reg := ⟨.SCHED, 0x40, 9, 4, [⟨0, 21, .rwC, 0x0⟩]⟩
/-- SCHED_SHBURST (R169). -/
def SCHED_SHBURST : Reg := ⟨.SCHED, 0x70, 9, 4, [⟨0, 24, .rwC, 0x2070⟩]⟩
/-- SCHED_SHCRED (R169). -/
def SCHED_SHCRED : Reg := ⟨.SCHED, 0xA0, 9, 4, [⟨0, 25, .roL, 0x2070⟩]⟩
/-- SCHED_MRATE (R169). -/
def SCHED_MRATE : Reg := ⟨.SCHED, 0xD0, 9, 4, [⟨0, 21, .rwC, 0x0⟩]⟩
/-- SCHED_MBURST (R169). -/
def SCHED_MBURST : Reg := ⟨.SCHED, 0x100, 9, 4, [⟨0, 24, .rwC, 0x2070⟩]⟩
/-- SCHED_CNT_MTRDROP (R169). -/
def SCHED_CNT_MTRDROP : Reg := ⟨.SCHED, 0x130, 9, 4, [⟨0, 32, .roL, 0x0⟩]⟩
/-- SCHED_CNT_GUARD (R169). -/
def SCHED_CNT_GUARD : Reg := ⟨.SCHED, 0x160, 1, 4, [⟨0, 32, .roL, 0x0⟩]⟩
/-- SCHED_CNT_GATEOVR (R169). -/
def SCHED_CNT_GATEOVR : Reg := ⟨.SCHED, 0x164, 1, 4, [⟨0, 32, .roL, 0x0⟩]⟩
/-- SCHED_CNT_CLR (R169). -/
def SCHED_CNT_CLR : Reg := ⟨.SCHED, 0x168, 1, 4, [⟨0, 1, .woL, 0x0⟩]⟩
/-- GATE_CTL (R170). -/
def GATE_CTL : Reg := ⟨.GATE, 0x0, 1, 4, [⟨0, 1, .rwL, 0x0⟩]⟩
/-- GATE_BASE_LO (R170). -/
def GATE_BASE_LO : Reg := ⟨.GATE, 0x8, 1, 4, [⟨0, 32, .rwC, 0x0⟩]⟩
/-- GATE_BASE_HI (R170). -/
def GATE_BASE_HI : Reg := ⟨.GATE, 0xC, 1, 4, [⟨0, 32, .rwC, 0x0⟩]⟩
/-- GATE_CTAG (R170). -/
def GATE_CTAG : Reg := ⟨.GATE, 0x10, 1, 4, [⟨0, 8, .rwL, 0x0⟩]⟩
/-- GATE_COMMIT (R170). -/
def GATE_COMMIT : Reg := ⟨.GATE, 0x14, 1, 4, [⟨0, 8, .woL, 0x0⟩, ⟨8, 1, .roL, 0x0⟩]⟩
/-- GATE_STATUS (R170). -/
def GATE_STATUS : Reg := ⟨.GATE, 0x18, 1, 4, [⟨0, 8, .roL, 0x0⟩, ⟨8, 9, .roL, 0x0⟩]⟩
/-- GATE_CYCLE (R170). -/
def GATE_CYCLE : Reg := ⟨.GATE, 0x1C, 1, 4, [⟨0, 32, .roL, 0x0⟩]⟩
/-- GATE_ENT (R170). -/
def GATE_ENT : Reg := ⟨.GATE, 0x400, 256, 4, [⟨0, 32, .rwC, 0x0⟩]⟩
/-- TEL_Q_CFG (R171). -/
def TEL_Q_CFG : Reg := ⟨.TEL, 0x0, 1, 4, [⟨0, 1, .rwL, 0x0⟩, ⟨1, 4, .rwL, 0xA⟩]⟩
/-- TEL_Q_DEPTH (R171). -/
def TEL_Q_DEPTH : Reg := ⟨.TEL, 0x4, 1, 4, [⟨0, 21, .roL, 0x0⟩]⟩
/-- TEL_Q_HWDEPTH (R171). -/
def TEL_Q_HWDEPTH : Reg := ⟨.TEL, 0x8, 1, 4, [⟨0, 21, .roL, 0x0⟩]⟩
/-- TEL_Q_HWSOJ (R171). -/
def TEL_Q_HWSOJ : Reg := ⟨.TEL, 0xC, 1, 4, [⟨0, 24, .roL, 0x0⟩]⟩
/-- TEL_Q_CTL (R171). -/
def TEL_Q_CTL : Reg := ⟨.TEL, 0x10, 1, 4, [⟨0, 1, .woL, 0x0⟩]⟩
/-- TEL_SFIFO_LO (R171). -/
def TEL_SFIFO_LO : Reg := ⟨.TELF, 0x40000, 1, 4, [⟨0, 32, .roL, 0x0⟩]⟩
/-- TEL_SFIFO_HI (R171). -/
def TEL_SFIFO_HI : Reg := ⟨.TELF, 0x40004, 1, 4, [⟨0, 32, .roL, 0x0⟩]⟩
/-- TEL_SFIFO_STATUS (R171). -/
def TEL_SFIFO_STATUS : Reg := ⟨.TELF, 0x40008, 1, 4, [⟨0, 11, .roL, 0x0⟩]⟩
/-- TIME_CTL (R205). -/
def TIME_CTL : Reg := ⟨.TIME, 0x0, 1, 4, [⟨0, 2, .rwS, 0x0⟩, ⟨2, 2, .rwS, 0x0⟩, ⟨4, 9, .rwS, 0x0⟩, ⟨13, 8, .rwS, 0x0⟩, ⟨31, 1, .rwL, 0x0⟩]⟩
/-- TIME_TIDEPORT (R205). -/
def TIME_TIDEPORT : Reg := ⟨.TIME, 0x10, 16, 4, [⟨0, 32, .rwL, 0x0⟩]⟩
/-- TIME_INT (R205). -/
def TIME_INT : Reg := ⟨.TIME, 0x50, 1, 4, [⟨0, 3, .rwS, 0x3⟩, ⟨8, 8, .rwS, 0x10⟩]⟩
/-- TIME_ASYM (R205). -/
def TIME_ASYM : Reg := ⟨.TIME, 0x54, 1, 4, [⟨0, 32, .rwL, 0x0⟩]⟩
/-- TIME_STATUS (R205). -/
def TIME_STATUS : Reg := ⟨.TIME, 0x60, 1, 4, [⟨0, 3, .roL, 0x0⟩, ⟨3, 1, .roL, 0x0⟩, ⟨4, 1, .roL, 0x0⟩, ⟨8, 4, .roL, 0x0⟩]⟩
/-- TIME_GMID (R205). -/
def TIME_GMID : Reg := ⟨.TIME, 0x64, 1, 4, [⟨0, 20, .roL, 0x0⟩]⟩
/-- TIME_OFFSET (R205). -/
def TIME_OFFSET : Reg := ⟨.TIME, 0x68, 1, 4, [⟨0, 32, .roL, 0x0⟩]⟩
/-- TIME_DELAY (R205). -/
def TIME_DELAY : Reg := ⟨.TIME, 0x6C, 1, 4, [⟨0, 32, .roL, 0x0⟩]⟩
/-- TIME_FREQ (R205). -/
def TIME_FREQ : Reg := ⟨.TIME, 0x70, 1, 4, [⟨0, 24, .roL, 0x0⟩]⟩
/-- TIME_NOW_LO (R205). -/
def TIME_NOW_LO : Reg := ⟨.TIME, 0x80, 1, 4, [⟨0, 32, .roL, 0x0⟩]⟩
/-- TIME_NOW_HI (R205). -/
def TIME_NOW_HI : Reg := ⟨.TIME, 0x84, 1, 4, [⟨0, 32, .roL, 0x0⟩]⟩
/-- TIME_NOW_FRAC (R205). -/
def TIME_NOW_FRAC : Reg := ⟨.TIME, 0x88, 1, 4, [⟨0, 16, .roL, 0x0⟩]⟩
/-- TIME_SET_LO (R205). -/
def TIME_SET_LO : Reg := ⟨.TIME, 0x90, 1, 4, [⟨0, 32, .rwC, 0x0⟩]⟩
/-- TIME_SET_HI (R205). -/
def TIME_SET_HI : Reg := ⟨.TIME, 0x94, 1, 4, [⟨0, 32, .rwC, 0x0⟩]⟩
/-- TIME_SETCTL (R205). -/
def TIME_SETCTL : Reg := ⟨.TIME, 0x98, 1, 4, [⟨0, 2, .rwC, 0x0⟩]⟩
/-- TIME_CTAG (R205). -/
def TIME_CTAG : Reg := ⟨.TIME, 0xA0, 1, 4, [⟨0, 8, .rwL, 0x0⟩]⟩
/-- TIME_COMMIT (R205). -/
def TIME_COMMIT : Reg := ⟨.TIME, 0xA4, 1, 4, [⟨0, 8, .woL, 0x0⟩, ⟨8, 1, .roL, 0x0⟩]⟩
/-- TIME_PPSOUT (R205). -/
def TIME_PPSOUT : Reg := ⟨.TIME, 0xB0, 1, 4, [⟨0, 1, .rwL, 0x0⟩, ⟨1, 10, .rwL, 0x64⟩]⟩
/-- TIME_PPSOFS (R205). -/
def TIME_PPSOFS : Reg := ⟨.TIME, 0xB4, 1, 4, [⟨0, 30, .rwL, 0x0⟩]⟩
/-- TIME_PPSIN_LO (R205). -/
def TIME_PPSIN_LO : Reg := ⟨.TIME, 0xB8, 1, 4, [⟨0, 32, .roL, 0x0⟩]⟩
/-- TIME_PPSIN_HI (R205). -/
def TIME_PPSIN_HI : Reg := ⟨.TIME, 0xBC, 1, 4, [⟨0, 32, .roL, 0x0⟩]⟩
/-- TIME_CNT_SYNCRX (R205). -/
def TIME_CNT_SYNCRX : Reg := ⟨.TIME, 0xD0, 1, 4, [⟨0, 32, .roL, 0x0⟩]⟩
/-- TIME_CNT_REJECT (R205). -/
def TIME_CNT_REJECT : Reg := ⟨.TIME, 0xD4, 1, 4, [⟨0, 32, .roL, 0x0⟩]⟩
/-- TIME_CNT_STEP (R205). -/
def TIME_CNT_STEP : Reg := ⟨.TIME, 0xD8, 1, 4, [⟨0, 32, .roL, 0x0⟩]⟩
/-- TIME_CNT_CLR (R205). -/
def TIME_CNT_CLR : Reg := ⟨.TIME, 0xDC, 1, 4, [⟨0, 1, .woL, 0x0⟩]⟩
/-- CUE_CTL (R206). -/
def CUE_CTL : Reg := ⟨.CUE, 0x0, 1, 4, [⟨0, 1, .rwL, 0x0⟩, ⟨1, 1, .rwL, 0x0⟩]⟩
/-- CUE_PERIOD_LO (R206). -/
def CUE_PERIOD_LO : Reg := ⟨.CUE, 0x8, 1, 4, [⟨0, 32, .rwC, 0x0⟩]⟩
/-- CUE_PERIOD_HI (R206). -/
def CUE_PERIOD_HI : Reg := ⟨.CUE, 0xC, 1, 4, [⟨0, 32, .rwC, 0x0⟩]⟩
/-- CUE_CTAG (R206). -/
def CUE_CTAG : Reg := ⟨.CUE, 0x10, 1, 4, [⟨0, 8, .rwL, 0x0⟩]⟩
/-- CUE_COMMIT (R206). -/
def CUE_COMMIT : Reg := ⟨.CUE, 0x14, 1, 4, [⟨0, 8, .woL, 0x0⟩, ⟨8, 1, .roL, 0x0⟩]⟩
/-- CUE_STATUS (R206). -/
def CUE_STATUS : Reg := ⟨.CUE, 0x18, 1, 4, [⟨0, 8, .roL, 0x0⟩, ⟨8, 1, .roL, 0x0⟩, ⟨9, 1, .roL, 0x0⟩, ⟨10, 22, .roL, 0x0⟩]⟩
/-- CUE_CNT_FIRED (R206). -/
def CUE_CNT_FIRED : Reg := ⟨.CUE, 0x20, 1, 4, [⟨0, 32, .roL, 0x0⟩]⟩
/-- CUE_CNT_LATE (R206). -/
def CUE_CNT_LATE : Reg := ⟨.CUE, 0x24, 1, 4, [⟨0, 32, .roL, 0x0⟩]⟩
/-- CUE_CNT_SKIP (R206). -/
def CUE_CNT_SKIP : Reg := ⟨.CUE, 0x28, 1, 4, [⟨0, 32, .roL, 0x0⟩]⟩
/-- CUE_CNT_NOTARGET (R206). -/
def CUE_CNT_NOTARGET : Reg := ⟨.CUE, 0x2C, 1, 4, [⟨0, 32, .roL, 0x0⟩]⟩
/-- CUE_CNT_CLR (R206). -/
def CUE_CNT_CLR : Reg := ⟨.CUE, 0x30, 1, 4, [⟨0, 1, .woL, 0x0⟩]⟩
/-- CURT_MEM (R207). -/
def CURT_MEM : Reg := ⟨.CURT, 0x0, 3, 4, [⟨0, 32, .rwC, 0x0⟩]⟩
/-- CURT_CFG (R207). -/
def CURT_CFG : Reg := ⟨.CURT, 0xC, 1, 4, [⟨0, 8, .rwC, 0x0⟩]⟩
/-- CURT_TMO (R207). -/
def CURT_TMO : Reg := ⟨.CURT, 0x10, 1, 4, [⟨0, 16, .rwL, 0x0⟩]⟩
/-- CURT_CTAG (R207). -/
def CURT_CTAG : Reg := ⟨.CURT, 0x14, 1, 4, [⟨0, 8, .rwL, 0x0⟩]⟩
/-- CURT_COMMIT (R207). -/
def CURT_COMMIT : Reg := ⟨.CURT, 0x18, 1, 4, [⟨0, 8, .woL, 0x0⟩, ⟨8, 1, .roL, 0x0⟩]⟩
/-- CURT_ARR (R207). -/
def CURT_ARR : Reg := ⟨.CURT, 0x20, 3, 4, [⟨0, 32, .roL, 0x0⟩]⟩
/-- CURT_STATUS (R207). -/
def CURT_STATUS : Reg := ⟨.CURT, 0x30, 1, 4, [⟨0, 16, .roL, 0x0⟩, ⟨16, 1, .roL, 0x0⟩, ⟨17, 1, .roL, 0x0⟩]⟩
/-- CURT_CNT_BADARR (R207). -/
def CURT_CNT_BADARR : Reg := ⟨.CURT, 0x34, 1, 4, [⟨0, 32, .roL, 0x0⟩]⟩
/-- CURT_CLR (R207). -/
def CURT_CLR : Reg := ⟨.CURT, 0x38, 1, 4, [⟨0, 1, .woL, 0x0⟩]⟩
/-- COLL_CTL (R245). -/
def COLL_CTL : Reg := ⟨.COLL, 0x0, 1, 4, [⟨0, 1, .w1sL, 0x0⟩, ⟨1, 1, .w1sL, 0x0⟩, ⟨2, 1, .rwL, 0x0⟩]⟩
/-- COLL_STATE (R245). -/
def COLL_STATE : Reg := ⟨.COLL, 0x4, 1, 4, [⟨0, 3, .roL, 0x0⟩, ⟨3, 1, .roL, 0x0⟩, ⟨8, 8, .roL, 0x0⟩]⟩
/-- COLL_DESC0 (R245). -/
def COLL_DESC0 : Reg := ⟨.COLL, 0x8, 1, 4, [⟨0, 32, .roL, 0x0⟩]⟩
/-- COLL_DESC1 (R245). -/
def COLL_DESC1 : Reg := ⟨.COLL, 0xC, 1, 4, [⟨0, 32, .roL, 0x0⟩]⟩
/-- COLL_STEP (R245). -/
def COLL_STEP : Reg := ⟨.COLL, 0x10, 1, 4, [⟨0, 16, .roL, 0x0⟩, ⟨16, 16, .roL, 0x0⟩]⟩
/-- COLL_LASTST (R245). -/
def COLL_LASTST : Reg := ⟨.COLL, 0x14, 1, 4, [⟨0, 8, .roL, 0x0⟩, ⟨8, 24, .roL, 0x0⟩]⟩
/-- COLL_PROG (R245). -/
def COLL_PROG : Reg := ⟨.COLL, 0x18, 1, 4, [⟨0, 4, .roL, 0x0⟩, ⟨4, 24, .roL, 0x0⟩]⟩
/-- COLL_EARLY (R245). -/
def COLL_EARLY : Reg := ⟨.COLL, 0x1C, 1, 4, [⟨0, 7, .roL, 0x0⟩]⟩
/-- COLL_STRAG (R245). -/
def COLL_STRAG : Reg := ⟨.COLL, 0x20, 1, 4, [⟨0, 7, .rwL, 0x40⟩, ⟨8, 7, .rwL, 0x30⟩, ⟨16, 7, .rwL, 0x20⟩]⟩
/-- COLL_LASTIN (R245). -/
def COLL_LASTIN : Reg := ⟨.COLL, 0x24, 1, 4, [⟨0, 10, .roL, 0x0⟩, ⟨16, 7, .roL, 0x0⟩]⟩
/-- COLL_CNT_INST (R245). -/
def COLL_CNT_INST : Reg := ⟨.COLL, 0x30, 1, 4, [⟨0, 32, .roL, 0x0⟩]⟩
/-- COLL_CNT_ERR (R245). -/
def COLL_CNT_ERR : Reg := ⟨.COLL, 0x34, 1, 4, [⟨0, 32, .roL, 0x0⟩]⟩
/-- COLL_CNT_FENCED (R245). -/
def COLL_CNT_FENCED : Reg := ⟨.COLL, 0x38, 1, 4, [⟨0, 32, .roL, 0x0⟩]⟩
/-- COLL_CNT_BADPKT (R245). -/
def COLL_CNT_BADPKT : Reg := ⟨.COLL, 0x3C, 1, 4, [⟨0, 32, .roL, 0x0⟩]⟩
/-- COLL_BADREC (R245). -/
def COLL_BADREC : Reg := ⟨.COLL, 0x40, 1, 4, [⟨0, 4, .roL, 0x0⟩, ⟨4, 10, .roL, 0x0⟩]⟩
/-- COLL_CNT_CLR (R245). -/
def COLL_CNT_CLR : Reg := ⟨.COLL, 0x48, 1, 4, [⟨0, 1, .woL, 0x0⟩]⟩
/-- COLL_SUSPECT (R245). -/
def COLL_SUSPECT : Reg := ⟨.COLL, 0x100, 19, 4, [⟨0, 32, .roL, 0x0⟩]⟩
/-- COLL_LIST (R245). -/
def COLL_LIST : Reg := ⟨.COLL, 0x180, 19, 4, [⟨0, 32, .roL, 0x0⟩]⟩
/-- COLL_ARRORD (R245). -/
def COLL_ARRORD : Reg := ⟨.COLL, 0x200, 296, 4, [⟨0, 10, .roL, 0x0⟩, ⟨16, 10, .roL, 0x0⟩]⟩
/-- XRED_STATUS (R246). -/
def XRED_STATUS : Reg := ⟨.XRED, 0x0, 1, 4, [⟨0, 9, .roL, 0x0⟩, ⟨9, 9, .roL, 0x0⟩]⟩
/-- XRED_HWLAT (R246). -/
def XRED_HWLAT : Reg := ⟨.XRED, 0x4, 1, 4, [⟨0, 16, .roL, 0x0⟩]⟩
/-- XRED_CNT_INST (R246). -/
def XRED_CNT_INST : Reg := ⟨.XRED, 0x10, 1, 4, [⟨0, 32, .roL, 0x0⟩]⟩
/-- XRED_CNT_EXACT (R246). -/
def XRED_CNT_EXACT : Reg := ⟨.XRED, 0x14, 1, 4, [⟨0, 32, .roL, 0x0⟩]⟩
/-- XRED_CNT_LANEHOLD (R246). -/
def XRED_CNT_LANEHOLD : Reg := ⟨.XRED, 0x18, 1, 4, [⟨0, 32, .roL, 0x0⟩]⟩
/-- XRED_CNT_CLR (R246). -/
def XRED_CNT_CLR : Reg := ⟨.XRED, 0x1C, 1, 4, [⟨0, 1, .woL, 0x0⟩]⟩
/-- CLU_STATUS (R291). -/
def CLU_STATUS : Reg := ⟨.CLU, 0x0, 1, 4, [⟨0, 4, .roL, 0x0⟩, ⟨4, 3, .roL, 0x0⟩, ⟨7, 1, .roL, 0x0⟩, ⟨8, 4, .roL, 0x0⟩, ⟨12, 4, .roL, 0x0⟩, ⟨16, 8, .roL, 0x0⟩]⟩
/-- CLU_CTL (R291). -/
def CLU_CTL : Reg := ⟨.CLU, 0x4, 1, 4, [⟨0, 1, .w1sL, 0x0⟩, ⟨1, 1, .w1sL, 0x0⟩]⟩
/-- CLU_SLEEP (R291). -/
def CLU_SLEEP : Reg := ⟨.CLU, 0x8, 1, 4, [⟨0, 8, .rwL, 0x10⟩, ⟨8, 16, .rwL, 0x32⟩, ⟨24, 1, .rwL, 0x0⟩]⟩
/-- CLU_WDOG (R291). -/
def CLU_WDOG : Reg := ⟨.CLU, 0xC, 1, 4, [⟨0, 16, .rwL, 0x3E8⟩, ⟨16, 16, .rwL, 0x64⟩]⟩
/-- CLU_PROG_LO (R291). -/
def CLU_PROG_LO : Reg := ⟨.CLU, 0x10, 1, 4, [⟨0, 32, .roL, 0x0⟩]⟩
/-- CLU_PROG_HI (R291). -/
def CLU_PROG_HI : Reg := ⟨.CLU, 0x14, 1, 4, [⟨0, 16, .roL, 0x0⟩]⟩
/-- CLU_PROG_CRC (R291). -/
def CLU_PROG_CRC : Reg := ⟨.CLU, 0x18, 1, 4, [⟨0, 32, .roL, 0x0⟩]⟩
/-- CLU_REH (R291). -/
def CLU_REH : Reg := ⟨.CLU, 0x1C, 1, 4, [⟨0, 8, .roL, 0x0⟩, ⟨8, 24, .roL, 0x0⟩]⟩
/-- CLU_PC (R291). -/
def CLU_PC : Reg := ⟨.CLU, 0x20, 1, 4, [⟨0, 16, .roL, 0x0⟩]⟩
/-- CLU_QSTAT (R291). -/
def CLU_QSTAT : Reg := ⟨.CLU, 0x30, 4, 4, [⟨0, 11, .roL, 0x0⟩, ⟨16, 5, .roL, 0x0⟩, ⟨21, 8, .roL, 0x0⟩, ⟨29, 1, .roL, 0x0⟩]⟩
/-- CLU_MOVE (R291). -/
def CLU_MOVE : Reg := ⟨.CLU, 0x40, 1, 4, [⟨0, 7, .roL, 0x0⟩]⟩
/-- CLU_CNT_MOPS (R291). -/
def CLU_CNT_MOPS : Reg := ⟨.CLU, 0x50, 1, 4, [⟨0, 32, .roL, 0x0⟩]⟩
/-- CLU_CNT_WAKE (R291). -/
def CLU_CNT_WAKE : Reg := ⟨.CLU, 0x54, 1, 4, [⟨0, 32, .roL, 0x0⟩]⟩
/-- CLU_CNT_RETAIN (R291). -/
def CLU_CNT_RETAIN : Reg := ⟨.CLU, 0x58, 1, 4, [⟨0, 32, .roL, 0x0⟩]⟩
/-- CLU_CNT_REHFAIL (R291). -/
def CLU_CNT_REHFAIL : Reg := ⟨.CLU, 0x5C, 1, 4, [⟨0, 32, .roL, 0x0⟩]⟩
/-- CLU_CNT_CLR (R291). -/
def CLU_CNT_CLR : Reg := ⟨.CLU, 0x60, 1, 4, [⟨0, 1, .woL, 0x0⟩]⟩
/-- ARR_STATUS (R368). -/
def ARR_STATUS : Reg := ⟨.ARR, 0x0, 1, 4, [⟨0, 7, .roL, 0x40⟩, ⟨7, 1, .roL, 0x0⟩, ⟨8, 1, .roL, 0x0⟩, ⟨9, 1, .roL, 0x0⟩, ⟨10, 1, .roL, 0x0⟩, ⟨11, 1, .roL, 0x0⟩, ⟨12, 1, .roL, 0x0⟩]⟩
/-- ARR_BYPASS0 (R368). -/
def ARR_BYPASS0 : Reg := ⟨.ARR, 0x8, 1, 4, [⟨0, 32, .rwC, 0x0⟩]⟩
/-- ARR_BYPASS1 (R368). -/
def ARR_BYPASS1 : Reg := ⟨.ARR, 0xC, 1, 4, [⟨0, 32, .rwC, 0x0⟩]⟩
/-- ARR_CFG (R368). -/
def ARR_CFG : Reg := ⟨.ARR, 0x10, 1, 4, [⟨0, 6, .rwC, 0x8⟩, ⟨6, 1, .rwC, 0x1⟩, ⟨7, 1, .rwC, 0x1⟩]⟩
/-- ARR_CTAG (R368). -/
def ARR_CTAG : Reg := ⟨.ARR, 0x18, 1, 4, [⟨0, 8, .rwL, 0x0⟩]⟩
/-- ARR_COMMIT (R368). -/
def ARR_COMMIT : Reg := ⟨.ARR, 0x1C, 1, 4, [⟨0, 8, .woL, 0x0⟩, ⟨8, 1, .roL, 0x0⟩]⟩
/-- ARR_DIAGREC (R368). -/
def ARR_DIAGREC : Reg := ⟨.ARR, 0x20, 1, 4, [⟨0, 3, .roL, 0x0⟩, ⟨3, 6, .roL, 0x0⟩, ⟨9, 7, .roL, 0x0⟩, ⟨16, 11, .roL, 0x0⟩]⟩
/-- ARR_CNT_STREAM (R368). -/
def ARR_CNT_STREAM : Reg := ⟨.ARR, 0x40, 1, 4, [⟨0, 32, .roL, 0x0⟩]⟩
/-- ARR_CNT_LOWLAT (R368). -/
def ARR_CNT_LOWLAT : Reg := ⟨.ARR, 0x44, 1, 4, [⟨0, 32, .roL, 0x0⟩]⟩
/-- ARR_CNT_TWOPASS (R368). -/
def ARR_CNT_TWOPASS : Reg := ⟨.ARR, 0x48, 1, 4, [⟨0, 32, .roL, 0x0⟩]⟩
/-- ARR_CNT_BUBBLE (R368). -/
def ARR_CNT_BUBBLE : Reg := ⟨.ARR, 0x4C, 1, 4, [⟨0, 32, .roL, 0x0⟩]⟩
/-- ARR_CNT_NEXTLOST (R368). -/
def ARR_CNT_NEXTLOST : Reg := ⟨.ARR, 0x50, 1, 4, [⟨0, 32, .roL, 0x0⟩]⟩
/-- ARR_CNT_DENSE (R368). -/
def ARR_CNT_DENSE : Reg := ⟨.ARR, 0x54, 1, 4, [⟨0, 32, .roL, 0x0⟩]⟩
/-- ARR_CNT_MISMATCH (R368). -/
def ARR_CNT_MISMATCH : Reg := ⟨.ARR, 0x58, 1, 4, [⟨0, 32, .roL, 0x0⟩]⟩
/-- ARR_CNT_RETRY (R368). -/
def ARR_CNT_RETRY : Reg := ⟨.ARR, 0x5C, 1, 4, [⟨0, 32, .roL, 0x0⟩]⟩
/-- ARR_CNT_DIAG (R368). -/
def ARR_CNT_DIAG : Reg := ⟨.ARR, 0x60, 1, 4, [⟨0, 32, .roL, 0x0⟩]⟩
/-- ARR_CNT_CLR (R368). -/
def ARR_CNT_CLR : Reg := ⟨.ARR, 0x64, 1, 4, [⟨0, 1, .woL, 0x0⟩]⟩
/-- DEV_JOB_SEED_LO (R392). -/
def DEV_JOB_SEED_LO : Reg := ⟨.DEV, 0x10000, 256, 16, [⟨0, 32, .rwL, 0x0⟩]⟩
/-- DEV_JOB_SEED_HI (R392). -/
def DEV_JOB_SEED_HI : Reg := ⟨.DEV, 0x10004, 256, 16, [⟨0, 32, .rwL, 0x0⟩]⟩
/-- DEV_JOB_STEP_LO (R392). -/
def DEV_JOB_STEP_LO : Reg := ⟨.DEV, 0x10008, 256, 16, [⟨0, 32, .rwL, 0x0⟩]⟩
/-- DEV_JOB_STEP_HI (R392). -/
def DEV_JOB_STEP_HI : Reg := ⟨.DEV, 0x1000C, 256, 16, [⟨0, 32, .rwL, 0x0⟩]⟩
/-- DEV_JOB_ADVANCE (R392). -/
def DEV_JOB_ADVANCE : Reg := ⟨.DEV, 0x11000, 1, 4, [⟨0, 8, .woL, 0x0⟩]⟩
/-- STK_STATUS (R462). -/
def STK_STATUS : Reg := ⟨.STK, 0x0, 1, 4, [⟨0, 3, .roL, 0x0⟩, ⟨3, 2, .roS, 0x0⟩, ⟨8, 8, .roL, 0x0⟩, ⟨16, 1, .roL, 0x0⟩]⟩
/-- STK_CFG (R462). -/
def STK_CFG : Reg := ⟨.STK, 0x4, 1, 4, [⟨0, 1, .rwL, 0x0⟩, ⟨4, 4, .rwC, 0xC⟩, ⟨8, 8, .rwC, 0x60⟩, ⟨16, 8, .rwC, 0x30⟩]⟩
/-- STK_CTAG (R462). -/
def STK_CTAG : Reg := ⟨.STK, 0x8, 1, 4, [⟨0, 8, .rwL, 0x0⟩]⟩
/-- STK_COMMIT (R462). -/
def STK_COMMIT : Reg := ⟨.STK, 0xC, 1, 4, [⟨0, 8, .woL, 0x0⟩, ⟨8, 1, .roL, 0x0⟩]⟩
/-- STK_RECENTRE (R462). -/
def STK_RECENTRE : Reg := ⟨.STK, 0x10, 1, 4, [⟨0, 16, .rwL, 0x64⟩, ⟨16, 8, .rwL, 0xF⟩, ⟨24, 6, .rwL, 0x8⟩]⟩
/-- STK_TRAIN (R462). -/
def STK_TRAIN : Reg := ⟨.STK, 0x14, 1, 4, [⟨0, 8, .roL, 0x0⟩, ⟨8, 1, .w1sL, 0x0⟩, ⟨9, 1, .roL, 0x0⟩]⟩
/-- STK_FENCE (R462). -/
def STK_FENCE : Reg := ⟨.STK, 0x18, 1, 4, [⟨0, 32, .w1sL, 0x0⟩]⟩
/-- STK_SCRUB (R462). -/
def STK_SCRUB : Reg := ⟨.STK, 0x1C, 1, 4, [⟨0, 16, .rwL, 0x3E8⟩, ⟨16, 8, .rwL, 0x4⟩]⟩
/-- STK_CACHEOP (R462). -/
def STK_CACHEOP : Reg := ⟨.STK, 0x20, 1, 4, [⟨0, 3, .woL, 0x0⟩, ⟨8, 1, .roL, 0x0⟩]⟩
/-- STK_CACHEOP_BASE (R462). -/
def STK_CACHEOP_BASE : Reg := ⟨.STK, 0x24, 1, 4, [⟨0, 24, .rwL, 0x0⟩]⟩
/-- STK_CACHEOP_LIMIT (R462). -/
def STK_CACHEOP_LIMIT : Reg := ⟨.STK, 0x28, 1, 4, [⟨0, 24, .rwL, 0x0⟩]⟩
/-- STK_UELOG_LO (R462). -/
def STK_UELOG_LO : Reg := ⟨.STK, 0x30, 1, 4, [⟨0, 32, .roL, 0x0⟩]⟩
/-- STK_UELOG_HI (R462). -/
def STK_UELOG_HI : Reg := ⟨.STK, 0x34, 1, 4, [⟨0, 16, .roL, 0x0⟩, ⟨31, 1, .roL, 0x0⟩]⟩
/-- STK_CNT_CE (R462). -/
def STK_CNT_CE : Reg := ⟨.STK, 0x40, 1, 4, [⟨0, 32, .roL, 0x0⟩]⟩
/-- STK_CNT_UE (R462). -/
def STK_CNT_UE : Reg := ⟨.STK, 0x44, 1, 4, [⟨0, 32, .roL, 0x0⟩]⟩
/-- STK_CNT_ODECC (R462). -/
def STK_CNT_ODECC : Reg := ⟨.STK, 0x48, 1, 4, [⟨0, 32, .roL, 0x0⟩]⟩
/-- STK_CNT_HIT (R462). -/
def STK_CNT_HIT : Reg := ⟨.STK, 0x4C, 1, 4, [⟨0, 32, .roL, 0x0⟩]⟩
/-- STK_CNT_MISS (R462). -/
def STK_CNT_MISS : Reg := ⟨.STK, 0x50, 1, 4, [⟨0, 32, .roL, 0x0⟩]⟩
/-- STK_CNT_WB (R462). -/
def STK_CNT_WB : Reg := ⟨.STK, 0x54, 1, 4, [⟨0, 32, .roL, 0x0⟩]⟩
/-- STK_CNT_PROTEVICT (R462). -/
def STK_CNT_PROTEVICT : Reg := ⟨.STK, 0x58, 1, 4, [⟨0, 32, .roL, 0x0⟩]⟩
/-- STK_CNT_LASTDROP (R462). -/
def STK_CNT_LASTDROP : Reg := ⟨.STK, 0x5C, 1, 4, [⟨0, 32, .roL, 0x0⟩]⟩
/-- STK_CNT_FENCELOST (R462). -/
def STK_CNT_FENCELOST : Reg := ⟨.STK, 0x60, 1, 4, [⟨0, 32, .roL, 0x0⟩]⟩
/-- STK_CNT_FENCEERR (R462). -/
def STK_CNT_FENCEERR : Reg := ⟨.STK, 0x64, 1, 4, [⟨0, 32, .roL, 0x0⟩]⟩
/-- STK_CNT_DRIFT (R462). -/
def STK_CNT_DRIFT : Reg := ⟨.STK, 0x68, 1, 4, [⟨0, 32, .roL, 0x0⟩]⟩
/-- STK_CNT_RETRAIN (R462). -/
def STK_CNT_RETRAIN : Reg := ⟨.STK, 0x6C, 1, 4, [⟨0, 32, .roL, 0x0⟩]⟩
/-- STK_CNT_CLR (R462). -/
def STK_CNT_CLR : Reg := ⟨.STK, 0x70, 1, 4, [⟨0, 1, .woL, 0x0⟩]⟩
/-- STK_PCH (R462). -/
def STK_PCH : Reg := ⟨.STK, 0x100, 32, 4, [⟨0, 8, .roL, 0x0⟩, ⟨8, 1, .roL, 0x0⟩, ⟨9, 1, .roL, 0x0⟩, ⟨12, 4, .roL, 0x0⟩]⟩
/-- HIF_DB_SQ (R488). -/
def HIF_DB_SQ : Reg := ⟨.HIF, 0x0, 64, 8, [⟨0, 16, .woL, 0x0⟩]⟩
/-- HIF_DB_CQ (R488). -/
def HIF_DB_CQ : Reg := ⟨.HIF, 0x4, 64, 8, [⟨0, 16, .woL, 0x0⟩]⟩
/-- HIF_DB_EVQ (R488). -/
def HIF_DB_EVQ : Reg := ⟨.HIF, 0x200, 1, 4, [⟨0, 16, .woL, 0x0⟩]⟩
/-- HIF_STATUS (R488). -/
def HIF_STATUS : Reg := ⟨.HIF, 0x1000, 1, 4, [⟨0, 1, .roL, 0x0⟩, ⟨1, 1, .roL, 0x0⟩, ⟨2, 3, .roL, 0x0⟩, ⟨5, 4, .roL, 0x0⟩]⟩
/-- HIF_WIN_LO (R488). -/
def HIF_WIN_LO : Reg := ⟨.HIF, 0x1008, 1, 4, [⟨12, 20, .roL, 0x0⟩]⟩
/-- HIF_WIN_HI (R488). -/
def HIF_WIN_HI : Reg := ⟨.HIF, 0x100C, 1, 4, [⟨0, 16, .roL, 0x0⟩]⟩
/-- HIF_EVQ_BASE_LO (R488). -/
def HIF_EVQ_BASE_LO : Reg := ⟨.HIF, 0x1010, 1, 4, [⟨12, 20, .rwS, 0x0⟩]⟩
/-- HIF_EVQ_BASE_HI (R488). -/
def HIF_EVQ_BASE_HI : Reg := ⟨.HIF, 0x1014, 1, 4, [⟨0, 32, .rwS, 0x0⟩]⟩
/-- HIF_EVQ_CFG (R488). -/
def HIF_EVQ_CFG : Reg := ⟨.HIF, 0x1018, 1, 4, [⟨0, 5, .rwS, 0x4⟩, ⟨8, 8, .rwS, 0x0⟩, ⟨31, 1, .rwL, 0x0⟩]⟩
/-- HIF_EVQ_STATUS (R488). -/
def HIF_EVQ_STATUS : Reg := ⟨.HIF, 0x101C, 1, 4, [⟨0, 16, .roL, 0x0⟩, ⟨16, 9, .roL, 0x0⟩]⟩
/-- HIF_EVQ_MOD (R488). -/
def HIF_EVQ_MOD : Reg := ⟨.HIF, 0x1020, 1, 4, [⟨0, 8, .rwL, 0x1⟩, ⟨8, 16, .rwL, 0x0⟩]⟩
/-- HIF_CNT_BADDB (R488). -/
def HIF_CNT_BADDB : Reg := ⟨.HIF, 0x1030, 1, 4, [⟨0, 32, .roL, 0x0⟩]⟩
/-- HIF_CNT_EVDROP (R488). -/
def HIF_CNT_EVDROP : Reg := ⟨.HIF, 0x1034, 1, 4, [⟨0, 32, .roL, 0x0⟩]⟩
/-- HIF_CNT_HOSTERR (R488). -/
def HIF_CNT_HOSTERR : Reg := ⟨.HIF, 0x1038, 1, 4, [⟨0, 32, .roL, 0x0⟩]⟩
/-- HIF_CNT_CLR (R488). -/
def HIF_CNT_CLR : Reg := ⟨.HIF, 0x103C, 1, 4, [⟨0, 1, .woL, 0x0⟩]⟩
/-- HIF_SQBASE_LO (R488). -/
def HIF_SQBASE_LO : Reg := ⟨.HIF, 0x2000, 64, 64, [⟨12, 20, .rwS, 0x0⟩]⟩
/-- HIF_SQBASE_HI (R488). -/
def HIF_SQBASE_HI : Reg := ⟨.HIF, 0x2004, 64, 64, [⟨0, 32, .rwS, 0x0⟩]⟩
/-- HIF_CQBASE_LO (R488). -/
def HIF_CQBASE_LO : Reg := ⟨.HIF, 0x2008, 64, 64, [⟨12, 20, .rwS, 0x0⟩]⟩
/-- HIF_CQBASE_HI (R488). -/
def HIF_CQBASE_HI : Reg := ⟨.HIF, 0x200C, 64, 64, [⟨0, 32, .rwS, 0x0⟩]⟩
/-- HIF_RCFG (R488). -/
def HIF_RCFG : Reg := ⟨.HIF, 0x2010, 64, 64, [⟨0, 5, .rwS, 0x4⟩, ⟨5, 5, .rwS, 0x4⟩, ⟨10, 8, .rwS, 0x0⟩, ⟨31, 1, .rwL, 0x0⟩]⟩
/-- HIF_RMOD (R488). -/
def HIF_RMOD : Reg := ⟨.HIF, 0x2014, 64, 64, [⟨0, 8, .rwL, 0x1⟩, ⟨8, 16, .rwL, 0x0⟩]⟩
/-- HIF_RSTATUS (R488). -/
def HIF_RSTATUS : Reg := ⟨.HIF, 0x2018, 64, 64, [⟨0, 16, .roL, 0x0⟩, ⟨16, 1, .roL, 0x1⟩, ⟨17, 1, .roL, 0x0⟩, ⟨18, 1, .roL, 0x0⟩, ⟨19, 9, .roL, 0x0⟩]⟩
/-- HIF_RCQ (R488). -/
def HIF_RCQ : Reg := ⟨.HIF, 0x201C, 64, 64, [⟨0, 16, .roL, 0x0⟩, ⟨16, 1, .roL, 0x1⟩]⟩
/-- ERR_CFG (R506). -/
def ERR_CFG : Reg := ⟨.ERR, 0x0, 1, 4, [⟨0, 1, .w1cL, 0x0⟩, ⟨1, 1, .roL, 0x0⟩]⟩
/-- ERR_REJ (R506). -/
def ERR_REJ : Reg := ⟨.ERR, 0x4, 1, 4, [⟨0, 26, .roL, 0x0⟩]⟩
/-- ERR_REJMID (R506). -/
def ERR_REJMID : Reg := ⟨.ERR, 0x8, 1, 4, [⟨0, 12, .roL, 0x0⟩]⟩
/-- ERR_LDRIFT (R506). -/
def ERR_LDRIFT : Reg := ⟨.ERR, 0x10, 1, 4, [⟨0, 6, .rwL, 0x8⟩, ⟨8, 8, .rwL, 0xA⟩]⟩
/-- ERR_UFAIL (R506). -/
def ERR_UFAIL : Reg := ⟨.ERR, 0x14, 1, 4, [⟨0, 7, .woL, 0x0⟩, ⟨31, 1, .woL, 0x0⟩]⟩
/-- ERR_CNT_SWITCHIN (R506). -/
def ERR_CNT_SWITCHIN : Reg := ⟨.ERR, 0x20, 1, 4, [⟨0, 32, .roL, 0x0⟩]⟩
/-- ERR_CNT_MISSING (R506). -/
def ERR_CNT_MISSING : Reg := ⟨.ERR, 0x24, 1, 4, [⟨0, 32, .roL, 0x0⟩]⟩
/-- ERR_CNT_E2EEGR (R506). -/
def ERR_CNT_E2EEGR : Reg := ⟨.ERR, 0x28, 1, 4, [⟨0, 32, .roL, 0x0⟩]⟩
/-- ERR_CNT_LDRIFT (R506). -/
def ERR_CNT_LDRIFT : Reg := ⟨.ERR, 0x2C, 1, 4, [⟨0, 32, .roL, 0x0⟩]⟩
/-- ERR_CNT_FWDREPAIR (R506). -/
def ERR_CNT_FWDREPAIR : Reg := ⟨.ERR, 0x30, 1, 4, [⟨0, 32, .roL, 0x0⟩]⟩
/-- ERR_CNT_CLR (R506). -/
def ERR_CNT_CLR : Reg := ⟨.ERR, 0x3C, 1, 4, [⟨0, 1, .woL, 0x0⟩]⟩
/-- ERR_LASTUNIT (R506). -/
def ERR_LASTUNIT : Reg := ⟨.ERR, 0x40, 1, 4, [⟨0, 7, .roL, 0x0⟩, ⟨8, 3, .roL, 0x0⟩, ⟨12, 3, .roL, 0x0⟩, ⟨16, 3, .roL, 0x0⟩, ⟨20, 4, .roL, 0x0⟩]⟩
/-- ERR_UELOG0 (R506). -/
def ERR_UELOG0 : Reg := ⟨.ERR, 0x50, 1, 4, [⟨0, 4, .roL, 0x0⟩, ⟨8, 16, .roL, 0x0⟩, ⟨31, 1, .roL, 0x0⟩]⟩
/-- ERR_UELOG1 (R506). -/
def ERR_UELOG1 : Reg := ⟨.ERR, 0x54, 1, 4, [⟨0, 32, .roL, 0x0⟩]⟩
/-- ERR_UELOG2 (R506). -/
def ERR_UELOG2 : Reg := ⟨.ERR, 0x58, 1, 4, [⟨0, 16, .roL, 0x0⟩]⟩
/-- ERR_SLOTFAIL (R506). -/
def ERR_SLOTFAIL : Reg := ⟨.ERR, 0x60, 4, 4, [⟨0, 32, .roL, 0x0⟩]⟩
/-- ERR_CE (R506). -/
def ERR_CE : Reg := ⟨.ERR, 0x100, 12, 4, [⟨0, 32, .roL, 0x0⟩]⟩
/-- ERR_UE (R506). -/
def ERR_UE : Reg := ⟨.ERR, 0x140, 12, 4, [⟨0, 32, .roL, 0x0⟩]⟩
/-- SEC_STATUS (R523). -/
def SEC_STATUS : Reg := ⟨.SEC, 0x0, 1, 4, [⟨0, 1, .roL, 0x0⟩, ⟨1, 1, .roL, 0x0⟩, ⟨2, 4, .roL, 0x0⟩, ⟨6, 1, .roL, 0x0⟩, ⟨7, 1, .roL, 0x0⟩, ⟨8, 1, .roS, 0x0⟩, ⟨16, 4, .roL, 0x0⟩]⟩
/-- SEC_SVN (R523). -/
def SEC_SVN : Reg := ⟨.SEC, 0x4, 1, 4, [⟨0, 8, .roL, 0x0⟩, ⟨8, 8, .roL, 0x0⟩, ⟨16, 8, .roL, 0x0⟩]⟩
/-- SEC_ARB (R523). -/
def SEC_ARB : Reg := ⟨.SEC, 0x8, 1, 4, [⟨0, 8, .woL, 0x0⟩, ⟨8, 1, .roL, 0x0⟩]⟩
/-- SEC_UID (R523). -/
def SEC_UID : Reg := ⟨.SEC, 0x10, 2, 4, [⟨0, 32, .roS, 0x0⟩]⟩
/-- SEC_VKHASH (R523). -/
def SEC_VKHASH : Reg := ⟨.SEC, 0x20, 8, 4, [⟨0, 32, .roS, 0x0⟩]⟩
/-- SEC_DKHASH (R523). -/
def SEC_DKHASH : Reg := ⟨.SEC, 0x40, 8, 4, [⟨0, 32, .roS, 0x0⟩]⟩
/-- SEC_UPD_ADDR_LO (R523). -/
def SEC_UPD_ADDR_LO : Reg := ⟨.SEC, 0x80, 1, 4, [⟨0, 32, .rwL, 0x0⟩]⟩
/-- SEC_UPD_ADDR_HI (R523). -/
def SEC_UPD_ADDR_HI : Reg := ⟨.SEC, 0x84, 1, 4, [⟨0, 16, .rwL, 0x0⟩]⟩
/-- SEC_UPD_LEN (R523). -/
def SEC_UPD_LEN : Reg := ⟨.SEC, 0x88, 1, 4, [⟨0, 23, .rwL, 0x0⟩]⟩
/-- SEC_UPD_CTL (R523). -/
def SEC_UPD_CTL : Reg := ⟨.SEC, 0x8C, 1, 4, [⟨0, 1, .w1sL, 0x0⟩]⟩
/-- SEC_UPD_STATUS (R523). -/
def SEC_UPD_STATUS : Reg := ⟨.SEC, 0x90, 1, 4, [⟨0, 1, .roL, 0x0⟩, ⟨1, 4, .roL, 0x0⟩]⟩
/-- SEC_PUSH_CTL (R523). -/
def SEC_PUSH_CTL : Reg := ⟨.SEC, 0xA0, 1, 4, [⟨0, 23, .rwL, 0x0⟩, ⟨29, 1, .rwL, 0x0⟩, ⟨30, 1, .rwL, 0x0⟩, ⟨31, 1, .w1sL, 0x0⟩]⟩
/-- SEC_PUSH_STATUS (R523). -/
def SEC_PUSH_STATUS : Reg := ⟨.SEC, 0xA4, 1, 4, [⟨0, 1, .roL, 0x0⟩, ⟨1, 4, .roL, 0x0⟩]⟩
/-- SEC_DBG_NONCE (R523). -/
def SEC_DBG_NONCE : Reg := ⟨.SEC, 0x100, 8, 4, [⟨0, 32, .roL, 0x0⟩]⟩
/-- SEC_DBG_CTL (R523). -/
def SEC_DBG_CTL : Reg := ⟨.SEC, 0x120, 1, 4, [⟨0, 1, .w1sL, 0x0⟩, ⟨1, 3, .roL, 0x0⟩]⟩
/-- SEC_DBG_TOKEN (R523). -/
def SEC_DBG_TOKEN : Reg := ⟨.SEC, 0x200, 44, 4, [⟨0, 32, .woL, 0x0⟩]⟩
/-- PWR_DOM (R541). -/
def PWR_DOM : Reg := ⟨.PWR, 0x0, 262, 4, [⟨0, 2, .roL, 0x0⟩, ⟨2, 1, .roL, 0x0⟩]⟩
/-- PWR_TS (R541). -/
def PWR_TS : Reg := ⟨.PWR, 0x800, 200, 4, [⟨0, 11, .roL, 0x0⟩, ⟨12, 3, .roL, 0x0⟩]⟩
/-- PWR_TLIM (R541). -/
def PWR_TLIM : Reg := ⟨.PWR, 0xC00, 1, 4, [⟨0, 8, .rwL, 0x5F⟩, ⟨8, 8, .rwL, 0x64⟩, ⟨16, 8, .rwL, 0x69⟩, ⟨24, 8, .rwL, 0x6E⟩]⟩
/-- PWR_TLIMS (R541). -/
def PWR_TLIMS : Reg := ⟨.PWR, 0xC04, 1, 4, [⟨0, 8, .rwL, 0x5A⟩, ⟨8, 8, .rwL, 0x5F⟩, ⟨16, 8, .rwL, 0x64⟩]⟩
/-- PWR_THYST (R541). -/
def PWR_THYST : Reg := ⟨.PWR, 0xC08, 1, 4, [⟨0, 4, .rwL, 0x5⟩, ⟨4, 8, .rwL, 0x1⟩, ⟨12, 8, .rwL, 0xA⟩]⟩
/-- PWR_THOT (R541). -/
def PWR_THOT : Reg := ⟨.PWR, 0xC10, 1, 4, [⟨0, 11, .roL, 0x0⟩, ⟨16, 8, .roL, 0x0⟩]⟩
/-- PWR_CNT_THROTTLE (R541). -/
def PWR_CNT_THROTTLE : Reg := ⟨.PWR, 0xC20, 1, 4, [⟨0, 32, .roL, 0x0⟩]⟩
/-- PWR_CNT_CRIT (R541). -/
def PWR_CNT_CRIT : Reg := ⟨.PWR, 0xC24, 1, 4, [⟨0, 32, .roL, 0x0⟩]⟩
/-- PWR_CNT_CLR (R541). -/
def PWR_CNT_CLR : Reg := ⟨.PWR, 0xC28, 1, 4, [⟨0, 1, .woL, 0x0⟩]⟩
/-- CLK_STG_TARGET (R542). -/
def CLK_STG_TARGET : Reg := ⟨.CLK, 0x0, 20, 4, [⟨0, 12, .rwL, 0x708⟩]⟩
/-- CLK_STG_STATUS (R542). -/
def CLK_STG_STATUS : Reg := ⟨.CLK, 0x80, 20, 4, [⟨0, 12, .roL, 0x0⟩, ⟨16, 12, .roL, 0x0⟩, ⟨28, 1, .roL, 0x0⟩]⟩
/-- CLK_STG_MV (R542). -/
def CLK_STG_MV : Reg := ⟨.CLK, 0x100, 20, 4, [⟨0, 10, .roL, 0x0⟩]⟩
/-- CLK_SSC (R542). -/
def CLK_SSC : Reg := ⟨.CLK, 0x200, 1, 4, [⟨0, 2, .rwC, 0x1⟩, ⟨2, 2, .rwC, 0x1⟩, ⟨4, 2, .rwC, 0x1⟩, ⟨6, 2, .rwC, 0x1⟩]⟩
/-- CLK_CTAG (R542). -/
def CLK_CTAG : Reg := ⟨.CLK, 0x204, 1, 4, [⟨0, 8, .rwL, 0x0⟩]⟩
/-- CLK_COMMIT (R542). -/
def CLK_COMMIT : Reg := ⟨.CLK, 0x208, 1, 4, [⟨0, 8, .woL, 0x0⟩, ⟨8, 1, .roL, 0x0⟩]⟩
/-- CLK_VDDSTG (R542). -/
def CLK_VDDSTG : Reg := ⟨.CLK, 0x210, 1, 4, [⟨0, 10, .roL, 0x0⟩]⟩
/-- CLK_VSETTLE (R542). -/
def CLK_VSETTLE : Reg := ⟨.CLK, 0x214, 1, 4, [⟨0, 8, .rwL, 0x32⟩]⟩
/-- CLK_LOCK (R542). -/
def CLK_LOCK : Reg := ⟨.CLK, 0x220, 2, 4, [⟨0, 32, .roL, 0x0⟩]⟩
/-- CLK_CNT_UNLOCK (R542). -/
def CLK_CNT_UNLOCK : Reg := ⟨.CLK, 0x230, 1, 4, [⟨0, 32, .roL, 0x0⟩]⟩
/-- CAL_BOOT (R557). -/
def CAL_BOOT : Reg := ⟨.CAL, 0x0, 1, 4, [⟨0, 3, .roL, 0x0⟩]⟩
/-- CAL_BOOT_TIME (R557). -/
def CAL_BOOT_TIME : Reg := ⟨.CAL, 0x4, 1, 4, [⟨0, 32, .roL, 0x0⟩]⟩
/-- CAL_STATUS (R557). -/
def CAL_STATUS : Reg := ⟨.CAL, 0x8, 1, 4, [⟨0, 1, .roL, 0x0⟩, ⟨1, 1, .roL, 0x0⟩, ⟨2, 4, .roL, 0x0⟩, ⟨8, 16, .roL, 0x0⟩, ⟨24, 1, .roL, 0x0⟩]⟩
/-- CAL_CRC (R557). -/
def CAL_CRC : Reg := ⟨.CAL, 0xC, 1, 4, [⟨0, 32, .roL, 0x0⟩]⟩
/-- CAL_CNT_WRITE (R557). -/
def CAL_CNT_WRITE : Reg := ⟨.CAL, 0x10, 1, 4, [⟨0, 32, .roL, 0x0⟩]⟩
/-- CUE_ENT_TIME_LO (R206). -/
def CUE_ENT_TIME_LO : Reg := ⟨.CUE, 0x1000, 256, 16, [⟨0, 32, .rwC, 0x0⟩]⟩
/-- CUE_ENT_TIME_HI (R206). -/
def CUE_ENT_TIME_HI : Reg := ⟨.CUE, 0x1004, 256, 16, [⟨0, 32, .rwC, 0x0⟩]⟩
/-- CUE_ENT_ACT (R206). -/
def CUE_ENT_ACT : Reg := ⟨.CUE, 0x1008, 256, 16, [⟨0, 32, .rwC, 0x0⟩]⟩
/-- CUE_ENT_ARG (R206). -/
def CUE_ENT_ARG : Reg := ⟨.CUE, 0x100C, 256, 16, [⟨0, 32, .rwC, 0x0⟩]⟩
/-- ACC_FMC_LO (R54). -/
def ACC_FMC_LO : Reg := ⟨.ACCG, 0x40000, 64, 8, [⟨0, 20, .rwC, 0x0⟩]⟩
/-- ACC_FMC_HI (R54). -/
def ACC_FMC_HI : Reg := ⟨.ACCG, 0x40004, 64, 8, [⟨0, 20, .rwC, 0x0⟩, ⟨31, 1, .rwC, 0x0⟩]⟩
/-- ACC_FMC_CTAG (R54). -/
def ACC_FMC_CTAG : Reg := ⟨.ACCG, 0x40200, 1, 4, [⟨0, 8, .rwL, 0x0⟩]⟩
/-- ACC_FMC_COMMIT (R54). -/
def ACC_FMC_COMMIT : Reg := ⟨.ACCG, 0x40204, 1, 4, [⟨0, 8, .woL, 0x0⟩, ⟨8, 1, .roL, 0x0⟩]⟩
/-- CLK_CNT_UNLOCK_CLR (R542). -/
def CLK_CNT_UNLOCK_CLR : Reg := ⟨.CLK, 0x234, 1, 4, [⟨0, 1, .woL, 0x0⟩]⟩

end R

namespace F

def DEV_IDENT_PART : Fld := ⟨R.DEV_IDENT, 0, 16⟩
def DEV_IDENT_FAMILY : Fld := ⟨R.DEV_IDENT, 16, 8⟩
def DEV_IDENT_MEMOPT : Fld := ⟨R.DEV_IDENT, 24, 4⟩
def DEV_REVISION_BASE : Fld := ⟨R.DEV_REVISION, 0, 8⟩
def DEV_REVISION_METAL : Fld := ⟨R.DEV_REVISION, 8, 8⟩
def DEV_SCALE_VERSION_VERSION : Fld := ⟨R.DEV_SCALE_VERSION, 0, 16⟩
def DEV_SCALE_GEN_GEN : Fld := ⟨R.DEV_SCALE_GEN, 0, 32⟩
def DEV_SCALE_CLUSTERS_LOGICAL : Fld := ⟨R.DEV_SCALE_CLUSTERS, 0, 8⟩
def DEV_SCALE_SPARES_SPARES : Fld := ⟨R.DEV_SCALE_SPARES, 0, 8⟩
def DEV_SCALE_PRESENT_PRESENT : Fld := ⟨R.DEV_SCALE_PRESENT, 0, 32⟩
def DEV_SCALE_ADEPTH_DEPTH : Fld := ⟨R.DEV_SCALE_ADEPTH, 0, 16⟩
def DEV_SCALE_VLANES_VLANES : Fld := ⟨R.DEV_SCALE_VLANES, 0, 16⟩
def DEV_SCALE_SCRATCH_KIB : Fld := ⟨R.DEV_SCALE_SCRATCH, 0, 16⟩
def DEV_SCALE_FLAGS_FLAGS : Fld := ⟨R.DEV_SCALE_FLAGS, 0, 16⟩
def DEV_SCALE_MOPS_SLOTS : Fld := ⟨R.DEV_SCALE_MOPS, 0, 16⟩
def DEV_SCALE_STACKS_STACKS : Fld := ⟨R.DEV_SCALE_STACKS, 0, 8⟩
def DEV_SCALE_STACKMIB_MIB : Fld := ⟨R.DEV_SCALE_STACKMIB, 0, 32⟩
def DEV_SCALE_STACKOK_OK : Fld := ⟨R.DEV_SCALE_STACKOK, 0, 20⟩
def DEV_SCALE_LANES_LANES : Fld := ⟨R.DEV_SCALE_LANES, 0, 16⟩
def DEV_SCALE_PORTS_PORTS : Fld := ⟨R.DEV_SCALE_PORTS, 0, 16⟩
def DEV_SCALE_CONTEXTS_CONTEXTS : Fld := ⟨R.DEV_SCALE_CONTEXTS, 0, 16⟩
def DEV_SCALE_MEMBERS_MEMBERS : Fld := ⟨R.DEV_SCALE_MEMBERS, 0, 16⟩
def DEV_SCALE_FMAX_MHZ : Fld := ⟨R.DEV_SCALE_FMAX, 0, 16⟩
def DEV_SCALE_POOLS_POOLS : Fld := ⟨R.DEV_SCALE_POOLS, 0, 5⟩
def DEV_SCALE_POOLCH_CHUNKS : Fld := ⟨R.DEV_SCALE_POOLCH, 0, 32⟩
def DEV_SCALE_AWIDTH_WIDTH : Fld := ⟨R.DEV_SCALE_AWIDTH, 0, 32⟩
def ACC_ENT_MID_MID_LO : Fld := ⟨R.ACC_ENT_MID, 0, 12⟩
def ACC_ENT_MID_MID_HI : Fld := ⟨R.ACC_ENT_MID, 12, 12⟩
def ACC_ENT_BASE_BASE : Fld := ⟨R.ACC_ENT_BASE, 0, 32⟩
def ACC_ENT_LIMIT_LIMIT : Fld := ⟨R.ACC_ENT_LIMIT, 0, 32⟩
def ACC_ENT_CTL_BASE_HI : Fld := ⟨R.ACC_ENT_CTL, 0, 4⟩
def ACC_ENT_CTL_LIMIT_HI : Fld := ⟨R.ACC_ENT_CTL, 4, 4⟩
def ACC_ENT_CTL_RD : Fld := ⟨R.ACC_ENT_CTL, 8, 1⟩
def ACC_ENT_CTL_WR : Fld := ⟨R.ACC_ENT_CTL, 9, 1⟩
def ACC_ENT_CTL_PL : Fld := ⟨R.ACC_ENT_CTL, 10, 1⟩
def ACC_ENT_CTL_VALID : Fld := ⟨R.ACC_ENT_CTL, 31, 1⟩
def ACC_TBL_CTAG_TAG : Fld := ⟨R.ACC_TBL_CTAG, 0, 8⟩
def ACC_TBL_COMMIT_TAG : Fld := ⟨R.ACC_TBL_COMMIT, 0, 8⟩
def ACC_TBL_COMMIT_PENDING : Fld := ⟨R.ACC_TBL_COMMIT, 8, 1⟩
def ACC_TBL_STATUS_DRAINED : Fld := ⟨R.ACC_TBL_STATUS, 0, 1⟩
def ACC_TBL_STATUS_CLR : Fld := ⟨R.ACC_TBL_STATUS, 1, 1⟩
def ACC_TBL_STATUS_FIRSTEV : Fld := ⟨R.ACC_TBL_STATUS, 2, 1⟩
def ACC_TBL_DENYCNT_COUNT : Fld := ⟨R.ACC_TBL_DENYCNT, 0, 32⟩
def ACC_TBL_DENYMID_MID : Fld := ⟨R.ACC_TBL_DENYMID, 0, 12⟩
def ACC_TBL_DENYMID_CAUSE : Fld := ⟨R.ACC_TBL_DENYMID, 12, 4⟩
def ACC_TBL_DENYMID_WRITE : Fld := ⟨R.ACC_TBL_DENYMID, 16, 1⟩
def ACC_TBL_DENYLO_ADDR : Fld := ⟨R.ACC_TBL_DENYLO, 0, 32⟩
def ACC_TBL_DENYHI_ADDR : Fld := ⟨R.ACC_TBL_DENYHI, 0, 16⟩
def PORT_CTL_EN : Fld := ⟨R.PORT_CTL, 0, 1⟩
def PORT_CTL_RETRAIN : Fld := ⟨R.PORT_CTL, 1, 1⟩
def PORT_CTL_REWIDEN : Fld := ⟨R.PORT_CTL, 2, 1⟩
def PORT_CTL_DSHIFT : Fld := ⟨R.PORT_CTL, 3, 1⟩
def PORT_STATUS_STATE : Fld := ⟨R.PORT_STATUS, 0, 4⟩
def PORT_STATUS_WIDTH : Fld := ⟨R.PORT_STATUS, 4, 4⟩
def PORT_STATUS_LMASK : Fld := ⟨R.PORT_STATUS, 8, 8⟩
def PORT_STATUS_CAUSE : Fld := ⟨R.PORT_STATUS, 16, 4⟩
def PORT_RETRY_ACKTMO : Fld := ⟨R.PORT_RETRY, 0, 16⟩
def PORT_RETRY_MAX : Fld := ⟨R.PORT_RETRY, 16, 4⟩
def PORT_CRED_UNITS : Fld := ⟨R.PORT_CRED, 0, 16⟩
def PORT_CRED8_UNITS : Fld := ⟨R.PORT_CRED8, 0, 16⟩
def PORT_TXCRED_AVAIL : Fld := ⟨R.PORT_TXCRED, 0, 16⟩
def PORT_TXCRED_PEER : Fld := ⟨R.PORT_TXCRED, 16, 16⟩
def PORT_CNT_FECCORR_COUNT : Fld := ⟨R.PORT_CNT_FECCORR, 0, 32⟩
def PORT_CNT_FECUNC_COUNT : Fld := ⟨R.PORT_CNT_FECUNC, 0, 32⟩
def PORT_CNT_REPLAY_COUNT : Fld := ⟨R.PORT_CNT_REPLAY, 0, 32⟩
def PORT_CNT_NAK_COUNT : Fld := ⟨R.PORT_CNT_NAK, 0, 32⟩
def PORT_CNT_RETRAIN_COUNT : Fld := ⟨R.PORT_CNT_RETRAIN, 0, 32⟩
def PORT_CNT_ABORTTX_COUNT : Fld := ⟨R.PORT_CNT_ABORTTX, 0, 32⟩
def PORT_CNT_ABORTRX_COUNT : Fld := ⟨R.PORT_CNT_ABORTRX, 0, 32⟩
def PORT_CNT_PROTERR_COUNT : Fld := ⟨R.PORT_CNT_PROTERR, 0, 32⟩
def PORT_CNT_CLOSEDDROP_COUNT : Fld := ⟨R.PORT_CNT_CLOSEDDROP, 0, 32⟩
def PORT_CNT_DOWNSHIFT_COUNT : Fld := ⟨R.PORT_CNT_DOWNSHIFT, 0, 32⟩
def PORT_CNT_REPLAYLOST_COUNT : Fld := ⟨R.PORT_CNT_REPLAYLOST, 0, 32⟩
def PORT_CNT_CLR_CLR : Fld := ⟨R.PORT_CNT_CLR, 0, 1⟩
def LINK_CFG_FORM : Fld := ⟨R.LINK_CFG, 0, 1⟩
def LINK_CFG_RXPOL : Fld := ⟨R.LINK_CFG, 1, 1⟩
def LINK_CFG_TXPOL : Fld := ⟨R.LINK_CFG, 2, 1⟩
def LINK_CFG_LOOP : Fld := ⟨R.LINK_CFG, 3, 2⟩
def LINK_CFG_PRBS : Fld := ⟨R.LINK_CFG, 5, 2⟩
def LINK_STATUS_SIGDET : Fld := ⟨R.LINK_STATUS, 0, 1⟩
def LINK_STATUS_CDRLOCK : Fld := ⟨R.LINK_STATUS, 1, 1⟩
def LINK_STATUS_TRAINED : Fld := ⟨R.LINK_STATUS, 2, 1⟩
def LINK_STATUS_FECALIGN : Fld := ⟨R.LINK_STATUS, 3, 1⟩
def LINK_STATUS_LFAIL : Fld := ⟨R.LINK_STATUS, 4, 1⟩
def LINK_TXEQ_PRE : Fld := ⟨R.LINK_TXEQ, 0, 6⟩
def LINK_TXEQ_MAIN : Fld := ⟨R.LINK_TXEQ, 8, 6⟩
def LINK_TXEQ_POST : Fld := ⟨R.LINK_TXEQ, 16, 6⟩
def LINK_CNT_SYMERR_COUNT : Fld := ⟨R.LINK_CNT_SYMERR, 0, 32⟩
def LINK_SERTHR_THRESH : Fld := ⟨R.LINK_SERTHR, 0, 16⟩
def LINK_SERTHR_WINDOW : Fld := ⟨R.LINK_SERTHR, 16, 4⟩
def LINK_QMODE_MODE : Fld := ⟨R.LINK_QMODE, 0, 2⟩
def LINK_BD_CTAG_TAG : Fld := ⟨R.LINK_BD_CTAG, 0, 8⟩
def LINK_BD_COMMIT_TAG : Fld := ⟨R.LINK_BD_COMMIT, 0, 8⟩
def LINK_BD_COMMIT_PENDING : Fld := ⟨R.LINK_BD_COMMIT, 8, 1⟩
def FWD_CTL_EN : Fld := ⟨R.FWD_CTL, 0, 1⟩
def FWD_SELF_ID : Fld := ⟨R.FWD_SELF, 0, 20⟩
def FWD_CTAG_TAG : Fld := ⟨R.FWD_CTAG, 0, 8⟩
def FWD_COMMIT_TAG : Fld := ⟨R.FWD_COMMIT, 0, 8⟩
def FWD_COMMIT_PENDING : Fld := ⟨R.FWD_COMMIT, 8, 1⟩
def FWD_IND_SEL_INDEX : Fld := ⟨R.FWD_IND_SEL, 0, 20⟩
def FWD_IND_SEL_AUTOINC : Fld := ⟨R.FWD_IND_SEL, 29, 1⟩
def FWD_IND_SEL_TABLE : Fld := ⟨R.FWD_IND_SEL, 30, 2⟩
def FWD_IND_DATA_DATA : Fld := ⟨R.FWD_IND_DATA, 0, 32⟩
def FWD_STAGE_USED : Fld := ⟨R.FWD_STAGE, 0, 11⟩
def FWD_CNT_NOROUTE_COUNT : Fld := ⟨R.FWD_CNT_NOROUTE, 0, 32⟩
def FWD_CNT_HDRERR_COUNT : Fld := ⟨R.FWD_CNT_HDRERR, 0, 32⟩
def FWD_CNT_CRCERR_COUNT : Fld := ⟨R.FWD_CNT_CRCERR, 0, 32⟩
def FWD_CNT_FENCEDROP_COUNT : Fld := ⟨R.FWD_CNT_FENCEDROP, 0, 32⟩
def FWD_CNT_EPFENCE_COUNT : Fld := ⟨R.FWD_CNT_EPFENCE, 0, 32⟩
def FWD_CNT_CMARK_COUNT : Fld := ⟨R.FWD_CNT_CMARK, 0, 32⟩
def FWD_CNT_CMRX_COUNT : Fld := ⟨R.FWD_CNT_CMRX, 0, 32⟩
def FWD_CNT_THROTTLE_COUNT : Fld := ⟨R.FWD_CNT_THROTTLE, 0, 32⟩
def FWD_CNT_CLR_CLR : Fld := ⟨R.FWD_CNT_CLR, 0, 1⟩
def FWD_LASTDROP_DST : Fld := ⟨R.FWD_LASTDROP, 0, 20⟩
def FWD_LASTDROP_REASON : Fld := ⟨R.FWD_LASTDROP, 20, 4⟩
def FWD_CMTHR_MARK : Fld := ⟨R.FWD_CMTHR, 0, 16⟩
def FWD_THRTL_SLOW : Fld := ⟨R.FWD_THRTL, 0, 16⟩
def FWD_THRTL_STOP : Fld := ⟨R.FWD_THRTL, 16, 16⟩
def FWD_THRTL_INT_INTERVAL : Fld := ⟨R.FWD_THRTL_INT, 0, 16⟩
def FWD_PFENCE_FENCE : Fld := ⟨R.FWD_PFENCE, 0, 32⟩
def FWD_PFENCEH_HOST : Fld := ⟨R.FWD_PFENCEH, 0, 32⟩
def FWD_DETJOB_DET : Fld := ⟨R.FWD_DETJOB, 0, 32⟩
def FWD_PORTJOB_TAGS : Fld := ⟨R.FWD_PORTJOB, 0, 32⟩
def BUF_AUDIT_PERIOD : Fld := ⟨R.BUF_AUDIT, 0, 16⟩
def BUF_AUDIT_EN : Fld := ⟨R.BUF_AUDIT, 16, 1⟩
def BUF_AUDIT_RECLAIM : Fld := ⟨R.BUF_AUDIT, 17, 1⟩
def BUF_AUDIT_STATUS_SWEEP : Fld := ⟨R.BUF_AUDIT_STATUS, 0, 1⟩
def BUF_P0_LOWCLS_CLS : Fld := ⟨R.BUF_P0_LOWCLS, 0, 8⟩
def BUF_CNT_MCREP_COUNT : Fld := ⟨R.BUF_CNT_MCREP, 0, 32⟩
def BUF_CNT_MCFENCE_COUNT : Fld := ⟨R.BUF_CNT_MCFENCE, 0, 32⟩
def BUF_CNT_NOBUF_COUNT : Fld := ⟨R.BUF_CNT_NOBUF, 0, 32⟩
def BUF_CNT_SLICESKIP_COUNT : Fld := ⟨R.BUF_CNT_SLICESKIP, 0, 32⟩
def BUF_CNT_SLICEHOLD_COUNT : Fld := ⟨R.BUF_CNT_SLICEHOLD, 0, 32⟩
def BUF_CNT_CLR_CLR : Fld := ⟨R.BUF_CNT_CLR, 0, 1⟩
def BUF_SLICEFREE_FREE : Fld := ⟨R.BUF_SLICEFREE, 0, 17⟩
def POOL_CTL_EN : Fld := ⟨R.POOL_CTL, 0, 1⟩
def POOL_CTL_CHUNK : Fld := ⟨R.POOL_CTL, 4, 4⟩
def POOL_CTL_LOWMASK : Fld := ⟨R.POOL_CTL, 8, 3⟩
def POOL_COUNT_N : Fld := ⟨R.POOL_COUNT, 0, 24⟩
def POOL_RBASE_LO_ADDR : Fld := ⟨R.POOL_RBASE_LO, 12, 20⟩
def POOL_RBASE_HI_ADDR : Fld := ⟨R.POOL_RBASE_HI, 0, 16⟩
def POOL_CBASE_LO_ADDR : Fld := ⟨R.POOL_CBASE_LO, 12, 20⟩
def POOL_CBASE_HI_ADDR : Fld := ⟨R.POOL_CBASE_HI, 0, 16⟩
def POOL_CTAG_TAG : Fld := ⟨R.POOL_CTAG, 0, 8⟩
def POOL_COMMIT_TAG : Fld := ⟨R.POOL_COMMIT, 0, 8⟩
def POOL_COMMIT_PENDING : Fld := ⟨R.POOL_COMMIT, 8, 1⟩
def POOL_WARN_LEVEL : Fld := ⟨R.POOL_WARN, 0, 24⟩
def POOL_PLOW_LEVEL : Fld := ⟨R.POOL_PLOW, 0, 24⟩
def POOL_PALL_LEVEL : Fld := ⟨R.POOL_PALL, 0, 24⟩
def POOL_HYST_LEVEL : Fld := ⟨R.POOL_HYST, 0, 24⟩
def POOL_STATUS_STATE : Fld := ⟨R.POOL_STATUS, 0, 3⟩
def POOL_STATUS_CFGERR : Fld := ⟨R.POOL_STATUS, 3, 1⟩
def POOL_STATUS_INCONS : Fld := ⟨R.POOL_STATUS, 4, 1⟩
def POOL_STATUS_FIRSTEV : Fld := ⟨R.POOL_STATUS, 5, 1⟩
def POOL_STATUS_CLR : Fld := ⟨R.POOL_STATUS, 6, 1⟩
def POOL_FREE_FREE : Fld := ⟨R.POOL_FREE, 0, 24⟩
def POOL_MINFREE_FREE : Fld := ⟨R.POOL_MINFREE, 0, 24⟩
def POOL_INCDIFF_DIFF : Fld := ⟨R.POOL_INCDIFF, 0, 25⟩
def POOL_CNT_ALLOC_COUNT : Fld := ⟨R.POOL_CNT_ALLOC, 0, 32⟩
def POOL_CNT_WAIT_COUNT : Fld := ⟨R.POOL_CNT_WAIT, 0, 32⟩
def POOL_CNT_DFREE_COUNT : Fld := ⟨R.POOL_CNT_DFREE, 0, 32⟩
def POOL_CNT_WRONGOWN_COUNT : Fld := ⟨R.POOL_CNT_WRONGOWN, 0, 32⟩
def POOL_CNT_RANGE_COUNT : Fld := ⟨R.POOL_CNT_RANGE, 0, 32⟩
def POOL_CNT_REFOVF_COUNT : Fld := ⟨R.POOL_CNT_REFOVF, 0, 32⟩
def POOL_CNT_LEAK_COUNT : Fld := ⟨R.POOL_CNT_LEAK, 0, 32⟩
def POOL_CNT_RECLAIM_COUNT : Fld := ⟨R.POOL_CNT_RECLAIM, 0, 32⟩
def POOL_ERR_BUF_BUFFER : Fld := ⟨R.POOL_ERR_BUF, 0, 24⟩
def POOL_ERR_BUF_CAUSE : Fld := ⟨R.POOL_ERR_BUF, 24, 4⟩
def POOL_ERR_OWN_BY : Fld := ⟨R.POOL_ERR_OWN, 0, 12⟩
def POOL_ERR_OWN_OWNER : Fld := ⟨R.POOL_ERR_OWN, 12, 12⟩
def SCHED_CTAG_TAG : Fld := ⟨R.SCHED_CTAG, 0, 8⟩
def SCHED_COMMIT_TAG : Fld := ⟨R.SCHED_COMMIT, 0, 8⟩
def SCHED_COMMIT_PENDING : Fld := ⟨R.SCHED_COMMIT, 8, 1⟩
def SCHED_QUANT_QUANTUM : Fld := ⟨R.SCHED_QUANT, 0, 16⟩
def SCHED_SHRATE_RATE : Fld := ⟨R.SCHED_SHRATE, 0, 21⟩
def SCHED_SHBURST_BYTES : Fld := ⟨R.SCHED_SHBURST, 0, 24⟩
def SCHED_SHCRED_CREDIT : Fld := ⟨R.SCHED_SHCRED, 0, 25⟩
def SCHED_MRATE_RATE : Fld := ⟨R.SCHED_MRATE, 0, 21⟩
def SCHED_MBURST_BYTES : Fld := ⟨R.SCHED_MBURST, 0, 24⟩
def SCHED_CNT_MTRDROP_COUNT : Fld := ⟨R.SCHED_CNT_MTRDROP, 0, 32⟩
def SCHED_CNT_GUARD_COUNT : Fld := ⟨R.SCHED_CNT_GUARD, 0, 32⟩
def SCHED_CNT_GATEOVR_COUNT : Fld := ⟨R.SCHED_CNT_GATEOVR, 0, 32⟩
def SCHED_CNT_CLR_CLR : Fld := ⟨R.SCHED_CNT_CLR, 0, 1⟩
def GATE_CTL_EN : Fld := ⟨R.GATE_CTL, 0, 1⟩
def GATE_BASE_LO_NS : Fld := ⟨R.GATE_BASE_LO, 0, 32⟩
def GATE_BASE_HI_NS : Fld := ⟨R.GATE_BASE_HI, 0, 32⟩
def GATE_CTAG_TAG : Fld := ⟨R.GATE_CTAG, 0, 8⟩
def GATE_COMMIT_TAG : Fld := ⟨R.GATE_COMMIT, 0, 8⟩
def GATE_COMMIT_PENDING : Fld := ⟨R.GATE_COMMIT, 8, 1⟩
def GATE_STATUS_ENTRY : Fld := ⟨R.GATE_STATUS, 0, 8⟩
def GATE_STATUS_LEN : Fld := ⟨R.GATE_STATUS, 8, 9⟩
def GATE_CYCLE_NS : Fld := ⟨R.GATE_CYCLE, 0, 32⟩
def GATE_ENT_ENTRY : Fld := ⟨R.GATE_ENT, 0, 32⟩
def TEL_Q_CFG_MODE : Fld := ⟨R.TEL_Q_CFG, 0, 1⟩
def TEL_Q_CFG_SHIFT : Fld := ⟨R.TEL_Q_CFG, 1, 4⟩
def TEL_Q_DEPTH_CELLS : Fld := ⟨R.TEL_Q_DEPTH, 0, 21⟩
def TEL_Q_HWDEPTH_CELLS : Fld := ⟨R.TEL_Q_HWDEPTH, 0, 21⟩
def TEL_Q_HWSOJ_NS : Fld := ⟨R.TEL_Q_HWSOJ, 0, 24⟩
def TEL_Q_CTL_CLR : Fld := ⟨R.TEL_Q_CTL, 0, 1⟩
def TEL_SFIFO_LO_DATA : Fld := ⟨R.TEL_SFIFO_LO, 0, 32⟩
def TEL_SFIFO_HI_DATA : Fld := ⟨R.TEL_SFIFO_HI, 0, 32⟩
def TEL_SFIFO_STATUS_USED : Fld := ⟨R.TEL_SFIFO_STATUS, 0, 11⟩
def TIME_CTL_ROLE : Fld := ⟨R.TIME_CTL, 0, 2⟩
def TIME_CTL_SRC : Fld := ⟨R.TIME_CTL, 2, 2⟩
def TIME_CTL_UPPORT : Fld := ⟨R.TIME_CTL, 4, 9⟩
def TIME_CTL_DOMAIN : Fld := ⟨R.TIME_CTL, 13, 8⟩
def TIME_CTL_EN : Fld := ⟨R.TIME_CTL, 31, 1⟩
def TIME_TIDEPORT_PORTS : Fld := ⟨R.TIME_TIDEPORT, 0, 32⟩
def TIME_INT_SYNCINT : Fld := ⟨R.TIME_INT, 0, 3⟩
def TIME_INT_HOLDCNT : Fld := ⟨R.TIME_INT, 8, 8⟩
def TIME_ASYM_ASYM : Fld := ⟨R.TIME_ASYM, 0, 32⟩
def TIME_STATUS_STATE : Fld := ⟨R.TIME_STATUS, 0, 3⟩
def TIME_STATUS_REFOK : Fld := ⟨R.TIME_STATUS, 3, 1⟩
def TIME_STATUS_PPSOK : Fld := ⟨R.TIME_STATUS, 4, 1⟩
def TIME_STATUS_STEPS : Fld := ⟨R.TIME_STATUS, 8, 4⟩
def TIME_GMID_ID : Fld := ⟨R.TIME_GMID, 0, 20⟩
def TIME_OFFSET_OFF : Fld := ⟨R.TIME_OFFSET, 0, 32⟩
def TIME_DELAY_DELAY : Fld := ⟨R.TIME_DELAY, 0, 32⟩
def TIME_FREQ_ADJ : Fld := ⟨R.TIME_FREQ, 0, 24⟩
def TIME_NOW_LO_NS : Fld := ⟨R.TIME_NOW_LO, 0, 32⟩
def TIME_NOW_HI_NS : Fld := ⟨R.TIME_NOW_HI, 0, 32⟩
def TIME_NOW_FRAC_FRAC : Fld := ⟨R.TIME_NOW_FRAC, 0, 16⟩
def TIME_SET_LO_NS : Fld := ⟨R.TIME_SET_LO, 0, 32⟩
def TIME_SET_HI_NS : Fld := ⟨R.TIME_SET_HI, 0, 32⟩
def TIME_SETCTL_MODE : Fld := ⟨R.TIME_SETCTL, 0, 2⟩
def TIME_CTAG_TAG : Fld := ⟨R.TIME_CTAG, 0, 8⟩
def TIME_COMMIT_TAG : Fld := ⟨R.TIME_COMMIT, 0, 8⟩
def TIME_COMMIT_PENDING : Fld := ⟨R.TIME_COMMIT, 8, 1⟩
def TIME_PPSOUT_EN : Fld := ⟨R.TIME_PPSOUT, 0, 1⟩
def TIME_PPSOUT_WIDTH : Fld := ⟨R.TIME_PPSOUT, 1, 10⟩
def TIME_PPSOFS_NS : Fld := ⟨R.TIME_PPSOFS, 0, 30⟩
def TIME_PPSIN_LO_NS : Fld := ⟨R.TIME_PPSIN_LO, 0, 32⟩
def TIME_PPSIN_HI_NS : Fld := ⟨R.TIME_PPSIN_HI, 0, 32⟩
def TIME_CNT_SYNCRX_COUNT : Fld := ⟨R.TIME_CNT_SYNCRX, 0, 32⟩
def TIME_CNT_REJECT_COUNT : Fld := ⟨R.TIME_CNT_REJECT, 0, 32⟩
def TIME_CNT_STEP_COUNT : Fld := ⟨R.TIME_CNT_STEP, 0, 32⟩
def TIME_CNT_CLR_CLR : Fld := ⟨R.TIME_CNT_CLR, 0, 1⟩
def CUE_CTL_EN : Fld := ⟨R.CUE_CTL, 0, 1⟩
def CUE_CTL_LATESKIP : Fld := ⟨R.CUE_CTL, 1, 1⟩
def CUE_PERIOD_LO_NS : Fld := ⟨R.CUE_PERIOD_LO, 0, 32⟩
def CUE_PERIOD_HI_NS : Fld := ⟨R.CUE_PERIOD_HI, 0, 32⟩
def CUE_CTAG_TAG : Fld := ⟨R.CUE_CTAG, 0, 8⟩
def CUE_COMMIT_TAG : Fld := ⟨R.CUE_COMMIT, 0, 8⟩
def CUE_COMMIT_PENDING : Fld := ⟨R.CUE_COMMIT, 8, 1⟩
def CUE_STATUS_NEXT : Fld := ⟨R.CUE_STATUS, 0, 8⟩
def CUE_STATUS_DONE : Fld := ⟨R.CUE_STATUS, 8, 1⟩
def CUE_STATUS_FIRSTEV : Fld := ⟨R.CUE_STATUS, 9, 1⟩
def CUE_STATUS_REP : Fld := ⟨R.CUE_STATUS, 10, 22⟩
def CUE_CNT_FIRED_COUNT : Fld := ⟨R.CUE_CNT_FIRED, 0, 32⟩
def CUE_CNT_LATE_COUNT : Fld := ⟨R.CUE_CNT_LATE, 0, 32⟩
def CUE_CNT_SKIP_COUNT : Fld := ⟨R.CUE_CNT_SKIP, 0, 32⟩
def CUE_CNT_NOTARGET_COUNT : Fld := ⟨R.CUE_CNT_NOTARGET, 0, 32⟩
def CUE_CNT_CLR_CLR : Fld := ⟨R.CUE_CNT_CLR, 0, 1⟩
def CURT_MEM_MASK : Fld := ⟨R.CURT_MEM, 0, 32⟩
def CURT_CFG_FLAG : Fld := ⟨R.CURT_CFG, 0, 8⟩
def CURT_TMO_US : Fld := ⟨R.CURT_TMO, 0, 16⟩
def CURT_CTAG_TAG : Fld := ⟨R.CURT_CTAG, 0, 8⟩
def CURT_COMMIT_TAG : Fld := ⟨R.CURT_COMMIT, 0, 8⟩
def CURT_COMMIT_PENDING : Fld := ⟨R.CURT_COMMIT, 8, 1⟩
def CURT_ARR_ARR : Fld := ⟨R.CURT_ARR, 0, 32⟩
def CURT_STATUS_GEN : Fld := ⟨R.CURT_STATUS, 0, 16⟩
def CURT_STATUS_TIMEOUT : Fld := ⟨R.CURT_STATUS, 16, 1⟩
def CURT_STATUS_FIRSTEV : Fld := ⟨R.CURT_STATUS, 17, 1⟩
def CURT_CNT_BADARR_COUNT : Fld := ⟨R.CURT_CNT_BADARR, 0, 32⟩
def CURT_CLR_CLR : Fld := ⟨R.CURT_CLR, 0, 1⟩
def COLL_CTL_START : Fld := ⟨R.COLL_CTL, 0, 1⟩
def COLL_CTL_ABORT : Fld := ⟨R.COLL_CTL, 1, 1⟩
def COLL_CTL_EVTOK : Fld := ⟨R.COLL_CTL, 2, 1⟩
def COLL_STATE_STATE : Fld := ⟨R.COLL_STATE, 0, 3⟩
def COLL_STATE_EXPRESS : Fld := ⟨R.COLL_STATE, 3, 1⟩
def COLL_STATE_JOB : Fld := ⟨R.COLL_STATE, 8, 8⟩
def COLL_DESC0_WORD : Fld := ⟨R.COLL_DESC0, 0, 32⟩
def COLL_DESC1_WORD : Fld := ⟨R.COLL_DESC1, 0, 32⟩
def COLL_STEP_RUN : Fld := ⟨R.COLL_STEP, 0, 16⟩
def COLL_STEP_DONE : Fld := ⟨R.COLL_STEP, 16, 16⟩
def COLL_LASTST_STATUS : Fld := ⟨R.COLL_LASTST, 0, 8⟩
def COLL_LASTST_DETAIL : Fld := ⟨R.COLL_LASTST, 8, 24⟩
def COLL_PROG_INFLIGHT : Fld := ⟨R.COLL_PROG, 0, 4⟩
def COLL_PROG_DONE : Fld := ⟨R.COLL_PROG, 4, 24⟩
def COLL_EARLY_HELD : Fld := ⟨R.COLL_EARLY, 0, 7⟩
def COLL_STRAG_WINDOW : Fld := ⟨R.COLL_STRAG, 0, 7⟩
def COLL_STRAG_THRESH : Fld := ⟨R.COLL_STRAG, 8, 7⟩
def COLL_STRAG_CLRTHR : Fld := ⟨R.COLL_STRAG, 16, 7⟩
def COLL_LASTIN_RANK : Fld := ⟨R.COLL_LASTIN, 0, 10⟩
def COLL_LASTIN_RECORDED : Fld := ⟨R.COLL_LASTIN, 16, 7⟩
def COLL_CNT_INST_COUNT : Fld := ⟨R.COLL_CNT_INST, 0, 32⟩
def COLL_CNT_ERR_COUNT : Fld := ⟨R.COLL_CNT_ERR, 0, 32⟩
def COLL_CNT_FENCED_COUNT : Fld := ⟨R.COLL_CNT_FENCED, 0, 32⟩
def COLL_CNT_BADPKT_COUNT : Fld := ⟨R.COLL_CNT_BADPKT, 0, 32⟩
def COLL_BADREC_REASON : Fld := ⟨R.COLL_BADREC, 0, 4⟩
def COLL_BADREC_RANK : Fld := ⟨R.COLL_BADREC, 4, 10⟩
def COLL_CNT_CLR_CLR : Fld := ⟨R.COLL_CNT_CLR, 0, 1⟩
def COLL_SUSPECT_RANKS : Fld := ⟨R.COLL_SUSPECT, 0, 32⟩
def COLL_LIST_RANKS : Fld := ⟨R.COLL_LIST, 0, 32⟩
def COLL_ARRORD_FIRST : Fld := ⟨R.COLL_ARRORD, 0, 10⟩
def COLL_ARRORD_SECOND : Fld := ⟨R.COLL_ARRORD, 16, 10⟩
def XRED_STATUS_CTXS : Fld := ⟨R.XRED_STATUS, 0, 9⟩
def XRED_STATUS_ACTIVE : Fld := ⟨R.XRED_STATUS, 9, 9⟩
def XRED_HWLAT_CYCLES : Fld := ⟨R.XRED_HWLAT, 0, 16⟩
def XRED_CNT_INST_COUNT : Fld := ⟨R.XRED_CNT_INST, 0, 32⟩
def XRED_CNT_EXACT_COUNT : Fld := ⟨R.XRED_CNT_EXACT, 0, 32⟩
def XRED_CNT_LANEHOLD_COUNT : Fld := ⟨R.XRED_CNT_LANEHOLD, 0, 32⟩
def XRED_CNT_CLR_CLR : Fld := ⟨R.XRED_CNT_CLR, 0, 1⟩
def CLU_STATUS_STATE : Fld := ⟨R.CLU_STATUS, 0, 4⟩
def CLU_STATUS_SLOT : Fld := ⟨R.CLU_STATUS, 4, 3⟩
def CLU_STATUS_UNDERSTUDY : Fld := ⟨R.CLU_STATUS, 7, 1⟩
def CLU_STATUS_HALTCAUSE : Fld := ⟨R.CLU_STATUS, 8, 4⟩
def CLU_STATUS_QBUSY : Fld := ⟨R.CLU_STATUS, 12, 4⟩
def CLU_STATUS_JOB : Fld := ⟨R.CLU_STATUS, 16, 8⟩
def CLU_CTL_HALT : Fld := ⟨R.CLU_CTL, 0, 1⟩
def CLU_CTL_RESUME : Fld := ⟨R.CLU_CTL, 1, 1⟩
def CLU_SLEEP_DOZEDLY : Fld := ⟨R.CLU_SLEEP, 0, 8⟩
def CLU_SLEEP_RETDLY : Fld := ⟨R.CLU_SLEEP, 8, 16⟩
def CLU_SLEEP_NORET : Fld := ⟨R.CLU_SLEEP, 24, 1⟩
def CLU_WDOG_WAITUS : Fld := ⟨R.CLU_WDOG, 0, 16⟩
def CLU_WDOG_MOPTMO : Fld := ⟨R.CLU_WDOG, 16, 16⟩
def CLU_PROG_LO_ADDR : Fld := ⟨R.CLU_PROG_LO, 0, 32⟩
def CLU_PROG_HI_ADDR : Fld := ⟨R.CLU_PROG_HI, 0, 16⟩
def CLU_PROG_CRC_CRC : Fld := ⟨R.CLU_PROG_CRC, 0, 32⟩
def CLU_REH_REASON : Fld := ⟨R.CLU_REH, 0, 8⟩
def CLU_REH_DETAIL : Fld := ⟨R.CLU_REH, 8, 24⟩
def CLU_PC_PC : Fld := ⟨R.CLU_PC, 0, 16⟩
def CLU_QSTAT_HEAD : Fld := ⟨R.CLU_QSTAT, 0, 11⟩
def CLU_QSTAT_DEPTH : Fld := ⟨R.CLU_QSTAT, 16, 5⟩
def CLU_QSTAT_WAITFLAG : Fld := ⟨R.CLU_QSTAT, 21, 8⟩
def CLU_QSTAT_WAITING : Fld := ⟨R.CLU_QSTAT, 29, 1⟩
def CLU_MOVE_OUTSTANDING : Fld := ⟨R.CLU_MOVE, 0, 7⟩
def CLU_CNT_MOPS_COUNT : Fld := ⟨R.CLU_CNT_MOPS, 0, 32⟩
def CLU_CNT_WAKE_COUNT : Fld := ⟨R.CLU_CNT_WAKE, 0, 32⟩
def CLU_CNT_RETAIN_COUNT : Fld := ⟨R.CLU_CNT_RETAIN, 0, 32⟩
def CLU_CNT_REHFAIL_COUNT : Fld := ⟨R.CLU_CNT_REHFAIL, 0, 32⟩
def CLU_CNT_CLR_CLR : Fld := ⟨R.CLU_CNT_CLR, 0, 1⟩
def ARR_STATUS_WIDTH : Fld := ⟨R.ARR_STATUS, 0, 7⟩
def ARR_STATUS_ACTV : Fld := ⟨R.ARR_STATUS, 7, 1⟩
def ARR_STATUS_NEXTV : Fld := ⟨R.ARR_STATUS, 8, 1⟩
def ARR_STATUS_FEED : Fld := ⟨R.ARR_STATUS, 9, 1⟩
def ARR_STATUS_LOWLAT : Fld := ⟨R.ARR_STATUS, 10, 1⟩
def ARR_STATUS_RECOV : Fld := ⟨R.ARR_STATUS, 11, 1⟩
def ARR_STATUS_DIAG : Fld := ⟨R.ARR_STATUS, 12, 1⟩
def ARR_BYPASS0_MASK : Fld := ⟨R.ARR_BYPASS0, 0, 32⟩
def ARR_BYPASS1_MASK : Fld := ⟨R.ARR_BYPASS1, 0, 32⟩
def ARR_CFG_MAXBYP : Fld := ⟨R.ARR_CFG, 0, 6⟩
def ARR_CFG_CHKEN : Fld := ⟨R.ARR_CFG, 6, 1⟩
def ARR_CFG_AUTOLL : Fld := ⟨R.ARR_CFG, 7, 1⟩
def ARR_CTAG_TAG : Fld := ⟨R.ARR_CTAG, 0, 8⟩
def ARR_COMMIT_TAG : Fld := ⟨R.ARR_COMMIT, 0, 8⟩
def ARR_COMMIT_PENDING : Fld := ⟨R.ARR_COMMIT, 8, 1⟩
def ARR_DIAGREC_OUTCOME : Fld := ⟨R.ARR_DIAGREC, 0, 3⟩
def ARR_DIAGREC_COLUMN : Fld := ⟨R.ARR_DIAGREC, 3, 6⟩
def ARR_DIAGREC_COUNT : Fld := ⟨R.ARR_DIAGREC, 9, 7⟩
def ARR_DIAGREC_SLOT : Fld := ⟨R.ARR_DIAGREC, 16, 11⟩
def ARR_CNT_STREAM_COUNT : Fld := ⟨R.ARR_CNT_STREAM, 0, 32⟩
def ARR_CNT_LOWLAT_COUNT : Fld := ⟨R.ARR_CNT_LOWLAT, 0, 32⟩
def ARR_CNT_TWOPASS_COUNT : Fld := ⟨R.ARR_CNT_TWOPASS, 0, 32⟩
def ARR_CNT_BUBBLE_COUNT : Fld := ⟨R.ARR_CNT_BUBBLE, 0, 32⟩
def ARR_CNT_NEXTLOST_COUNT : Fld := ⟨R.ARR_CNT_NEXTLOST, 0, 32⟩
def ARR_CNT_DENSE_COUNT : Fld := ⟨R.ARR_CNT_DENSE, 0, 32⟩
def ARR_CNT_MISMATCH_COUNT : Fld := ⟨R.ARR_CNT_MISMATCH, 0, 32⟩
def ARR_CNT_RETRY_COUNT : Fld := ⟨R.ARR_CNT_RETRY, 0, 32⟩
def ARR_CNT_DIAG_COUNT : Fld := ⟨R.ARR_CNT_DIAG, 0, 32⟩
def ARR_CNT_CLR_CLR : Fld := ⟨R.ARR_CNT_CLR, 0, 1⟩
def DEV_JOB_SEED_LO_SEED : Fld := ⟨R.DEV_JOB_SEED_LO, 0, 32⟩
def DEV_JOB_SEED_HI_SEED : Fld := ⟨R.DEV_JOB_SEED_HI, 0, 32⟩
def DEV_JOB_STEP_LO_STEP : Fld := ⟨R.DEV_JOB_STEP_LO, 0, 32⟩
def DEV_JOB_STEP_HI_STEP : Fld := ⟨R.DEV_JOB_STEP_HI, 0, 32⟩
def DEV_JOB_ADVANCE_JOB : Fld := ⟨R.DEV_JOB_ADVANCE, 0, 8⟩
def STK_STATUS_STATE : Fld := ⟨R.STK_STATUS, 0, 3⟩
def STK_STATUS_RATE : Fld := ⟨R.STK_STATUS, 3, 2⟩
def STK_STATUS_TEMP : Fld := ⟨R.STK_STATUS, 8, 8⟩
def STK_STATUS_HOT : Fld := ⟨R.STK_STATUS, 16, 1⟩
def STK_CFG_LASTDROP : Fld := ⟨R.STK_CFG, 0, 1⟩
def STK_CFG_PROTWAYS : Fld := ⟨R.STK_CFG, 4, 4⟩
def STK_CFG_RDBATCH : Fld := ⟨R.STK_CFG, 8, 8⟩
def STK_CFG_WRBATCH : Fld := ⟨R.STK_CFG, 16, 8⟩
def STK_CTAG_TAG : Fld := ⟨R.STK_CTAG, 0, 8⟩
def STK_COMMIT_TAG : Fld := ⟨R.STK_COMMIT, 0, 8⟩
def STK_COMMIT_PENDING : Fld := ⟨R.STK_COMMIT, 8, 1⟩
def STK_RECENTRE_INTERVAL : Fld := ⟨R.STK_RECENTRE, 0, 16⟩
def STK_RECENTRE_TEMPDELTA : Fld := ⟨R.STK_RECENTRE, 16, 8⟩
def STK_RECENTRE_DRIFTTHR : Fld := ⟨R.STK_RECENTRE, 24, 6⟩
def STK_TRAIN_TEMP : Fld := ⟨R.STK_TRAIN, 0, 8⟩
def STK_TRAIN_RETRAIN : Fld := ⟨R.STK_TRAIN, 8, 1⟩
def STK_TRAIN_BUSY : Fld := ⟨R.STK_TRAIN, 9, 1⟩
def STK_FENCE_MASK : Fld := ⟨R.STK_FENCE, 0, 32⟩
def STK_SCRUB_INTERVAL : Fld := ⟨R.STK_SCRUB, 0, 16⟩
def STK_SCRUB_UECNT : Fld := ⟨R.STK_SCRUB, 16, 8⟩
def STK_CACHEOP_OP : Fld := ⟨R.STK_CACHEOP, 0, 3⟩
def STK_CACHEOP_BUSY : Fld := ⟨R.STK_CACHEOP, 8, 1⟩
def STK_CACHEOP_BASE_PAGE : Fld := ⟨R.STK_CACHEOP_BASE, 0, 24⟩
def STK_CACHEOP_LIMIT_PAGE : Fld := ⟨R.STK_CACHEOP_LIMIT, 0, 24⟩
def STK_UELOG_LO_ADDR : Fld := ⟨R.STK_UELOG_LO, 0, 32⟩
def STK_UELOG_HI_ADDR : Fld := ⟨R.STK_UELOG_HI, 0, 16⟩
def STK_UELOG_HI_VALID : Fld := ⟨R.STK_UELOG_HI, 31, 1⟩
def STK_CNT_CE_COUNT : Fld := ⟨R.STK_CNT_CE, 0, 32⟩
def STK_CNT_UE_COUNT : Fld := ⟨R.STK_CNT_UE, 0, 32⟩
def STK_CNT_ODECC_COUNT : Fld := ⟨R.STK_CNT_ODECC, 0, 32⟩
def STK_CNT_HIT_COUNT : Fld := ⟨R.STK_CNT_HIT, 0, 32⟩
def STK_CNT_MISS_COUNT : Fld := ⟨R.STK_CNT_MISS, 0, 32⟩
def STK_CNT_WB_COUNT : Fld := ⟨R.STK_CNT_WB, 0, 32⟩
def STK_CNT_PROTEVICT_COUNT : Fld := ⟨R.STK_CNT_PROTEVICT, 0, 32⟩
def STK_CNT_LASTDROP_COUNT : Fld := ⟨R.STK_CNT_LASTDROP, 0, 32⟩
def STK_CNT_FENCELOST_COUNT : Fld := ⟨R.STK_CNT_FENCELOST, 0, 32⟩
def STK_CNT_FENCEERR_COUNT : Fld := ⟨R.STK_CNT_FENCEERR, 0, 32⟩
def STK_CNT_DRIFT_COUNT : Fld := ⟨R.STK_CNT_DRIFT, 0, 32⟩
def STK_CNT_RETRAIN_COUNT : Fld := ⟨R.STK_CNT_RETRAIN, 0, 32⟩
def STK_CNT_CLR_CLR : Fld := ⟨R.STK_CNT_CLR, 0, 1⟩
def STK_PCH_DRIFT : Fld := ⟨R.STK_PCH, 0, 8⟩
def STK_PCH_FENCED : Fld := ⟨R.STK_PCH, 8, 1⟩
def STK_PCH_TRAINFAIL : Fld := ⟨R.STK_PCH, 9, 1⟩
def STK_PCH_UERECENT : Fld := ⟨R.STK_PCH, 12, 4⟩
def HIF_DB_SQ_TAIL : Fld := ⟨R.HIF_DB_SQ, 0, 16⟩
def HIF_DB_CQ_HEAD : Fld := ⟨R.HIF_DB_CQ, 0, 16⟩
def HIF_DB_EVQ_HEAD : Fld := ⟨R.HIF_DB_EVQ, 0, 16⟩
def HIF_STATUS_READY : Fld := ⟨R.HIF_STATUS, 0, 1⟩
def HIF_STATUS_RECOVERY : Fld := ⟨R.HIF_STATUS, 1, 1⟩
def HIF_STATUS_GEN : Fld := ⟨R.HIF_STATUS, 2, 3⟩
def HIF_STATUS_WIDTH : Fld := ⟨R.HIF_STATUS, 5, 4⟩
def HIF_WIN_LO_BASE : Fld := ⟨R.HIF_WIN_LO, 12, 20⟩
def HIF_WIN_HI_BASE : Fld := ⟨R.HIF_WIN_HI, 0, 16⟩
def HIF_EVQ_BASE_LO_ADDR : Fld := ⟨R.HIF_EVQ_BASE_LO, 12, 20⟩
def HIF_EVQ_BASE_HI_ADDR : Fld := ⟨R.HIF_EVQ_BASE_HI, 0, 32⟩
def HIF_EVQ_CFG_LOG2 : Fld := ⟨R.HIF_EVQ_CFG, 0, 5⟩
def HIF_EVQ_CFG_VECTOR : Fld := ⟨R.HIF_EVQ_CFG, 8, 8⟩
def HIF_EVQ_CFG_EN : Fld := ⟨R.HIF_EVQ_CFG, 31, 1⟩
def HIF_EVQ_STATUS_TAIL : Fld := ⟨R.HIF_EVQ_STATUS, 0, 16⟩
def HIF_EVQ_STATUS_QUEUED : Fld := ⟨R.HIF_EVQ_STATUS, 16, 9⟩
def HIF_EVQ_MOD_COUNT : Fld := ⟨R.HIF_EVQ_MOD, 0, 8⟩
def HIF_EVQ_MOD_TIMER : Fld := ⟨R.HIF_EVQ_MOD, 8, 16⟩
def HIF_CNT_BADDB_COUNT : Fld := ⟨R.HIF_CNT_BADDB, 0, 32⟩
def HIF_CNT_EVDROP_COUNT : Fld := ⟨R.HIF_CNT_EVDROP, 0, 32⟩
def HIF_CNT_HOSTERR_COUNT : Fld := ⟨R.HIF_CNT_HOSTERR, 0, 32⟩
def HIF_CNT_CLR_CLR : Fld := ⟨R.HIF_CNT_CLR, 0, 1⟩
def HIF_SQBASE_LO_ADDR : Fld := ⟨R.HIF_SQBASE_LO, 12, 20⟩
def HIF_SQBASE_HI_ADDR : Fld := ⟨R.HIF_SQBASE_HI, 0, 32⟩
def HIF_CQBASE_LO_ADDR : Fld := ⟨R.HIF_CQBASE_LO, 12, 20⟩
def HIF_CQBASE_HI_ADDR : Fld := ⟨R.HIF_CQBASE_HI, 0, 32⟩
def HIF_RCFG_SQLOG2 : Fld := ⟨R.HIF_RCFG, 0, 5⟩
def HIF_RCFG_CQLOG2 : Fld := ⟨R.HIF_RCFG, 5, 5⟩
def HIF_RCFG_VECTOR : Fld := ⟨R.HIF_RCFG, 10, 8⟩
def HIF_RCFG_EN : Fld := ⟨R.HIF_RCFG, 31, 1⟩
def HIF_RMOD_COUNT : Fld := ⟨R.HIF_RMOD, 0, 8⟩
def HIF_RMOD_TIMER : Fld := ⟨R.HIF_RMOD, 8, 16⟩
def HIF_RSTATUS_SQHEAD : Fld := ⟨R.HIF_RSTATUS, 0, 16⟩
def HIF_RSTATUS_IDLE : Fld := ⟨R.HIF_RSTATUS, 16, 1⟩
def HIF_RSTATUS_ERROR : Fld := ⟨R.HIF_RSTATUS, 17, 1⟩
def HIF_RSTATUS_BADDB : Fld := ⟨R.HIF_RSTATUS, 18, 1⟩
def HIF_RSTATUS_OUTSTANDING : Fld := ⟨R.HIF_RSTATUS, 19, 9⟩
def HIF_RCQ_TAIL : Fld := ⟨R.HIF_RCQ, 0, 16⟩
def HIF_RCQ_PHASE : Fld := ⟨R.HIF_RCQ, 16, 1⟩
def ERR_CFG_REJECT : Fld := ⟨R.ERR_CFG, 0, 1⟩
def ERR_CFG_UEFIRST : Fld := ⟨R.ERR_CFG, 1, 1⟩
def ERR_REJ_OFFSET : Fld := ⟨R.ERR_REJ, 0, 26⟩
def ERR_REJMID_MID : Fld := ⟨R.ERR_REJMID, 0, 12⟩
def ERR_LDRIFT_MARGIN : Fld := ⟨R.ERR_LDRIFT, 0, 6⟩
def ERR_LDRIFT_INTERVAL : Fld := ⟨R.ERR_LDRIFT, 8, 8⟩
def ERR_UFAIL_CLUSTER : Fld := ⟨R.ERR_UFAIL, 0, 7⟩
def ERR_UFAIL_GO : Fld := ⟨R.ERR_UFAIL, 31, 1⟩
def ERR_CNT_SWITCHIN_COUNT : Fld := ⟨R.ERR_CNT_SWITCHIN, 0, 32⟩
def ERR_CNT_MISSING_COUNT : Fld := ⟨R.ERR_CNT_MISSING, 0, 32⟩
def ERR_CNT_E2EEGR_COUNT : Fld := ⟨R.ERR_CNT_E2EEGR, 0, 32⟩
def ERR_CNT_LDRIFT_COUNT : Fld := ⟨R.ERR_CNT_LDRIFT, 0, 32⟩
def ERR_CNT_FWDREPAIR_COUNT : Fld := ⟨R.ERR_CNT_FWDREPAIR, 0, 32⟩
def ERR_CNT_CLR_CLR : Fld := ⟨R.ERR_CNT_CLR, 0, 1⟩
def ERR_LASTUNIT_CLUSTER : Fld := ⟨R.ERR_LASTUNIT, 0, 7⟩
def ERR_LASTUNIT_OLDSLOT : Fld := ⟨R.ERR_LASTUNIT, 8, 3⟩
def ERR_LASTUNIT_NEWSLOT : Fld := ⟨R.ERR_LASTUNIT, 12, 3⟩
def ERR_LASTUNIT_CAUSE : Fld := ⟨R.ERR_LASTUNIT, 16, 3⟩
def ERR_LASTUNIT_REASON : Fld := ⟨R.ERR_LASTUNIT, 20, 4⟩
def ERR_UELOG0_CLASS : Fld := ⟨R.ERR_UELOG0, 0, 4⟩
def ERR_UELOG0_UNIT : Fld := ⟨R.ERR_UELOG0, 8, 16⟩
def ERR_UELOG0_VALID : Fld := ⟨R.ERR_UELOG0, 31, 1⟩
def ERR_UELOG1_ADDR : Fld := ⟨R.ERR_UELOG1, 0, 32⟩
def ERR_UELOG2_ADDR : Fld := ⟨R.ERR_UELOG2, 0, 16⟩
def ERR_SLOTFAIL_SLOTS : Fld := ⟨R.ERR_SLOTFAIL, 0, 32⟩
def ERR_CE_COUNT : Fld := ⟨R.ERR_CE, 0, 32⟩
def ERR_UE_COUNT : Fld := ⟨R.ERR_UE, 0, 32⟩
def SEC_STATUS_BOOTOK : Fld := ⟨R.SEC_STATUS, 0, 1⟩
def SEC_STATUS_RECOVERY : Fld := ⟨R.SEC_STATUS, 1, 1⟩
def SEC_STATUS_REASON : Fld := ⟨R.SEC_STATUS, 2, 4⟩
def SEC_STATUS_IDVALID : Fld := ⟨R.SEC_STATUS, 6, 1⟩
def SEC_STATUS_DBG : Fld := ⟨R.SEC_STATUS, 7, 1⟩
def SEC_STATUS_PERMLOCK : Fld := ⟨R.SEC_STATUS, 8, 1⟩
def SEC_STATUS_DBGFAILS : Fld := ⟨R.SEC_STATUS, 16, 4⟩
def SEC_SVN_RUN : Fld := ⟨R.SEC_SVN, 0, 8⟩
def SEC_SVN_FLASH : Fld := ⟨R.SEC_SVN, 8, 8⟩
def SEC_SVN_ARB : Fld := ⟨R.SEC_SVN, 16, 8⟩
def SEC_ARB_ADVANCE : Fld := ⟨R.SEC_ARB, 0, 8⟩
def SEC_ARB_BUSY : Fld := ⟨R.SEC_ARB, 8, 1⟩
def SEC_UID_UID : Fld := ⟨R.SEC_UID, 0, 32⟩
def SEC_VKHASH_HASH : Fld := ⟨R.SEC_VKHASH, 0, 32⟩
def SEC_DKHASH_HASH : Fld := ⟨R.SEC_DKHASH, 0, 32⟩
def SEC_UPD_ADDR_LO_ADDR : Fld := ⟨R.SEC_UPD_ADDR_LO, 0, 32⟩
def SEC_UPD_ADDR_HI_ADDR : Fld := ⟨R.SEC_UPD_ADDR_HI, 0, 16⟩
def SEC_UPD_LEN_LEN : Fld := ⟨R.SEC_UPD_LEN, 0, 23⟩
def SEC_UPD_CTL_GO : Fld := ⟨R.SEC_UPD_CTL, 0, 1⟩
def SEC_UPD_STATUS_BUSY : Fld := ⟨R.SEC_UPD_STATUS, 0, 1⟩
def SEC_UPD_STATUS_RESULT : Fld := ⟨R.SEC_UPD_STATUS, 1, 4⟩
def SEC_PUSH_CTL_LEN : Fld := ⟨R.SEC_PUSH_CTL, 0, 23⟩
def SEC_PUSH_CTL_WAIT : Fld := ⟨R.SEC_PUSH_CTL, 29, 1⟩
def SEC_PUSH_CTL_PERSIST : Fld := ⟨R.SEC_PUSH_CTL, 30, 1⟩
def SEC_PUSH_CTL_GO : Fld := ⟨R.SEC_PUSH_CTL, 31, 1⟩
def SEC_PUSH_STATUS_BUSY : Fld := ⟨R.SEC_PUSH_STATUS, 0, 1⟩
def SEC_PUSH_STATUS_RESULT : Fld := ⟨R.SEC_PUSH_STATUS, 1, 4⟩
def SEC_DBG_NONCE_NONCE : Fld := ⟨R.SEC_DBG_NONCE, 0, 32⟩
def SEC_DBG_CTL_SUBMIT : Fld := ⟨R.SEC_DBG_CTL, 0, 1⟩
def SEC_DBG_CTL_SCOPE : Fld := ⟨R.SEC_DBG_CTL, 1, 3⟩
def SEC_DBG_TOKEN_TOKEN : Fld := ⟨R.SEC_DBG_TOKEN, 0, 32⟩
def PWR_DOM_STATE : Fld := ⟨R.PWR_DOM, 0, 2⟩
def PWR_DOM_BUSY : Fld := ⟨R.PWR_DOM, 2, 1⟩
def PWR_TS_TEMP : Fld := ⟨R.PWR_TS, 0, 11⟩
def PWR_TS_STATE : Fld := ⟨R.PWR_TS, 12, 3⟩
def PWR_TLIM_WARN : Fld := ⟨R.PWR_TLIM, 0, 8⟩
def PWR_TLIM_THROTTLE : Fld := ⟨R.PWR_TLIM, 8, 8⟩
def PWR_TLIM_CRIT : Fld := ⟨R.PWR_TLIM, 16, 8⟩
def PWR_TLIM_TRIP : Fld := ⟨R.PWR_TLIM, 24, 8⟩
def PWR_TLIMS_SWARN : Fld := ⟨R.PWR_TLIMS, 0, 8⟩
def PWR_TLIMS_STHROT : Fld := ⟨R.PWR_TLIMS, 8, 8⟩
def PWR_TLIMS_STRIP : Fld := ⟨R.PWR_TLIMS, 16, 8⟩
def PWR_THYST_HYST : Fld := ⟨R.PWR_THYST, 0, 4⟩
def PWR_THYST_STEPDN : Fld := ⟨R.PWR_THYST, 4, 8⟩
def PWR_THYST_STEPUP : Fld := ⟨R.PWR_THYST, 12, 8⟩
def PWR_THOT_TEMP : Fld := ⟨R.PWR_THOT, 0, 11⟩
def PWR_THOT_SENSOR : Fld := ⟨R.PWR_THOT, 16, 8⟩
def PWR_CNT_THROTTLE_COUNT : Fld := ⟨R.PWR_CNT_THROTTLE, 0, 32⟩
def PWR_CNT_CRIT_COUNT : Fld := ⟨R.PWR_CNT_CRIT, 0, 32⟩
def PWR_CNT_CLR_CLR : Fld := ⟨R.PWR_CNT_CLR, 0, 1⟩
def CLK_STG_TARGET_MHZ : Fld := ⟨R.CLK_STG_TARGET, 0, 12⟩
def CLK_STG_STATUS_CUR : Fld := ⟨R.CLK_STG_STATUS, 0, 12⟩
def CLK_STG_STATUS_CAP : Fld := ⟨R.CLK_STG_STATUS, 16, 12⟩
def CLK_STG_STATUS_SLEW : Fld := ⟨R.CLK_STG_STATUS, 28, 1⟩
def CLK_STG_MV_MV : Fld := ⟨R.CLK_STG_MV, 0, 10⟩
def CLK_SSC_STG : Fld := ⟨R.CLK_SSC, 0, 2⟩
def CLK_SSC_QCK : Fld := ⟨R.CLK_SSC, 2, 2⟩
def CLK_SSC_PCK : Fld := ⟨R.CLK_SSC, 4, 2⟩
def CLK_SSC_MCK : Fld := ⟨R.CLK_SSC, 6, 2⟩
def CLK_CTAG_TAG : Fld := ⟨R.CLK_CTAG, 0, 8⟩
def CLK_COMMIT_TAG : Fld := ⟨R.CLK_COMMIT, 0, 8⟩
def CLK_COMMIT_PENDING : Fld := ⟨R.CLK_COMMIT, 8, 1⟩
def CLK_VDDSTG_REQ : Fld := ⟨R.CLK_VDDSTG, 0, 10⟩
def CLK_VSETTLE_US : Fld := ⟨R.CLK_VSETTLE, 0, 8⟩
def CLK_LOCK_LOCKED : Fld := ⟨R.CLK_LOCK, 0, 32⟩
def CLK_CNT_UNLOCK_COUNT : Fld := ⟨R.CLK_CNT_UNLOCK, 0, 32⟩
def CAL_BOOT_STAGE : Fld := ⟨R.CAL_BOOT, 0, 3⟩
def CAL_BOOT_TIME_US : Fld := ⟨R.CAL_BOOT_TIME, 0, 32⟩
def CAL_STATUS_VALID : Fld := ⟨R.CAL_STATUS, 0, 1⟩
def CAL_STATUS_MISSING : Fld := ⟨R.CAL_STATUS, 1, 1⟩
def CAL_STATUS_CHECK : Fld := ⟨R.CAL_STATUS, 2, 4⟩
def CAL_STATUS_OFFSET : Fld := ⟨R.CAL_STATUS, 8, 16⟩
def CAL_STATUS_BUSY : Fld := ⟨R.CAL_STATUS, 24, 1⟩
def CAL_CRC_CRC : Fld := ⟨R.CAL_CRC, 0, 32⟩
def CAL_CNT_WRITE_COUNT : Fld := ⟨R.CAL_CNT_WRITE, 0, 32⟩
def CUE_ENT_TIME_LO_WORD : Fld := ⟨R.CUE_ENT_TIME_LO, 0, 32⟩
def CUE_ENT_TIME_HI_WORD : Fld := ⟨R.CUE_ENT_TIME_HI, 0, 32⟩
def CUE_ENT_ACT_WORD : Fld := ⟨R.CUE_ENT_ACT, 0, 32⟩
def CUE_ENT_ARG_WORD : Fld := ⟨R.CUE_ENT_ARG, 0, 32⟩
def ACC_FMC_LO_FIRST : Fld := ⟨R.ACC_FMC_LO, 0, 20⟩
def ACC_FMC_HI_LAST : Fld := ⟨R.ACC_FMC_HI, 0, 20⟩
def ACC_FMC_HI_VALID : Fld := ⟨R.ACC_FMC_HI, 31, 1⟩
def ACC_FMC_CTAG_TAG : Fld := ⟨R.ACC_FMC_CTAG, 0, 8⟩
def ACC_FMC_COMMIT_TAG : Fld := ⟨R.ACC_FMC_COMMIT, 0, 8⟩
def ACC_FMC_COMMIT_PENDING : Fld := ⟨R.ACC_FMC_COMMIT, 8, 1⟩
def CLK_CNT_UNLOCK_CLR_CLR : Fld := ⟨R.CLK_CNT_UNLOCK_CLR, 0, 1⟩

end F

/-- The registers of a block, for finding one by its offset. -/
def Blk.regs : Blk → List Reg
  | .DEV => [R.DEV_IDENT, R.DEV_REVISION, R.DEV_SCALE_VERSION, R.DEV_SCALE_GEN, R.DEV_SCALE_CLUSTERS, R.DEV_SCALE_SPARES, R.DEV_SCALE_PRESENT, R.DEV_SCALE_ADEPTH, R.DEV_SCALE_VLANES, R.DEV_SCALE_SCRATCH, R.DEV_SCALE_FLAGS, R.DEV_SCALE_MOPS, R.DEV_SCALE_STACKS, R.DEV_SCALE_STACKMIB, R.DEV_SCALE_STACKOK, R.DEV_SCALE_LANES, R.DEV_SCALE_PORTS, R.DEV_SCALE_CONTEXTS, R.DEV_SCALE_MEMBERS, R.DEV_SCALE_FMAX, R.DEV_SCALE_POOLS, R.DEV_SCALE_POOLCH, R.DEV_SCALE_AWIDTH, R.DEV_JOB_SEED_LO, R.DEV_JOB_SEED_HI, R.DEV_JOB_STEP_LO, R.DEV_JOB_STEP_HI, R.DEV_JOB_ADVANCE]
  | .HIF => [R.HIF_DB_SQ, R.HIF_DB_CQ, R.HIF_DB_EVQ, R.HIF_STATUS, R.HIF_WIN_LO, R.HIF_WIN_HI, R.HIF_EVQ_BASE_LO, R.HIF_EVQ_BASE_HI, R.HIF_EVQ_CFG, R.HIF_EVQ_STATUS, R.HIF_EVQ_MOD, R.HIF_CNT_BADDB, R.HIF_CNT_EVDROP, R.HIF_CNT_HOSTERR, R.HIF_CNT_CLR, R.HIF_SQBASE_LO, R.HIF_SQBASE_HI, R.HIF_CQBASE_LO, R.HIF_CQBASE_HI, R.HIF_RCFG, R.HIF_RMOD, R.HIF_RSTATUS, R.HIF_RCQ]
  | .ACC => [R.ACC_ENT_MID, R.ACC_ENT_BASE, R.ACC_ENT_LIMIT, R.ACC_ENT_CTL, R.ACC_TBL_CTAG, R.ACC_TBL_COMMIT, R.ACC_TBL_STATUS, R.ACC_TBL_DENYCNT, R.ACC_TBL_DENYMID, R.ACC_TBL_DENYLO, R.ACC_TBL_DENYHI]
  | .ACCG => [R.ACC_FMC_LO, R.ACC_FMC_HI, R.ACC_FMC_CTAG, R.ACC_FMC_COMMIT]
  | .SEC => [R.SEC_STATUS, R.SEC_SVN, R.SEC_ARB, R.SEC_UID, R.SEC_VKHASH, R.SEC_DKHASH, R.SEC_UPD_ADDR_LO, R.SEC_UPD_ADDR_HI, R.SEC_UPD_LEN, R.SEC_UPD_CTL, R.SEC_UPD_STATUS, R.SEC_PUSH_CTL, R.SEC_PUSH_STATUS, R.SEC_DBG_NONCE, R.SEC_DBG_CTL, R.SEC_DBG_TOKEN]
  | .PWR => [R.PWR_DOM, R.PWR_TS, R.PWR_TLIM, R.PWR_TLIMS, R.PWR_THYST, R.PWR_THOT, R.PWR_CNT_THROTTLE, R.PWR_CNT_CRIT, R.PWR_CNT_CLR]
  | .CLK => [R.CLK_STG_TARGET, R.CLK_STG_STATUS, R.CLK_STG_MV, R.CLK_SSC, R.CLK_CTAG, R.CLK_COMMIT, R.CLK_VDDSTG, R.CLK_VSETTLE, R.CLK_LOCK, R.CLK_CNT_UNLOCK, R.CLK_CNT_UNLOCK_CLR]
  | .CAL => [R.CAL_BOOT, R.CAL_BOOT_TIME, R.CAL_STATUS, R.CAL_CRC, R.CAL_CNT_WRITE]
  | .ERR => [R.ERR_CFG, R.ERR_REJ, R.ERR_REJMID, R.ERR_LDRIFT, R.ERR_UFAIL, R.ERR_CNT_SWITCHIN, R.ERR_CNT_MISSING, R.ERR_CNT_E2EEGR, R.ERR_CNT_LDRIFT, R.ERR_CNT_FWDREPAIR, R.ERR_CNT_CLR, R.ERR_LASTUNIT, R.ERR_UELOG0, R.ERR_UELOG1, R.ERR_UELOG2, R.ERR_SLOTFAIL, R.ERR_CE, R.ERR_UE]
  | .TEL => [R.TEL_Q_CFG, R.TEL_Q_DEPTH, R.TEL_Q_HWDEPTH, R.TEL_Q_HWSOJ, R.TEL_Q_CTL]
  | .TELF => [R.TEL_SFIFO_LO, R.TEL_SFIFO_HI, R.TEL_SFIFO_STATUS]
  | .TIME => [R.TIME_CTL, R.TIME_TIDEPORT, R.TIME_INT, R.TIME_ASYM, R.TIME_STATUS, R.TIME_GMID, R.TIME_OFFSET, R.TIME_DELAY, R.TIME_FREQ, R.TIME_NOW_LO, R.TIME_NOW_HI, R.TIME_NOW_FRAC, R.TIME_SET_LO, R.TIME_SET_HI, R.TIME_SETCTL, R.TIME_CTAG, R.TIME_COMMIT, R.TIME_PPSOUT, R.TIME_PPSOFS, R.TIME_PPSIN_LO, R.TIME_PPSIN_HI, R.TIME_CNT_SYNCRX, R.TIME_CNT_REJECT, R.TIME_CNT_STEP, R.TIME_CNT_CLR]
  | .CUE => [R.CUE_CTL, R.CUE_PERIOD_LO, R.CUE_PERIOD_HI, R.CUE_CTAG, R.CUE_COMMIT, R.CUE_STATUS, R.CUE_CNT_FIRED, R.CUE_CNT_LATE, R.CUE_CNT_SKIP, R.CUE_CNT_NOTARGET, R.CUE_CNT_CLR, R.CUE_ENT_TIME_LO, R.CUE_ENT_TIME_HI, R.CUE_ENT_ACT, R.CUE_ENT_ARG]
  | .CURT => [R.CURT_MEM, R.CURT_CFG, R.CURT_TMO, R.CURT_CTAG, R.CURT_COMMIT, R.CURT_ARR, R.CURT_STATUS, R.CURT_CNT_BADARR, R.CURT_CLR]
  | .PORT => [R.PORT_CTL, R.PORT_STATUS, R.PORT_RETRY, R.PORT_CRED, R.PORT_CRED8, R.PORT_TXCRED, R.PORT_CNT_FECCORR, R.PORT_CNT_FECUNC, R.PORT_CNT_REPLAY, R.PORT_CNT_NAK, R.PORT_CNT_RETRAIN, R.PORT_CNT_ABORTTX, R.PORT_CNT_ABORTRX, R.PORT_CNT_PROTERR, R.PORT_CNT_CLOSEDDROP, R.PORT_CNT_DOWNSHIFT, R.PORT_CNT_REPLAYLOST, R.PORT_CNT_CLR]
  | .LINK => [R.LINK_CFG, R.LINK_STATUS, R.LINK_TXEQ, R.LINK_CNT_SYMERR, R.LINK_SERTHR, R.LINK_QMODE, R.LINK_BD_CTAG, R.LINK_BD_COMMIT]
  | .FWD => [R.FWD_CTL, R.FWD_SELF, R.FWD_CTAG, R.FWD_COMMIT, R.FWD_IND_SEL, R.FWD_IND_DATA, R.FWD_STAGE, R.FWD_CNT_NOROUTE, R.FWD_CNT_HDRERR, R.FWD_CNT_CRCERR, R.FWD_CNT_FENCEDROP, R.FWD_CNT_EPFENCE, R.FWD_CNT_CMARK, R.FWD_CNT_CMRX, R.FWD_CNT_THROTTLE, R.FWD_CNT_CLR, R.FWD_LASTDROP, R.FWD_CMTHR, R.FWD_THRTL, R.FWD_THRTL_INT, R.FWD_PFENCE, R.FWD_PFENCEH, R.FWD_DETJOB, R.FWD_PORTJOB]
  | .BUF => [R.BUF_AUDIT, R.BUF_AUDIT_STATUS, R.BUF_P0_LOWCLS, R.BUF_CNT_MCREP, R.BUF_CNT_MCFENCE, R.BUF_CNT_NOBUF, R.BUF_CNT_SLICESKIP, R.BUF_CNT_SLICEHOLD, R.BUF_CNT_CLR, R.BUF_SLICEFREE]
  | .POOL => [R.POOL_CTL, R.POOL_COUNT, R.POOL_RBASE_LO, R.POOL_RBASE_HI, R.POOL_CBASE_LO, R.POOL_CBASE_HI, R.POOL_CTAG, R.POOL_COMMIT, R.POOL_WARN, R.POOL_PLOW, R.POOL_PALL, R.POOL_HYST, R.POOL_STATUS, R.POOL_FREE, R.POOL_MINFREE, R.POOL_INCDIFF, R.POOL_CNT_ALLOC, R.POOL_CNT_WAIT, R.POOL_CNT_DFREE, R.POOL_CNT_WRONGOWN, R.POOL_CNT_RANGE, R.POOL_CNT_REFOVF, R.POOL_CNT_LEAK, R.POOL_CNT_RECLAIM, R.POOL_ERR_BUF, R.POOL_ERR_OWN]
  | .SCHED => [R.SCHED_CTAG, R.SCHED_COMMIT, R.SCHED_QUANT, R.SCHED_SHRATE, R.SCHED_SHBURST, R.SCHED_SHCRED, R.SCHED_MRATE, R.SCHED_MBURST, R.SCHED_CNT_MTRDROP, R.SCHED_CNT_GUARD, R.SCHED_CNT_GATEOVR, R.SCHED_CNT_CLR]
  | .GATE => [R.GATE_CTL, R.GATE_BASE_LO, R.GATE_BASE_HI, R.GATE_CTAG, R.GATE_COMMIT, R.GATE_STATUS, R.GATE_CYCLE, R.GATE_ENT]
  | .COLL => [R.COLL_CTL, R.COLL_STATE, R.COLL_DESC0, R.COLL_DESC1, R.COLL_STEP, R.COLL_LASTST, R.COLL_PROG, R.COLL_EARLY, R.COLL_STRAG, R.COLL_LASTIN, R.COLL_CNT_INST, R.COLL_CNT_ERR, R.COLL_CNT_FENCED, R.COLL_CNT_BADPKT, R.COLL_BADREC, R.COLL_CNT_CLR, R.COLL_SUSPECT, R.COLL_LIST, R.COLL_ARRORD]
  | .XRED => [R.XRED_STATUS, R.XRED_HWLAT, R.XRED_CNT_INST, R.XRED_CNT_EXACT, R.XRED_CNT_LANEHOLD, R.XRED_CNT_CLR]
  | .CLU => [R.CLU_STATUS, R.CLU_CTL, R.CLU_SLEEP, R.CLU_WDOG, R.CLU_PROG_LO, R.CLU_PROG_HI, R.CLU_PROG_CRC, R.CLU_REH, R.CLU_PC, R.CLU_QSTAT, R.CLU_MOVE, R.CLU_CNT_MOPS, R.CLU_CNT_WAKE, R.CLU_CNT_RETAIN, R.CLU_CNT_REHFAIL, R.CLU_CNT_CLR]
  | .ARR => [R.ARR_STATUS, R.ARR_BYPASS0, R.ARR_BYPASS1, R.ARR_CFG, R.ARR_CTAG, R.ARR_COMMIT, R.ARR_DIAGREC, R.ARR_CNT_STREAM, R.ARR_CNT_LOWLAT, R.ARR_CNT_TWOPASS, R.ARR_CNT_BUBBLE, R.ARR_CNT_NEXTLOST, R.ARR_CNT_DENSE, R.ARR_CNT_MISMATCH, R.ARR_CNT_RETRY, R.ARR_CNT_DIAG, R.ARR_CNT_CLR]
  | .STK => [R.STK_STATUS, R.STK_CFG, R.STK_CTAG, R.STK_COMMIT, R.STK_RECENTRE, R.STK_TRAIN, R.STK_FENCE, R.STK_SCRUB, R.STK_CACHEOP, R.STK_CACHEOP_BASE, R.STK_CACHEOP_LIMIT, R.STK_UELOG_LO, R.STK_UELOG_HI, R.STK_CNT_CE, R.STK_CNT_UE, R.STK_CNT_ODECC, R.STK_CNT_HIT, R.STK_CNT_MISS, R.STK_CNT_WB, R.STK_CNT_PROTEVICT, R.STK_CNT_LASTDROP, R.STK_CNT_FENCELOST, R.STK_CNT_FENCEERR, R.STK_CNT_DRIFT, R.STK_CNT_RETRAIN, R.STK_CNT_CLR, R.STK_PCH]

end Sys2Proof.Machine
end

