-- ==== Sys2Proof/Machine/RegFile.lean ====
section
/-! DEFINITION. The register file: reset words, reads and writes of registers and named fields, saturating counters,
the rejection record (R506) and events (R486, R487). -/

namespace Sys2Proof.Machine

/-- The word that the literal reset values of a register's fields spell. -/
def Reg.literal (r : Reg) : Nat :=
  r.fields.foldl (fun n f => n + (f.rst % 2 ^ f.width) <<< f.lo) 0

/-- First address of the lowest range of target `t`, for the reset window (R46, R52). -/
def targetFirst (t : Nat) : Nat :=
  if t < 20 then t * 0x1000000000
  else if t < 100 then 0x40000000000 + (t - 20) * 0x1000000
  else if t = 107 then 0x48000000000
  else
    0x7F0000000000 + (match t with
      | 100 => 0 | 101 => 0x400000 | 102 => 0x600000 | 103 => 0x800000
      | 104 => 0x1000000 | 105 => 0x2000000 | _ => 0x3000000)

/-- First address of the last page of the highest range of target `t` (R46, R52). -/
def targetLast (t : Nat) : Nat :=
  if t < 20 then t * 0x1000000000 + 0xFFFFFF000
  else if t < 100 then 0x50000000000 + (t - 20) * 0x100000 + 0xFF000
  else if t = 107 then 0x58000000000 + 99 * 0x100000 + 0xFF000
  else
    0x7F0000000000 + (match t with
      | 100 => 0x3FF000 | 101 => 0x5FF000 | 102 => 0x7FF000 | 103 => 0xFFF000
      | 104 => 0x1FFF000 | 105 => 0x2FFF000 | _ => 0x3FFF000)

/-- The reset word of an entry register of an access table: entry 0 is the reset entry of R52 (CTL: RD, WR, PL and VALID). -/
def accReset (off t : Nat) : Nat :=
  match off with
  | 0x0 => 0x004000
  | 0x4 => fieldOf (targetFirst t) 12 32
  | 0x8 => fieldOf (targetLast t) 12 32
  | _ => fieldOf (targetFirst t) 44 4 + fieldOf (targetLast t) 44 4 * 16 + 0x80000700

/-- The reset word of a pool 0 register (R151). -/
def poolZeroReset (off : Nat) : Option Nat :=
  match off with
  | 0x000 => some 0x1F1
  | 0x004 => some 0x1E0000
  | 0x020 => some 0x0A0000
  | 0x024 => some 0x080000
  | 0x028 => some 0x070000
  | 0x02C => some 0x004000
  | 0x040 => some 0x1
  | _ => none

/-- The reset word of register `r`, instance `i`, row index `j`: the literal one, or where the spec's Reset column
names a rule, that rule's: R52 for access tables, 48 credit units per lane of the default layout (R96, R29), the ROM
transmit preset 4, 48, 8 (R581, R552), pool 0 (R151). Values the spec calls fused or per boot are those that log entry 5
names. -/
def resetWord (r : Reg) (i j : Nat) : Nat :=
  match r.blk with
  | .ACC => if r.off < 0x10 ∧ j = 0 then accReset r.off i else r.literal
  | .PORT => if r.off = 0x10 then (if i < 256 then 192 else 0) else r.literal
  | .LINK => if r.off = 0x8 then 4 + 48 <<< 8 + 8 <<< 16 else r.literal
  | .POOL => if i = 0 then (poolZeroReset r.off).getD r.literal else r.literal
  | .CLU => if r.off = 0x0 then r.literal + 1 + (i % 4) <<< 4 else r.literal
  | .CLK => r.literal
  | _ => r.literal

/-- The active word of a register (R13). -/
def State.rd (s : State) (r : Reg) (i j : Nat) : Nat :=
  match lookup s.regs (r.addr i j) with
  | some w => w.toNat
  | none => resetWord r i j

/-- Sets the active word of a register; the store keeps no entry equal to its reset word. -/
def State.wr (s : State) (r : Reg) (i j v : Nat) : State :=
  { s with regs := put s.regs (r.addr i j) (BitVec.ofNat 32 v) (BitVec.ofNat 32 (resetWord r i j)) }

/-- The shadow word of a class C register (R16); an absent entry is the active word. -/
def State.rdShadow (s : State) (r : Reg) (i j : Nat) : Nat :=
  match lookup s.shadow (r.addr i j) with
  | some w => w.toNat
  | none => s.rd r i j

/-- Sets the shadow word of a class C register. -/
def State.wrShadow (s : State) (r : Reg) (i j v : Nat) : State :=
  { s with shadow := place s.shadow (r.addr i j) (BitVec.ofNat 32 v) }

/-- A named field, of instance `i` and row index `j`. -/
def State.get (s : State) (f : Fld) (i : Nat := 0) (j : Nat := 0) : Nat :=
  fieldOf (s.rd f.reg i j) f.lo f.width

/-- A named one-bit field. -/
def State.flag (s : State) (f : Fld) (i : Nat := 0) (j : Nat := 0) : Bool := s.get f i j != 0

/-- Sets a named field and leaves the register's other bits. -/
def State.set (s : State) (f : Fld) (v : Nat) (i : Nat := 0) (j : Nat := 0) : State :=
  s.wr f.reg i j (withField (s.rd f.reg i j) f.lo f.width v)

/-- Adds to a counter field, which saturates. -/
def State.bump (s : State) (f : Fld) (n : Nat := 1) (i : Nat := 0) (j : Nat := 0) : State :=
  s.set f (saturate f.width (s.get f i j + n)) i j

/-- Returns a register to zero, as the counter-clear commands do. -/
def State.zero (s : State) (r : Reg) (i : Nat := 0) (j : Nat := 0) : State := s.wr r i j 0

/-- Returns registers of one instance to zero. -/
def State.zeroAll (s : State) (rs : List Reg) (i : Nat := 0) : State :=
  rs.foldl (fun t r => iterate r.cnt (fun j u => u.zero r i j) t) s

/-- A rejected write or commit (R506): REJECT is set, and the first since it was clear records the offset and master. -/
def State.reject (s : State) (mid off : Nat) : State :=
  if s.flag F.ERR_CFG_REJECT then s
  else ((s.set F.ERR_CFG_REJECT 1).set F.ERR_REJ_OFFSET off).set F.ERR_REJMID_MID mid

/-- Fabric time in whole ns (R172). -/
def State.nowNs (s : State) : Nat := s.fabTime / 65536

/-- A record for the event queue: a full queue drops it and counts it (R486, R432); SEQ counts it either way (R487). It is
discarded between a loss of the PCIe link and the next enable of the event ring (R467). -/
def State.event (s : State) (source typ job unit : Nat) (payload : List Nat) : State :=
  let e : EventRec := ⟨source, typ, job, unit, s.nowNs,
    (payload ++ List.replicate 10 0).take 10 |>.map (BitVec.ofNat 32), s.eventSeq % 2 ^ 32⟩
  let s := { s with eventSeq := s.eventSeq + 1 }
  if s.hif.ev.mute then s
  else if s.events.items.length < 256 then { s with events.items := s.events.items ++ [e] }
  else { (s.bump F.HIF_CNT_EVDROP_COUNT) with events.gap := saturate 32 (s.events.gap + 1) }

/-- Removes the oldest event; a pending gap count becomes a GAP record in the freed entry (R432, R486). -/
def State.eventPop (s : State) : State :=
  let rest := s.events.items.tail
  if s.events.gap = 0 then { s with events.items := rest }
  else
    let g : EventRec := ⟨0x0F, 0, 0, 0, s.nowNs,
      (BitVec.ofNat 32 s.events.gap) :: List.replicate 9 0, s.eventSeq % 2 ^ 32⟩
    { s with events := ⟨rest ++ [g], 0⟩, eventSeq := s.eventSeq + 1 }

/-- An uncorrectable word of a memory class (R489): counted, the first is logged, and the first since ERR_CNT_CLR raises
an event (R504). -/
def State.uncorrectable (s : State) (cls unit addr : Nat) : State :=
  let s := s.bump F.ERR_UE_COUNT 1 0 cls
  let s := if s.flag F.ERR_UELOG0_VALID then s
    else
      let s := ((s.set F.ERR_UELOG0_CLASS cls).set F.ERR_UELOG0_UNIT unit).set F.ERR_UELOG0_VALID 1
      (s.wr R.ERR_UELOG1 0 0 addr).wr R.ERR_UELOG2 0 0 (addr / 2 ^ 32 % 65536)
  if s.flag F.ERR_CFG_UEFIRST then s
  else
    (s.set F.ERR_CFG_UEFIRST 1).event 0x0B 3 0 unit
      [s.rd R.ERR_UELOG0 0 0, s.rd R.ERR_UELOG1 0 0, s.rd R.ERR_UELOG2 0 0]

/-- A read meets the words of protected storage that `at_` names (R489): a corrected word is written back and counted in its class; an
uncorrectable one is counted, logged with `addr`, and stays. Answers whether one was met. -/
def State.touch (s : State) (cls unit addr : Nat) (at_ : Spot → Bool) : Bool × State :=
  let met := s.upsets.filter fun u => at_ u.spot
  if met.isEmpty then (false, s)
  else
    let s := { s with upsets := s.upsets.filter fun u => u.bad || !at_ u.spot }
    met.foldl (fun (b, t) u => if u.bad then (true, t.uncorrectable cls unit addr) else (b, t.bump F.ERR_CE_COUNT 1 0 cls)) (false, s)

/-- A whole word that is written holds no error any more. -/
def State.heal (s : State) (at_ : Spot → Bool) : State := { s with upsets := s.upsets.filter fun u => !at_ u.spot }

/-- Puts out one item. -/
def State.emit (s : State) (o : Out) : State := { s with out := o :: s.out }

/-- AON ticks since `t0`; a tick is 10 ns (R173). -/
def State.elapsed (s : State) (t0 : Nat) : Nat := s.ticks - t0

/-- Whether at least `us` µs have passed since tick `t0`. -/
def State.passedUs (s : State) (t0 us : Nat) : Bool := decide (us * 100 ≤ s.elapsed t0)

/-- The next number of a free value; numbers are never used twice. -/
def State.fresh (s : State) : Nat × State := (s.freeCtr, { s with freeCtr := s.freeCtr + 1 })

end Sys2Proof.Machine
end

