-- ==== Sys2Proof/Machine/Commit.lean ====
section
/-! DEFINITION. Finding a register by its BAR0 offset (R42), and the commit machinery of class C fields (R16 to R18):
the registers of each commit group, arming, and applying or refusing a shadow. -/

namespace Sys2Proof.Machine

/-- What a command answers. -/
abbrev Res := Host.Outcome State Fault Refusal

/-- The command took effect, or its event could not occur and nothing changed. -/
def ok (s : State) : Res := .next s

/-- The block that holds BAR0 offset `o` (R42). -/
def blkOf (o : Nat) : Option Blk :=
  if o < 0x100000 then some .DEV
  else if o < 0x200000 then some .HIF
  else if o < 0x236000 then some .ACC
  else if o < 0x300000 then some .ACCG
  else if o < 0x340000 then some .SEC
  else if o < 0x380000 then some .PWR
  else if o < 0x3C0000 then some .CLK
  else if o < 0x400000 then some .CAL
  else if o < 0x500000 then some .ERR
  else if o < 0x524000 then some .TEL
  else if o < 0x600000 then some .TELF
  else if o < 0x680000 then some .TIME
  else if o < 0x780000 then some .CUE
  else if o < 0x800000 then some .CURT
  else if o < 0x900000 then some .PORT
  else if o < 0xA00000 then some .LINK
  else if o < 0xB00000 then some .FWD
  else if o < 0xB80000 then some .BUF
  else if o < 0xC00000 then some .POOL
  else if o < 0xE00000 then some .SCHED
  else if o < 0x1000000 then some .GATE
  else if o < 0x1800000 then some .COLL
  else if o < 0x2000000 then some .XRED
  else if o < 0x2800000 then some .CLU
  else if o < 0x3000000 then some .ARR
  else if o < 0x4000000 then some .STK
  else none

/-- The LINK registers that only some lanes have (R97). -/
def linkPresent (r : Reg) (lane : Nat) : Bool :=
  if r.off = 0x20 then lane % 4 = 0
  else if r.off = 0x30 ∨ r.off = 0x34 then lane % 64 = 0
  else true

/-- Row `j` of register `r` at offset `off` within its instance, if it lies there. -/
def Reg.row (r : Reg) (off : Nat) : Option Nat :=
  if r.off ≤ off ∧ (off - r.off) % r.step = 0 ∧ (off - r.off) / r.step < r.cnt then some ((off - r.off) / r.step)
  else none

/-- The first register of a list that lies at an offset, with its row. -/
def findRow : List Reg → Nat → Option (Reg × Nat)
  | [], _ => none
  | r :: rs, off =>
    match r.row off with
    | some j => some (r, j)
    | none => findRow rs off

/-- The register at BAR0 offset `o`: descriptor, instance and row; none for a reserved offset (R42, R12). -/
def findReg (o : Nat) : Option (Reg × Nat × Nat) :=
  match blkOf o with
  | none => none
  | some b =>
    let i := (o - b.base) / b.stride
    if i < b.count then
      match findRow b.regs ((o - b.base) % b.stride) with
      | some (r, j) => if b = .LINK ∧ linkPresent r i = false then none else some (r, i, j)
      | none => none
    else none

/-- The CTAG and COMMIT registers of a group, and their instance (R16). -/
def groupRegs : CommitGroup → Reg × Reg × Nat
  | .acc t => (R.ACC_TBL_CTAG, R.ACC_TBL_COMMIT, t.val)
  | .fmc => (R.ACC_FMC_CTAG, R.ACC_FMC_COMMIT, 0)
  | .layout b => (R.LINK_BD_CTAG, R.LINK_BD_COMMIT, 64 * b.val)
  | .fwd => (R.FWD_CTAG, R.FWD_COMMIT, 0)
  | .pool k => (R.POOL_CTAG, R.POOL_COMMIT, k.val)
  | .sched p => (R.SCHED_CTAG, R.SCHED_COMMIT, p.val)
  | .gate p => (R.GATE_CTAG, R.GATE_COMMIT, p.val)
  | .time => (R.TIME_CTAG, R.TIME_COMMIT, 0)
  | .cue e => (R.CUE_CTAG, R.CUE_COMMIT, e.val)
  | .curt l => (R.CURT_CTAG, R.CURT_COMMIT, l.val)
  | .arr c => (R.ARR_CTAG, R.ARR_COMMIT, c.val)
  | .stk n => (R.STK_CTAG, R.STK_COMMIT, n.val)
  | .clk => (R.CLK_CTAG, R.CLK_COMMIT, 0)

/-- The BAR0 range that holds a group's class C registers: first offset, and offset after the last. -/
def groupRange : CommitGroup → Nat × Nat
  | .acc t => (0x200000 + t.val * 0x800, 0x200000 + t.val * 0x800 + 0x400)
  | .fmc => (0x240000, 0x240200)
  | .layout b => (0x900000 + b.val * 0x10000, 0x900000 + (b.val + 1) * 0x10000)
  | .fwd => (0xA00000, 0xB00000)
  | .pool k => (0xB80000 + k.val * 0x4000, 0xB80000 + (k.val + 1) * 0x4000)
  | .sched p => (0xC00000 + p.val * 0x1000, 0xC00000 + (p.val + 1) * 0x1000)
  | .gate p => (0xE00000 + p.val * 0x1000, 0xE00000 + (p.val + 1) * 0x1000)
  | .time => (0x600000, 0x680000)
  | .cue e => (0x680000 + e.val * 0x2000, 0x680000 + (e.val + 1) * 0x2000)
  | .curt l => (0x780000 + l.val * 0x100, 0x780000 + (l.val + 1) * 0x100)
  | .arr c => (0x2800000 + c.val * 0x10000, 0x2800000 + (c.val + 1) * 0x10000)
  | .stk n => (0x3000000 + n.val * 0x80000, 0x3000000 + (n.val + 1) * 0x80000)
  | .clk => (0x380000, 0x3C0000)

/-- The group that owns the class C fields of register `r`, instance `i`. -/
def groupOf (r : Reg) (i : Nat) : Option CommitGroup :=
  match r.blk with
  | .ACC => if h : i < 108 then some (.acc ⟨i, h⟩) else none
  | .ACCG => some .fmc
  | .LINK => if h : i / 64 < 16 then some (.layout ⟨i / 64, h⟩) else none
  | .FWD => some .fwd
  | .POOL => if h : i < 17 then some (.pool ⟨i, h⟩) else none
  | .SCHED => if h : i < 512 then some (.sched ⟨i, h⟩) else none
  | .GATE => if h : i < 512 then some (.gate ⟨i, h⟩) else none
  | .TIME => some .time
  | .CUE => if h : i < 116 then some (.cue ⟨i, h⟩) else none
  | .CURT => if h : i < 32 then some (.curt ⟨i, h⟩) else none
  | .ARR => if h : i < 80 then some (.arr ⟨i, h⟩) else none
  | .STK => if h : i < 20 then some (.stk ⟨i, h⟩) else none
  | .CLK => some .clk
  | _ => none

/-- Offset of a group's COMMIT register. -/
def commitOff (g : CommitGroup) : Nat :=
  let (_, c, i) := groupRegs g
  c.addr i 0

/-- PENDING of a group (R16). -/
def State.armed (s : State) (g : CommitGroup) : Bool :=
  let (_, c, i) := groupRegs g
  (s.rd c i 0).testBit 8

/-- Sets PENDING of a group. -/
def State.setPending (s : State) (g : CommitGroup) (b : Bool) : State :=
  let (_, c, i) := groupRegs g
  s.wr c i 0 (b2n b <<< 8)

/-- The tag a group's CTAG register holds. -/
def State.ctag (s : State) (g : CommitGroup) : Nat :=
  let (t, _, i) := groupRegs g
  s.rd t i 0 % 256

/-- A write of `tag` to a group's COMMIT register by master `mid` (R16 to R18): no effect while PENDING, rejected where
the tag differs, else the shadow is armed. -/
def armCommit (g : CommitGroup) (mid tag : Nat) (s : State) : State :=
  if s.armed g then s
  else if tag % 256 = s.ctag g then
    { s.setPending g true with armedBy := place s.armedBy (commitOff g) mid }
  else s.reject mid (commitOff g)

/-- The class C fields of a register taken from a shadow word, its other fields as they stand (R16). -/
def mergeShadow (r : Reg) (active shadow : Nat) : Nat :=
  r.fields.foldl (fun w f =>
    if f.acc = .rwC then withField w f.lo f.width (fieldOf shadow f.lo f.width) else w) active

/-- One shadow word becomes active, by its BAR0 offset. -/
def State.applyAt (s : State) (o v : Nat) : State :=
  match findReg o with
  | some (r, i, j) => s.wr r i j (mergeShadow r (s.rd r i j) v)
  | none => s

/-- Copies the shadow words of a range to the active words, and drops them from the shadow. -/
def applyShadow (lo hi : Nat) (s : State) : State :=
  let mine := s.shadow.filter fun e => lo ≤ e.1 && e.1 < hi
  let s := mine.foldl (fun t e => t.applyAt e.1 e.2.toNat) s
  { s with shadow := s.shadow.filter fun e => !(lo ≤ e.1 && e.1 < hi) }

/-- The armed shadow of a group is applied whole and PENDING returns to 0 (R16). -/
def commitApplied (g : CommitGroup) (s : State) : State :=
  let (lo, hi) := groupRange g
  (applyShadow lo hi s).setPending g false

/-- The armed shadow of a group is refused by the block's check: it is kept, PENDING returns to 0 and REJECT is set with
the COMMIT register's offset (R17). -/
def commitRefused (g : CommitGroup) (s : State) : State :=
  let s := s.setPending g false
  s.reject ((lookup s.armedBy (commitOff g)).getD 0) (commitOff g)

/-- The owning enable of a register's class S fields as it stands (R15, R580); false where they have none. -/
def ownEnable (portOfLane : State → Nat → Option Nat) (r : Reg) (i j : Nat) (s : State) : Bool :=
  match r.blk with
  | .PORT => s.flag F.PORT_CTL_EN i
  | .LINK =>
    match portOfLane s i with
    | some p => s.flag F.PORT_CTL_EN p
    | none => false
  | .FWD => s.flag F.FWD_CTL_EN
  | .POOL => if i = 0 then false else s.flag F.POOL_CTL_EN i
  | .TIME => s.flag F.TIME_CTL_EN
  | .HIF => if r.off < 0x2000 then s.flag F.HIF_EVQ_CFG_EN else s.flag F.HIF_RCFG_EN 0 j
  | _ => false

/-- One field of a written word, judged under its class (R13, R15, R18, R580). `enabled` is the owning enable and
`pending` the group's PENDING before the write. Actions of WO, W1S and W1C fields are taken elsewhere. -/
def writeField (r : Reg) (i j mid v : Nat) (enabled pending : Bool) (s : State) (f : FieldDesc) : State :=
  let new := fieldOf v f.lo f.width
  match f.acc with
  | .rwL => s.wr r i j (withField (s.rd r i j) f.lo f.width new)
  | .rwS =>
    if enabled then
      if new = fieldOf (s.rd r i j) f.lo f.width then s else s.reject mid (r.addr i j)
    else s.wr r i j (withField (s.rd r i j) f.lo f.width new)
  | .rwC =>
    if pending then
      if new = fieldOf (s.rdShadow r i j) f.lo f.width then s else s.reject mid (r.addr i j)
    else s.wrShadow r i j (withField (s.rdShadow r i j) f.lo f.width new)
  | .roS | .roC | .roL | .woL | .w1sL | .w1cL => s

/-- A write of a word to a register, field by field (R580). -/
def writeFields (enabled : Bool) (r : Reg) (i j mid v : Nat) (s : State) : State :=
  let pending := match groupOf r i with
    | some g => s.armed g
    | none => false
  r.fields.foldl (writeField r i j mid v enabled pending) s

end Sys2Proof.Machine
end

