-- ==== Sys2Proof/Machine/Pools.lean ====
section
/-! DEFINITION. The pool manager's stores (R125 to R151): free stores and their caches, buffer state words, threshold states and the
credit they withhold, the error record, and the areas that a pool's configuration names. -/

namespace Sys2Proof.Machine

/-- Owner codes of R136. -/
def ownerIngress : Nat := 0x800
def ownerEgress : Nat := 0x801
def ownerDevRx : Nat := 0x802
def ownerAudit : Nat := 0x803

/-- Populated bytes of one stack (R8, R35). A reserved MEMOPT counts as LQ24 (DESIGN CHOICE, log entry 120). -/
def stackBytes (s : State) : Nat := if s.fuses.memopt = 1 then 36 * 2 ^ 30 else 24 * 2 ^ 30

/-- Pool `k`. -/
def State.pool (s : State) (k : Nat) : PoolSt :=
  (s.pools[k]?).getD ⟨[], [], [], []⟩

/-- Replaces pool `k`. -/
def State.setPool (s : State) (k : Nat) (p : PoolSt) : State :=
  { s with pools := s.pools.set k p }

/-- Buffers a free store holds (R133), and those of them that are in the ring. -/
def FreeStore.count (f : FreeStore) : Nat := f.limit - f.next + f.freed.length

def FreeStore.ring (f : FreeStore) : Nat := f.count - f.front - f.back

/-- The `i`-th oldest entry. -/
def FreeStore.entry (f : FreeStore) (i : Nat) : Nat :=
  if i < f.limit - f.next then f.next + i else f.freed.getD (i - (f.limit - f.next)) 0

/-- Whether a buffer is among the entries. -/
def FreeStore.holds (f : FreeStore) (b : Nat) : Bool := decide (f.next ≤ b ∧ b < f.limit) || f.freed.contains b

/-- A cache of fewer than 256 entries is refilled from the ring in lines of 16, and so is one whose oldest entries have all gone (R133). -/
def FreeStore.refill (f : FreeStore) : FreeStore :=
  if f.ring = 0 then { f with front := f.count, back := 0 }
  else if f.front + f.back < 256 ∨ f.front = 0 then
    { f with front := f.front + min f.ring (16 * max 1 (ceilDiv (256 - (f.front + f.back)) 16)) }
  else f

/-- A free store whose ring holds buffers 0 to `n - 1` in ascending order (R130). -/
def FreeStore.full (n : Nat) : FreeStore := FreeStore.refill ⟨0, n, [], false, 0, 0, ceilDiv n 16⟩

/-- The oldest buffer of a free store (R133): buffers are issued in the order they were freed, after those that were
never issued. -/
def FreeStore.take (f : FreeStore) : Option (Nat × FreeStore) :=
  if f.next < f.limit then some (f.next, FreeStore.refill { f with next := f.next + 1, front := f.front - 1 })
  else match f.freed with
    | [] => none
    | b :: rest => some (b, FreeStore.refill { f with freed := rest, front := f.front - 1 })

/-- The oldest buffer whose entry can be read; one that cannot is discarded (R489, class 7). -/
def FreeStore.takeGood (bad : Nat → Bool) : Nat → FreeStore → Option (Nat × FreeStore)
  | 0, f => f.take
  | fuel + 1, f =>
    match f.take with
    | some (b, f) => if bad b then f.takeGood bad fuel else some (b, f)
    | none => none

/-- A buffer appended to a free store (R133); a retired slice takes nothing back (R461). -/
def FreeStore.give (f : FreeStore) (b : Nat) : FreeStore :=
  if f.retired then f
  else if f.ring = 0 then { f with freed := f.freed ++ [b], front := f.front + 1 }
  else { f with freed := f.freed ++ [b], back := f.back + 1 }

/-- A cache of more than 768 entries spills a line of 16 (R133): those that follow the ring's. Answers the entries and the line of the ring
that they take. -/
def FreeStore.spill (f : FreeStore) : FreeStore × Option (List Nat × Nat) :=
  if f.front + f.back ≤ 768 then (f, none)
  else if f.ring = 0 then
    ({ f with front := f.count - 16, back := 0, line := f.line + 1 }, some (tabulate 16 fun i => f.entry (f.count - 16 + i), f.line))
  else ({ f with back := f.back - 16, line := f.line + 1 }, some (tabulate 16 fun i => f.entry (f.count - f.back + i), f.line))

/-- A state word's 32 bits (R135). -/
def BufWord.bits (w : BufWord) : Nat :=
  b2n w.alloc + w.sharers % 1024 * 2 + w.owner % 4096 * 2 ^ 11 + b2n w.age * 2 ^ 23 + w.job % 256 * 2 ^ 24

/-- Whether a pool has any buffer allocated. -/
def PoolSt.inUse (p : PoolSt) : Bool := p.words.any fun e => e.2.alloc

/-- Free buffers of a pool (R141). -/
def PoolSt.free (p : PoolSt) : Nat := p.stores.foldl (fun n f => n + f.count) 0

/-- Buffers of pool `k`, as its COUNT register says (R125, R151). -/
def poolSize (s : State) (k : Nat) : Nat := s.get F.POOL_COUNT_N k

/-- Threshold state codes (R141). -/
def poolState (s : State) (k : Nat) : Nat := s.get F.POOL_STATUS_STATE k

/-- The lowest state whose entry condition holds (R141). -/
def poolFallsTo (s : State) (k free : Nat) : Nat :=
  if free = 0 then 6
  else if free < s.get F.POOL_PALL_LEVEL k then 5
  else if free < s.get F.POOL_PLOW_LEVEL k then 4
  else if free < s.get F.POOL_WARN_LEVEL k then 3
  else 2

/-- Whether the state is left upward (R141). -/
def poolRises (s : State) (k free st : Nat) : Bool :=
  let hyst := s.get F.POOL_HYST_LEVEL k
  match st with
  | 6 => 1 ≤ free
  | 5 => s.get F.POOL_PALL_LEVEL k + hyst ≤ free
  | 4 => s.get F.POOL_PLOW_LEVEL k + hyst ≤ free
  | 3 => s.get F.POOL_WARN_LEVEL k + hyst ≤ free
  | _ => false

/-- Whether pool 0's state withholds the credit of class `c` (R141, R142). -/
def creditWithheld (s : State) (c : Nat) : Bool :=
  let st := poolState s 0
  c < 8 && (5 ≤ st || (st == 4 && (s.get F.BUF_P0_LOWCLS_CLS).testBit c))

/-- Adds back what was withheld of the classes that pool 0's state no longer withholds, on every link (R142). -/
def liftWithheld (s : State) : State :=
  let held := tabulate 9 (creditWithheld s)
  { s with net.links := s.net.links.map fun (p, l) =>
      let pick (c a b : Nat) : Nat := if held.getD c false then a else b
      (p, { l with
        rxCount := tabulate 9 fun c =>
          pick c (l.rxCount.getD c 0) ((l.rxCount.getD c 0 + l.withheld.getD c 0) % 65536)
        withheld := tabulate 9 fun c => pick c (l.withheld.getD c 0) 0 }) }

/-- Enters a threshold state with its event (R141). -/
def poolEnter (k st : Nat) (s : State) : State :=
  let s := s.set F.POOL_STATUS_STATE st k
  s.event 0x03 1 0 k [st, (s.pool k).free]

/-- Rises by one state if its condition to leave holds. -/
def poolRise (k : Nat) (s : State) : State :=
  let st := poolState s k
  if poolRises s k (s.pool k).free st then poolEnter k (st - 1) s else s

/-- The threshold state follows FREE (R141), MINFREE is kept (R151), and withheld credit is lifted (R142). -/
def poolSettle (k : Nat) (s : State) : State :=
  let st := poolState s k
  if st < 2 then s
  else
    let free := (s.pool k).free
    let s := if free < s.get F.POOL_MINFREE_FREE k then s.set F.POOL_MINFREE_FREE free k else s
    let dest := poolFallsTo s k free
    let s := if st < dest then poolEnter k dest s
      else poolRise k (poolRise k (poolRise k (poolRise k s)))
    if k = 0 then liftWithheld s else s

/-- The free store that buffer `b` of pool `k` belongs to (R125). -/
def storeOf (k b : Nat) : Nat := if k = 0 then b % 20 else 0

/-- The LOWMASK bit of an owner: stevedores, reduction engines, express reducers (R151). -/
def lowBit (owner : Nat) : Option Nat :=
  if 0x060 ≤ owner ∧ owner < 0x0B0 then some 0
  else if 0x0B0 ≤ owner ∧ owner < 0x0C4 then some 1
  else if 0x0C4 ≤ owner ∧ owner < 0x0C8 then some 2
  else none

/-- Whether the threshold state lets a requester's new allocation through (R141). -/
def poolLets (s : State) (k owner : Nat) : Bool :=
  match poolState s k with
  | 2 | 3 => true
  | 4 =>
    match lowBit owner with
    | some b => !(s.get F.POOL_CTL_LOWMASK k).testBit b
    | none => true
  | _ => false

/-- The slice at or after `t` in ascending cyclic order that has a free cell, and how many were passed (R127). -/
def sliceFrom (stores : List FreeStore) (t : Nat) : Nat → Option (Nat × Nat)
  | 0 => none
  | fuel + 1 =>
    let k := 20 - (fuel + 1)
    let n := (t + k) % 20
    if 0 < ((stores[n]?).map FreeStore.count).getD 0 then some (n, k) else sliceFrom stores t fuel

/-- Takes `n` cells for a packet from stripe position `S`, cell `k` from slice `(S + k) mod 20` where it can (R127).
Answers the cells, the stores, the stripe position after and the number of skips; `none` where cells are too few. `bad`
names the entries that cannot be read, at most `fuel` of them. -/
def takeCells (bad : Nat → Bool) (fuel : Nat) : Nat → Nat → Nat → List FreeStore → Option (List Nat × List FreeStore × Nat × Nat)
  | 0, _, last, stores => some ([], stores, last, 0)
  | n + 1, t, _, stores =>
    match sliceFrom stores t 20 with
    | none => none
    | some (sl, skip) =>
      match (stores[sl]?).bind (FreeStore.takeGood (fun b => bad (sl + 20 * b)) fuel) with
      | none => none
      | some (b, f) =>
        match takeCells bad fuel n ((t + 1) % 20) ((sl + 1) % 20) (stores.set sl f) with
        | none => none
        | some (bs, st, last, k) => some ((sl + 20 * b) :: bs, st, last, k + (if skip = 0 then 0 else 1))

/-- Takes `n` chunks of a staging pool. -/
def takeChunks (bad : Nat → Bool) (fuel : Nat) : Nat → List FreeStore → Option (List Nat × List FreeStore)
  | 0, stores => some ([], stores)
  | n + 1, stores =>
    match (stores[0]?).bind (FreeStore.takeGood bad fuel) with
    | none => none
    | some (b, f) =>
      match takeChunks bad fuel n (stores.set 0 f) with
      | none => none
      | some (bs, st) => some (b :: bs, st)

/-- The index of buffer `b` of pool `k` in its free store (R125). -/
def storeIndex (k b : Nat) : Nat := if k = 0 then b / 20 else b

/-- The buffers of pool `k` whose free-store entry holds an error. -/
def entryErrors (s : State) (k : Nat) : List (Nat × Bool) :=
  s.upsets.filterMap fun u =>
    match u.spot with
    | .freeEntry p b => if p = k then some (b, u.bad) else none
    | _ => none

/-- Whether cells of slice `n` are in use. -/
def sliceInUse (s : State) (n : Nat) : Bool := (s.pool 0).words.any fun e => e.2.alloc && e.1 % 20 == n

/-- Buffers of pool `k` in the scale table (R31): a retired slice leaves it once its last cell in use is freed (R461). -/
def scalePool (s : State) (k : Nat) : Nat :=
  if k = 0 then
    poolSize s 0 - 98304 * ((List.range 20).filter fun n =>
      (((s.pool 0).stores[n]?).map FreeStore.retired).getD false && !sliceInUse s n).length
  else poolSize s k

/-- The error record of a pool (R138): filled by the first error since CLR. Causes 1 DFREE, 2 WRONGOWNER, 3 RANGE,
4 REFOVF, 5 LEAK, 6 INCONS. -/
def poolErrFill (k buf by_ owner cause : Nat) (s : State) : State :=
  let s := (s.set F.POOL_ERR_BUF_BUFFER buf k).set F.POOL_ERR_BUF_CAUSE cause k
  let s := (s.set F.POOL_ERR_OWN_BY by_ k).set F.POOL_ERR_OWN_OWNER owner k
  s.set F.POOL_STATUS_FIRSTEV 1 k

/-- The first error since CLR fills the error record and raises an event (R138). -/
def poolRecord (k buf by_ owner cause : Nat) (s : State) : State :=
  if s.flag F.POOL_STATUS_FIRSTEV k then s
  else
    let s := poolErrFill k buf by_ owner cause s
    s.event 0x03 2 0 k [s.rd R.POOL_ERR_BUF k 0, s.rd R.POOL_ERR_OWN k 0]

/-- The counter of a refusal cause (R151). -/
def poolCauseCounter : Nat → Fld
  | 1 => F.POOL_CNT_DFREE_COUNT
  | 2 => F.POOL_CNT_WRONGOWN_COUNT
  | 3 => F.POOL_CNT_RANGE_COUNT
  | _ => F.POOL_CNT_REFOVF_COUNT

/-- Refuses a command with a cause (R138). -/
def poolRefuse (k buf by_ owner cause : Nat) (s : State) : State :=
  poolRecord k buf by_ owner cause (s.bump (poolCauseCounter cause) 1 k)

/-- The stripe pointer of a port or injector: `p mod 20` or its master ID mod 20 until it first moves (R127). -/
def stripeOf (s : State) : PktSrc → Nat
  | .port p => (lookup s.net.stripe p).getD (p % 20)
  | .injector m => (lookup s.net.stripe (512 + m)).getD (m % 20)

/-- Moves a stripe pointer. -/
def setStripe (src : PktSrc) (n : Nat) (s : State) : State :=
  { s with net.stripe := place s.net.stripe (match src with | .port p => p | .injector m => 512 + m) n }

/-- A part of stack memory by 4 KiB pages: pages of one stack's private view, or stripes of the striped view (R37). -/
inductive PageSpan where
  | stack (n lo hi : Nat)
  | stripes (lo hi : Nat)
  deriving DecidableEq, Repr

/-- Whether two spans share a page after striped-view translation (R130). -/
def PageSpan.overlaps : PageSpan → PageSpan → Bool
  | .stack n a b, .stack m c d => n == m && decide (a < d ∧ c < b)
  | .stripes a b, .stripes c d => decide (a < d ∧ c < b)
  | .stack n a b, .stripes c d | .stripes c d, .stack n a b =>
    let lo := max a (ceilDiv (c - n) 20)
    decide (lo < b ∧ 20 * lo + n < d ∧ c ≤ 20 * lo + n)

/-- The span of `bytes` bytes at device address `a`, where it lies within the populated part of one stack or of the
striped view (R130, R35). -/
def spanOf (s : State) (a bytes : Nat) : Option PageSpan :=
  let pages := ceilDiv bytes 4096
  let cap := stackBytes s
  if a < 0x14000000000 then
    if a % 2 ^ 36 + bytes ≤ cap then some (.stack (a / 2 ^ 36) (a % 2 ^ 36 / 4096) (a % 2 ^ 36 / 4096 + pages)) else none
  else if 0x20000000000 ≤ a ∧ a < 0x40000000000 ∧ a - 0x20000000000 + bytes ≤ 20 * cap then
    some (.stripes ((a - 0x20000000000) / 4096) ((a - 0x20000000000) / 4096 + pages))
  else none

/-- Chunk bytes of staging pool `k` (R129). -/
def chunkBytes (s : State) (k : Nat) : Nat := 4096 * 2 ^ s.get F.POOL_CTL_CHUNK k

/-- Region base of a pool. -/
def poolRegion (s : State) (k : Nat) : Nat :=
  s.get F.POOL_RBASE_LO_ADDR k <<< 12 + s.get F.POOL_RBASE_HI_ADDR k <<< 32

/-- Control-area base of a pool. -/
def poolControl (s : State) (k : Nat) : Nat :=
  s.get F.POOL_CBASE_LO_ADDR k <<< 12 + s.get F.POOL_CBASE_HI_ADDR k <<< 32

/-- Control-area bytes of a pool of `n` chunks (R130). -/
def controlBytes (n : Nat) : Nat := 2 * ceilDiv (4 * n) 4096 * 4096

/-- The enabled staging pools. -/
def enabledPools (s : State) : List Nat :=
  (List.range 17).filter fun k => k != 0 && s.flag F.POOL_CTL_EN k

/-- The guarded areas: control areas of enabled staging pools, and the last 384 KiB of each stack (R132). -/
def guardedSpans (s : State) (except : Nat) : List PageSpan :=
  ((enabledPools s).filter (· != except)).filterMap
      (fun k => spanOf s (poolControl s k) (controlBytes (poolSize s k))) ++
    tabulate 20 fun n => .stack n (stackBytes s / 4096 - 96) (stackBytes s / 4096)

/-- The check of a pool's configuration at enable (R130). -/
def poolConfigOk (s : State) (k : Nat) : Bool :=
  let n := poolSize s k
  let bytes := n * chunkBytes s k
  match spanOf s (poolRegion s k) bytes, spanOf s (poolControl s k) (controlBytes n) with
  | some reg, some (.stack m a b) =>
    let ctl := PageSpan.stack m a b
    let others := ((enabledPools s).filter (· != k)).filterMap
      fun j => spanOf s (poolRegion s j) (poolSize s j * chunkBytes s j)
    let taken := guardedSpans s k ++ others
    0 < n && s.get F.POOL_CTL_CHUNK k ≤ 8 && poolRegion s k % chunkBytes s k == 0 &&
      !reg.overlaps ctl && !taken.any (fun t => reg.overlaps t || ctl.overlaps t)
  | _, _ => false

end Sys2Proof.Machine
end

