-- ==== Sys2Proof/Machine/Stacks.lean ====
section
/-! DEFINITION. Device memory by physical key, the memory stacks and their cache (R438 to R462): address mapping, the
Reed-Solomon code, hints and replacement, fences, scrub, training and cache operations. -/

namespace Sys2Proof.Machine

/-! Memory by physical key. -/

/-- One byte of device memory; an unlisted byte is 0. -/
def memByte (m : List Host.Cell) (a : Nat) : Byte := (lookup m a).getD 0

/-- `n` bytes from `a`. -/
def memBytes (m : List Host.Cell) (a n : Nat) : List Byte := (List.range n).map fun i => memByte m (a + i)

/-- Writes bytes from `a` up; the list stays sorted and lists no 0. -/
def memPut (m : List Host.Cell) (a : Nat) (bs : List Byte) : List Host.Cell :=
  match bs with
  | [] => m
  | b :: rest => memPut (put m a b 0) (a + 1) rest

def State.memRead (s : State) (a n : Nat) : List Byte := memBytes s.mem a n

def State.memWrite (s : State) (a : Nat) (bs : List Byte) : State := { s with mem := memPut s.mem a bs }

/-- Removes every byte of a range, which then reads 0. -/
def State.memClear (s : State) (a n : Nat) : State :=
  { s with mem := s.mem.filter fun c => !(a ≤ c.1 && c.1 < a + n) }

/-! GF(2^8) and the host-side code. -/

/-- x times α in GF(2^8) with polynomial 0x11D (R442, R266). -/
def gfDouble (x : Nat) : Nat := if x < 128 then 2 * x else (2 * x) ^^^ 0x11D

/-- Product in GF(2^8), bit by bit of `b` from bit `k - 1` down. -/
def gfMulBits (a b : Nat) : Nat → Nat
  | 0 => 0
  | k + 1 => gfDouble (gfMulBits a (b / 2) k) ^^^ (if b % 2 = 1 then a else 0)

/-- Product in GF(2^8) (R266). -/
def gfMul (a b : Nat) : Nat := (gfMulBits a b 8) % 256

/-- α to the power `k`. -/
def gfPow : Nat → Nat
  | 0 => 1
  | k + 1 => gfDouble (gfPow k)

/-- Logarithm to base α of a non-zero value, as the first exponent below 255 that gives it. -/
def gfLog (x : Nat) : Nat := ((List.range 255).find? fun k => gfPow k == x).getD 255

/-- Inverse of a non-zero value. -/
def gfInv (x : Nat) : Nat := gfPow ((255 - gfLog x) % 255)

/-- One step of the division by g(x) = (x + 1)(x + α)(x + α²)(x + α³): the remainder, highest coefficient last. -/
def rsStep (rem : List Nat) (d : Nat) : List Nat :=
  let g := [64, 120, 54, 15]
  let f := d ^^^ rem.getD 3 0
  [gfMul f (g.getD 0 0), rem.getD 0 0 ^^^ gfMul f (g.getD 1 0), rem.getD 1 0 ^^^ gfMul f (g.getD 2 0),
    rem.getD 2 0 ^^^ gfMul f (g.getD 3 0)]

/-- The four check bytes of 32 data bytes (R442): the remainder of Σ Di·x^(i+4), highest power first. -/
def rsCheck (data : List Nat) : List Nat := data.reverse.foldl rsStep [0, 0, 0, 0]

/-- The 36 bytes of a burst in order of power: C0 to C3, then D0 to D31. -/
def rsWord (data check : List Nat) : List Nat := check ++ data

/-- Syndrome k: c(α^k) (R443). -/
def rsSyndrome (word : List Nat) (k : Nat) : Nat :=
  word.reverse.foldl (fun acc c => gfMul acc (gfPow k) ^^^ c) 0

/-- What a decoded burst is (R443). -/
inductive Decoded where
  | clean
  | corrected (word : List Nat)
  | uncorrectable
  deriving DecidableEq, Repr

/-- The decoder of R443 on 36 received bytes. -/
def rsDecode (word : List Nat) : Decoded :=
  let s0 := rsSyndrome word 0
  let s1 := rsSyndrome word 1
  let s2 := rsSyndrome word 2
  let s3 := rsSyndrome word 3
  if s0 = 0 ∧ s1 = 0 ∧ s2 = 0 ∧ s3 = 0 then .clean
  else if s0 ≠ 0 ∧ s1 ≠ 0 ∧ s2 ≠ 0 then
    let a := gfMul s1 (gfInv s0)
    if a = gfMul s2 (gfInv s1) ∧ a = gfMul s3 (gfInv s2) ∧ a ≠ 0 then
      let j := gfLog a
      if j ≤ 35 then .corrected (word.set j (word.getD j 0 ^^^ s0)) else .uncorrectable
    else .uncorrectable
  else .uncorrectable

/-! Address mapping. -/

/-- Pseudo-channel of a stack offset (R440). -/
def pchOf (o : Nat) : Nat := fieldOf o 8 5 ^^^ fieldOf o 21 5

/-- Bank of a stack offset (R440). -/
def bankOf (o : Nat) : Nat := fieldOf o 15 6 ^^^ fieldOf o 21 6

/-- Row of a stack offset (R440). -/
def rowOf (o : Nat) : Nat := fieldOf o 21 15

/-- Column of a stack offset: byte within the 1 KiB page (R440). -/
def colOf (o : Nat) : Nat := fieldOf o 13 2 <<< 8 + fieldOf o 0 8

/-! One stack. -/

def StackSt.initial : StackSt := ⟨[], 0, 0, 0, [], [], false, 0, 0⟩

def State.stack (s : State) (n : Nat) : StackSt := (lookup s.stackMem n).getD StackSt.initial

def State.setStack (s : State) (n : Nat) (k : StackSt) : State := { s with stackMem := place s.stackMem n k }

/-- Physical key of stack `n`'s offset. -/
def stackKey (n off : Nat) : Nat := n * 2 ^ 36 + off

/-- Scale-table generation moves over a whole change (R32). -/
def scaleChanged (s : State) : State := s.set F.DEV_SCALE_GEN_GEN (s.get F.DEV_SCALE_GEN_GEN + 2)

/-- Slice `n` of pool 0 is retired (R461): it has no free cell and takes none back. -/
def retireSlice (n : Nat) (s : State) : State :=
  let p := s.pool 0
  match p.stores[n]? with
  | none => s
  | some f =>
    poolSettle 0 (s.setPool 0 { p with stores := p.stores.set n { f with limit := f.next, freed := [], retired := true, front := 0, back := 0 } })

/-- The last pseudo-channel of a retrain is done with (R457): a whole retrain takes the temperature and is counted. -/
def trainingEnds (n : Nat) (s : State) : State :=
  let k := s.stack n
  if s.flag F.STK_TRAIN_BUSY n = false ∨ k.training ≠ [] then s
  else
    let s := if k.whole then
        (s.set F.STK_TRAIN_TEMP (s.get F.STK_STATUS_TEMP n) n).bump F.STK_CNT_RETRAIN_COUNT 1 n else s
    let s := (s.setStack n { k with whole := false }).set F.STK_TRAIN_BUSY 0 n
    s.set F.STK_STATUS_STATE (if s.get F.STK_FENCE_MASK n = 0 then 2 else 4) n

/-- Fences pseudo-channel `p` of stack `n` (R459 to R461). Causes 1 training, 2 uncorrectable bursts, 3 written. -/
def fencePch (n p cause : Nat) (s : State) : State :=
  if s.flag F.STK_PCH_FENCED n p then s
  else
    let s := s.set F.STK_PCH_FENCED 1 n p
    let s := if cause = 1 then s.set F.STK_PCH_TRAINFAIL 1 n p else s
    let s := s.set F.STK_FENCE_MASK (s.get F.STK_FENCE_MASK n ||| 2 ^ p) n
    let s := if s.get F.STK_STATUS_STATE n = 5 ∨ s.flag F.STK_TRAIN_BUSY n then s else s.set F.STK_STATUS_STATE 4 n
    let k := s.stack n
    let hit := fun (e : Nat × CacheLine) => pchOf (e.1 * 64) == p
    let lost := (k.lines.filter fun e => hit e && e.2.dirty).length
    let s := s.setStack n { k with lines := k.lines.filter fun e => !hit e, training := k.training.filter (· != p) }
    let s := if lost = 0 then s else s.bump F.STK_CNT_FENCELOST_COUNT lost n
    let s := retireSlice n (scaleChanged s)
    trainingEnds n (s.event 0x0A 2 0 n [p, cause])

/-- An uncorrectable burst at offset `o` (R443, R459). -/
def burstUncorrectable (n o : Nat) (s : State) : State :=
  let s := s.bump F.STK_CNT_UE_COUNT 1 n
  let s := if s.flag F.STK_UELOG_HI_VALID n then s
    else
      let a := stackKey n o
      ((s.wr R.STK_UELOG_LO n 0 a).set F.STK_UELOG_HI_ADDR (a / 2 ^ 32) n).set F.STK_UELOG_HI_VALID 1 n
  let p := pchOf o
  let k := s.stack n
  let recent := (k.ueTimes.filter fun (t : Nat × Nat) => t.1 != p || s.elapsed t.2 < 100000000) ++ [(p, s.ticks)]
  let count := (recent.filter fun t => t.1 == p).length
  let s := s.setStack n { k with ueTimes := recent }
  let s := s.set F.STK_PCH_UERECENT (min count 15) n p
  let thr := s.get F.STK_SCRUB_UECNT n
  if thr ≠ 0 ∧ thr ≤ count then fencePch n p 2 s else s

/-! Transfers between the controller and the stack. Bits that the stack has stored or sent wrongly stand in `State.upsets`. -/

/-- The errors of the burst at offset `o`: by byte of its 36, what the byte was changed by, and whether the on-die ECC reports it. -/
def burstErrors (n o : Nat) (s : State) : List (List (Nat × Nat) × Bool) :=
  s.upsets.filterMap fun u =>
    match u.spot with
    | .burst m p flips onDie => if m = n ∧ p = o then some (flips, onDie) else none
    | _ => none

/-- Bursts of stack `n` that lie within `len` bytes from offset `lo`. -/
def burstWithin (n lo len : Nat) : Spot → Bool
  | .burst m p _ _ => m == n && decide (lo ≤ p ∧ p + 32 ≤ lo + len)
  | _ => false

/-- A failed transfer on pseudo-channel `p` of stack `n`. -/
def parityAt (n p : Nat) (u : Upset) : Bool := u.spot == .parity n p

/-- One burst passes between the controller and pseudo-channel `p` (R438): a parity error is retried once, and a second one makes the burst
at offset `o` uncorrectable. -/
def transfer (n o : Nat) (s : State) : Bool × State :=
  let at_ := parityAt n (pchOf o)
  let s' := { s with upsets := (s.upsets.eraseP at_).eraseP at_ }
  if 2 ≤ s.upsets.countP at_ then (false, burstUncorrectable n o s') else (true, s')

/-- What the decoder makes of the burst at offset `o` (R442, R443). -/
def burstDecoded (n o : Nat) (s : State) : Decoded × List Nat :=
  let data := (s.memRead (stackKey n o) 32).map BitVec.toNat
  let word := (burstErrors n o s).flatMap Prod.fst |>.foldl
    (fun w (f : Nat × Nat) => w.set f.1 (w.getD f.1 0 ^^^ (f.2 % 256))) (rsWord data (rsCheck data))
  (rsDecode word, word)

/-- Reads one burst of 32 bytes of stack `n` at offset `o` (R438, R443); none where it is uncorrectable. The on-die ECC's reports are counted
(R438), those of a burst that decodes cleanly among them. -/
def readBurst (n o : Nat) (s : State) : Option (List Byte) × State :=
  let reports := ((burstErrors n o s).filter Prod.snd).length
  let bytes := fun (w : List Nat) => (w.drop 4).map (BitVec.ofNat 8)
  match transfer n o s with
  | (false, s) => (none, s)
  | (true, t) =>
    if (burstErrors n o s).isEmpty then (some (s.memRead (stackKey n o) 32), t)
    else
      let t := t.bump F.STK_CNT_ODECC_COUNT reports n
      match burstDecoded n o s with
      | (.clean, w) => (some (bytes w), t)
      | (.corrected w, _) => (some (bytes w), t.bump F.STK_CNT_CE_COUNT 1 n)
      | (.uncorrectable, _) => (none, burstUncorrectable n o t)

/-- Reads one line from the stack: two bursts (R441), of which the second is read whatever the first gives. -/
def readLine (n line : Nat) (s : State) : Option (List Byte) × State :=
  let (a, s) := readBurst n (line * 64) s
  let (b, s) := readBurst n (line * 64 + 32) s
  (match a, b with | some a, some b => some (a ++ b) | _, _ => none, s)

/-- Writes one whole burst; it holds no error any more. False where it does not reach the stack. -/
def writeBurst (n o : Nat) (bs : List Byte) (s : State) : Bool × State :=
  match transfer n o s with
  | (false, s) => (false, s)
  | (true, s) => (true, (s.memWrite (stackKey n o) bs).heal (burstWithin n o 32))

/-- Writes a line's bytes to the stack. -/
def writeLine (n line : Nat) (data : List Byte) (s : State) : State :=
  (writeBurst n (line * 64 + 32) (data.drop 32) (writeBurst n (line * 64) (data.take 32) s).2).2

/-- Bytes `bs` laid over `data` from position `at_`. -/
def overlay (data : List Byte) (at_ : Nat) (bs : List Byte) : List Byte :=
  data.take at_ ++ bs ++ data.drop (at_ + bs.length)

/-- The set of a line: 16,384 sets (R446). -/
def setOf (line : Nat) : Nat := line % 16384

/-- Lines of a set in a cache. -/
def setLines (k : StackSt) (line : Nat) : List (Nat × CacheLine) := k.lines.filter fun e => setOf e.1 == setOf line

/-- The least recently used of some lines. -/
def leastUsed : List (Nat × CacheLine) → Option (Nat × CacheLine)
  | [] => none
  | e :: rest =>
    match leastUsed rest with
    | none => some e
    | some m => if e.2.used ≤ m.2.used then some e else some m

/-- The storage of a cache line. -/
def lineSpot (n line : Nat) (x : Spot) : Bool := x == .line n line

/-- Removes a line from the cache. -/
def dropLine (n line : Nat) (s : State) : State :=
  let k := s.stack n
  (s.setStack n { k with lines := erase k.lines line }).heal (lineSpot n line)

/-- A line of the cache is read (R489, class 5): an uncorrectable word in it invalidates it, and dirty data is lost. Answers whether it was. -/
def meetLine (n line : Nat) (s : State) : Bool × State :=
  match s.touch 5 n (stackKey n (line * 64)) (lineSpot n line) with
  | (true, s) => (true, dropLine n line s)
  | r => r

/-- Writes a dirty line back (R446), where its data can be read. -/
def writeBack (n : Nat) (e : Nat × CacheLine) (s : State) : State :=
  if e.2.dirty then
    match meetLine n e.1 s with
    | (true, s) => s
    | (false, s) => (writeLine n e.1 e.2.data s).bump F.STK_CNT_WB_COUNT 1 n
  else s

/-- Protected lines beyond PROTWAYS lose protection, least recently used first (R447). -/
def trimProtected (n line : Nat) (fuel : Nat) (s : State) : State :=
  match fuel with
  | 0 => s
  | fuel + 1 =>
    let k := s.stack n
    let prot := (setLines k line).filter fun e => e.2.prot
    if prot.length ≤ s.get F.STK_CFG_PROTWAYS n then s
    else match leastUsed prot with
      | none => s
      | some e => trimProtected n line fuel (s.setStack n { k with lines := place k.lines e.1 { e.2 with prot := false } })

/-- Makes room for a line and puts it in (R447). -/
def allocLine (n line : Nat) (data : List Byte) (dirty keep : Bool) (s : State) : State :=
  let s := trimProtected n line 16 s
  let ways := s.get F.STK_CFG_PROTWAYS n
  let k := s.stack n
  let set := setLines k line
  let prot := set.filter fun e => e.2.prot
  let s :=
    if keep && ways != 0 && decide (ways ≤ prot.length) then
      match leastUsed prot with
      | none => s
      | some e => (dropLine n e.1 (writeBack n e s)).bump F.STK_CNT_PROTEVICT_COUNT 1 n
    else if set.length < 16 then s
    else match leastUsed (set.filter fun e => !e.2.prot) with
      | none => s
      | some e => dropLine n e.1 (writeBack n e s)
  let k := s.stack n
  s.setStack n { k with lines := place k.lines line ⟨data, dirty, keep && ways != 0, k.clock⟩ }

/-- A hit: the line after the access (R446, R447). -/
def touchLine (n line hint : Nat) (c : CacheLine) (s : State) : State :=
  let k := s.stack n
  let keep := hint == 2 && s.get F.STK_CFG_PROTWAYS n != 0
  let c := { c with used := if hint = 1 then c.used else k.clock, prot := c.prot || keep }
  let s := s.setStack n { k with lines := place k.lines line c }
  if keep then trimProtected n line 16 s else s

/-- A line dropped by LAST (R448). -/
def dropLast (n line : Nat) (c : CacheLine) (s : State) : State :=
  if c.dirty ∧ s.flag F.STK_CFG_LASTDROP n then (dropLine n line s).bump F.STK_CNT_LASTDROP_COUNT 1 n
  else dropLine n line (writeBack n (line, c) s)

/-- Whether an offset's pseudo-channel is fenced (R460). -/
def offFenced (s : State) (n o : Nat) : Bool := s.flag F.STK_PCH_FENCED n (pchOf o)

/-- Counts an access in the order of the stack's accesses. -/
def tickStack (n : Nat) (s : State) : State :=
  let k := s.stack n
  s.setStack n { k with clock := k.clock + 1 }

/-- A read of one line under a hint (R446, R448, R460); none where it is uncorrectable or fenced. -/
def lineRead (n line hint : Nat) (s : State) : Option (List Byte) × State :=
  let s := tickStack n s
  if offFenced s n (line * 64) then (none, s.bump F.STK_CNT_FENCEERR_COUNT 1 n)
  else match lookup (s.stack n).lines line with
    | some c =>
      match meetLine n line (s.bump F.STK_CNT_HIT_COUNT 1 n) with
      | (true, s) => (none, s)
      | (false, s) => (some c.data, if hint = 3 then dropLast n line c s else touchLine n line hint c s)
    | none =>
      let s := s.bump F.STK_CNT_MISS_COUNT 1 n
      match readLine n line s with
      | (none, s) => (none, s)
      | (some d, s) => (some d, if hint = 1 ∨ hint = 3 then s else allocLine n line d false (hint == 2) s)

/-- The part of a write that falls in one burst at offset `o` (R444): `bs` from byte `at_` of it. A burst covered in part is read and merged
first; false where that read is uncorrectable, which drops the write. -/
def burstMerge (n o at_ : Nat) (bs : List Byte) (s : State) : Bool × State :=
  if bs.isEmpty then (true, s)
  else if bs.length = 32 then writeBurst n o bs s
  else match readBurst n o s with
    | (none, s) => (false, s)
    | (some d, s) => writeBurst n o (overlay d at_ bs) s

/-- A write that reaches the stack, burst by burst (R444). -/
def stackMerge (n line at_ : Nat) (bs : List Byte) (s : State) : Bool × State :=
  let (a, s) := burstMerge n (line * 64) at_ (bs.take (32 - at_)) s
  let (b, s) := burstMerge n (line * 64 + 32) (at_ - 32) (bs.drop (32 - at_)) s
  (a && b, s)

/-- A write inside one line under a hint (R446, R448, R460); false where it is dropped. -/
def lineWrite (n line at_ hint : Nat) (bs : List Byte) (s : State) : Bool × State :=
  let s := tickStack n s
  if offFenced s n (line * 64) then (false, s.bump F.STK_CNT_FENCEERR_COUNT 1 n)
  else match lookup (s.stack n).lines line with
    | some c =>
      let s := s.bump F.STK_CNT_HIT_COUNT 1 n
      if hint = 3 then stackMerge n line at_ bs (dropLast n line c s)
      else
        match if bs.length = 64 then (false, s.heal (lineSpot n line)) else meetLine n line s with
        | (true, s) => (false, s)
        | (false, s) => (true, touchLine n line hint { c with data := overlay c.data at_ bs, dirty := true } s)
    | none =>
      let s := s.bump F.STK_CNT_MISS_COUNT 1 n
      if hint = 1 ∨ hint = 3 then stackMerge n line at_ bs s
      else if bs.length = 64 then (true, allocLine n line bs true (hint == 2) s)
      else match readLine n line s with
        | (none, s) => (false, s)
        | (some d, s) => (true, allocLine n line (overlay d at_ bs) true (hint == 2) s)

/-- A read of `len` bytes at offset `off`, line by line (R446); `fuel` bounds the lines. -/
def stackReadLines (n hint : Nat) : Nat → Nat → Nat → State → Option (List Byte) × State
  | 0, _, _, s => (some [], s)
  | fuel + 1, off, len, s =>
    if len = 0 then (some [], s)
    else
      let here := min len (64 - off % 64)
      match lineRead n (off / 64) hint s with
      | (none, s) => (none, s)
      | (some d, s) =>
        match stackReadLines n hint fuel (off + here) (len - here) s with
        | (none, s) => (none, s)
        | (some rest, s) => (some ((d.drop (off % 64)).take here ++ rest), s)

def stackRead (n off len hint : Nat) (s : State) : Option (List Byte) × State :=
  stackReadLines n hint (len / 64 + 2) off len s

/-- A write of bytes at offset `off`, line by line (R446); answers whether every part was written. -/
def stackWriteLines (n hint : Nat) : Nat → Nat → List Byte → State → Bool × State
  | 0, _, _, s => (true, s)
  | fuel + 1, off, bs, s =>
    if bs.isEmpty then (true, s)
    else
      let here := min bs.length (64 - off % 64)
      let (a, s) := lineWrite n (off / 64) (off % 64) hint (bs.take here) s
      let (b, s) := stackWriteLines n hint fuel (off + here) (bs.drop here) s
      (a && b, s)

def stackWrite (n off hint : Nat) (bs : List Byte) (s : State) : Bool × State :=
  stackWriteLines n hint (bs.length / 64 + 2) off bs s

/-- Whether an access to a line waits for the pseudo-channel in training (R457): its own, where the cache does not hold the line, or that of a
dirty line which its set may have to write back. -/
def lineWaits (s : State) (n line : Nat) : Bool :=
  let k := s.stack n
  match k.training with
  | [] => false
  | p :: _ =>
    (pchOf (line * 64) == p && (lookup k.lines line).isNone) || (setLines k line).any fun e => e.2.dirty && pchOf (e.1 * 64) == p

/-- Whether an access of `len` bytes at offset `off` waits. -/
def stackWaits (s : State) (n off len : Nat) : Bool :=
  (s.stack n).training ≠ [] && (List.range (len / 64 + 2)).any fun i =>
    decide ((off / 64 + i) * 64 < off + len) && lineWaits s n (off / 64 + i)

/-! Scrub, temperature, training, cache operations. -/

/-- The scrub reads one burst and rewrites it where it was corrected and no later write-back replaces it (R445). -/
def scrubBurst (n o : Nat) (dirty : Bool) (s : State) : State :=
  let t := (readBurst n o s).2
  match (burstDecoded n o s).1, dirty with
  | .corrected w, false => (writeBurst n o ((w.drop 4).map (BitVec.ofNat 8)) t).2
  | _, _ => t

/-- One line of the patrol scrub (R445), once INTERVAL ns have passed since the last. `flips` are errors that the line has come to hold: the
burst of the line, the byte of its 36 and what it was changed by. -/
def scrubRead (n : Nat) (flips : List (Nat × Nat × Nat)) (s : State) : State :=
  let k := s.stack n
  let gap := s.get F.STK_SCRUB_INTERVAL n
  if gap = 0 ∨ 10 * s.elapsed k.scrubAt < gap then s
  else
    let o := k.scrub
    let s := s.setStack n { k with scrub := if stackBytes s ≤ o + 64 then 0 else o + 64, scrubAt := s.ticks }
    let s := { s with upsets := s.upsets ++ flips.map fun f => ⟨.burst n (o + 32 * f.1) [f.2] false, false⟩ }
    if offFenced s n o then s
    else
      let dirty := ((lookup k.lines (o / 64)).map CacheLine.dirty).getD false
      scrubBurst n (o + 32) dirty (scrubBurst n o dirty s)

/-- Pseudo-channels of stack `n` that are not fenced. -/
def livePchs (s : State) (n : Nat) : List Nat := (List.range 32).filter fun p => !s.flag F.STK_PCH_FENCED n p

/-- Whether a stack runs: READY, RETRAIN or DEGRADED (R462). -/
def stackRuns (s : State) (n : Nat) : Bool := [2, 3, 4].contains (s.get F.STK_STATUS_STATE n)

/-- Starts a retrain of a whole stack (R457); one in progress takes no further effect. -/
def retrainStack (n : Nat) (s : State) : State :=
  if (s.stack n).training ≠ [] ∨ stackRuns s n = false ∨ livePchs s n = [] then s
  else
    let s := s.setStack n { s.stack n with training := livePchs s n, whole := true }
    (s.set F.STK_TRAIN_BUSY 1 n).set F.STK_STATUS_STATE 3 n

/-- Starts a retrain of one pseudo-channel (R458). -/
def retrainPch (n p : Nat) (s : State) : State :=
  let k := s.stack n
  if k.training.contains p then s
  else
    let s := s.setStack n { k with training := k.training ++ [p] }
    (s.set F.STK_TRAIN_BUSY 1 n).set F.STK_STATUS_STATE 3 n

/-- The stack's temperature (R438, R439, R457). -/
def stackTemp (n t : Nat) (s : State) : State :=
  let s := (s.set F.STK_STATUS_TEMP t n).set F.STK_STATUS_HOT (if 85 < t then 1 else 0) n
  let base := s.get F.STK_TRAIN_TEMP n
  let delta := max 1 (s.get F.STK_RECENTRE_TEMPDELTA n)
  if base + delta < t ∨ t + delta < base then retrainStack n s else s

/-- Whether pseudo-channel `p` is the one to be re-centred now (R456): the live ones follow one another, and a round of them begins
INTERVAL ms after the last began. -/
def recentreDue (n p : Nat) (s : State) : Bool :=
  let k := s.stack n
  match (livePchs s n).find? (k.turn ≤ ·) with
  | some q => q == p && (k.turn != 0 || s.passedUs k.roundAt (1000 * max 1 (s.get F.STK_RECENTRE_INTERVAL n)))
  | none => false

/-- The turn passes on from pseudo-channel `p`. -/
def recentreNext (n p : Nat) (s : State) : State :=
  let k := s.stack n
  let turn := if (livePchs s n).any (p < ·) then p + 1 else 0
  s.setStack n { k with turn := turn, roundAt := if k.turn = 0 then s.ticks else k.roundAt }

/-- The re-centre of one pseudo-channel finds a centre difference `d` (R456, R458). -/
def recentre (n p : Nat) (d : Int) (s : State) : State :=
  if stackRuns s n = false ∨ recentreDue n p s = false then s
  else
    let s := (recentreNext n p s).set F.STK_PCH_DRIFT (unsigned 8 d) n p
    let thr : Int := (s.get F.STK_RECENTRE_DRIFTTHR n : Nat)
    if thr < d ∨ d < -thr then
      let s := (s.bump F.STK_CNT_DRIFT_COUNT 1 n).event 0x0A 1 0 n [p, unsigned 32 d]
      retrainPch n p s
    else s

/-- The pseudo-channel now in training finishes, well or not (R457, R459). -/
def pchTrained (n : Nat) (good : Bool) (s : State) : State :=
  let k := s.stack n
  match k.training with
  | [] => s
  | p :: rest =>
    let s := s.setStack n { k with training := rest }
    if good then trainingEnds n (s.set F.STK_PCH_DRIFT 0 n p) else trainingEnds n (fencePch n p 1 s)

/-- A write of STK_FENCE (R459). -/
def stackFenceWrite (n mask : Nat) (s : State) : State :=
  iterate 32 (fun p t => if mask.testBit p then fencePch n p 3 t else t) s

/-- Whether a line's page lies from BASE to LIMIT (R451). -/
def inCacheOp (s : State) (n line : Nat) : Bool :=
  let page := line / 64
  s.get F.STK_CACHEOP_BASE_PAGE n ≤ page && page ≤ s.get F.STK_CACHEOP_LIMIT_PAGE n

/-- One line met by a cache operation (R451). -/
def cacheOpLine (op n : Nat) (s : State) (e : Nat × CacheLine) : State :=
  let k := s.stack n
  match op with
  | 1 => let s := writeBack n e s
    let k := s.stack n
    if (lookup k.lines e.1).isSome then s.setStack n { k with lines := place k.lines e.1 { e.2 with dirty := false } } else s
  | 2 => dropLine n e.1 (writeBack n e s)
  | 3 => s.setStack n { k with lines := place k.lines e.1 { e.2 with prot := false } }
  | _ => (dropLine n e.1 s).bump F.STK_CNT_LASTDROP_COUNT (b2n e.2.dirty) n

/-- A write of OP to STK_CACHEOP (R451): 1 WRITEBACK, 2 INVALIDATE, 3 UNPROTECT, 4 DISCARD. -/
def cacheOp (op n mid : Nat) (s : State) : State :=
  if s.flag F.STK_CACHEOP_BUSY n then s.reject mid (R.STK_CACHEOP.addr n 0)
  else if op = 0 ∨ 4 < op then s
  else
    let s := ((s.stack n).lines.filter fun e => inCacheOp s n e.1).foldl (cacheOpLine op n) s
    s.set F.STK_CACHEOP_BUSY 1 n

/-- A write of 1 to STK_CNT_CLR (R462). -/
def stkCntClr (n : Nat) (s : State) : State :=
  s.zeroAll [R.STK_CNT_CE, R.STK_CNT_UE, R.STK_CNT_ODECC, R.STK_CNT_HIT, R.STK_CNT_MISS, R.STK_CNT_WB,
    R.STK_CNT_PROTEVICT, R.STK_CNT_LASTDROP, R.STK_CNT_FENCELOST, R.STK_CNT_FENCEERR, R.STK_CNT_DRIFT,
    R.STK_CNT_RETRAIN, R.STK_UELOG_LO, R.STK_UELOG_HI] n

/-- The burst boundary of an armed STK commit; a batch of 0 is refused (R454). -/
def stkApply (n : StackId) (s : State) : State :=
  let w := s.rdShadow R.STK_CFG n 0
  if s.armed (.stk n) = false then s
  else if fieldOf w 8 8 = 0 ∨ fieldOf w 16 8 = 0 then commitRefused (.stk n) s
  else commitApplied (.stk n) s

/-- The all-bank refresh of a pseudo-channel (R439) changes no state that software can see: the model keeps no timing. -/
def execRefresh (_n : StackId) (_p : Fin 32) (s : State) : Res := ok s

def execScrubRead (n : StackId) (flips : List (Nat × Nat × Nat)) (s : State) : Res := ok (scrubRead n flips s)

def execStackTempRead (n : StackId) (t : Byte) (s : State) : Res := ok (stackTemp n t.toNat s)

def execRecentre (n : StackId) (p : Fin 32) (d : Byte) (s : State) : Res := ok (recentre n p d.toInt s)

def execRetrainRequest (n : StackId) (s : State) : Res := ok (retrainStack n s)

def execStkFenceWrite (n : StackId) (mask : Word) (s : State) : Res := ok (stackFenceWrite n mask.toNat s)

def execWriteback (m : MasterId) (n : StackId) (s : State) : Res := ok (cacheOp 1 n m.toNat s)
def execInvalidate (m : MasterId) (n : StackId) (s : State) : Res := ok (cacheOp 2 n m.toNat s)
def execUnprotect (m : MasterId) (n : StackId) (s : State) : Res := ok (cacheOp 3 n m.toNat s)
def execDiscard (m : MasterId) (n : StackId) (s : State) : Res := ok (cacheOp 4 n m.toNat s)

def execCacheopDone (n : StackId) (s : State) : Res :=
  if s.flag F.STK_CACHEOP_BUSY n then ok (s.set F.STK_CACHEOP_BUSY 0 n) else ok s

def execStkCntClr (n : StackId) (s : State) : Res := ok (stkCntClr n s)

end Sys2Proof.Machine
end

