-- ==== Sys2Proof/Machine/Buffers.lean ====
section
/-! DEFINITION. The pool manager's commands (R127 to R149): allocation, ADDREF, PASS and RELEASE with their refusals, what they write to the
control area, enabling and disabling a pool, and the leak audit. -/

namespace Sys2Proof.Machine

/-- The pool manager writes to the control area of staging pool `k`, at `off` from its base; the stack's cache takes it as STREAM (R130,
R132, R449). -/
def controlWrite (k off : Nat) (bs : List Byte) (s : State) : State :=
  let a := poolControl s k + off
  (stackWrite (a / 2 ^ 36) (a % 2 ^ 36) 1 bs s).2

/-- Offset of buffer `b`'s state word in the control area: the ring comes first (R130). -/
def wordOff (s : State) (k b : Nat) : Nat := ceilDiv (4 * poolSize s k) 4096 * 4096 + 4 * b

/-- Writes a buffer's state word: on chip for pool 0, in the control area for a staging pool (R129, R135). -/
def putWord (k b : Nat) (w : BufWord) (s : State) : State :=
  let s := s.setPool k { s.pool k with words := place (s.pool k).words b w }
  if k = 0 then s else controlWrite k (wordOff s k b) (toBytes 4 w.bits) s

/-- Marks buffers allocated (R135, R137 ALLOC). -/
def markAlloc (k : Nat) (bs : List Nat) (owner sharers job : Nat) (s : State) : State :=
  bs.foldl (fun t b => putWord k b ⟨true, sharers, owner, false, job⟩ t) s

/-- The free-store entries that an allocation has read (R489, class 7): those that no store holds any more. -/
def entriesMet (k : Nat) (stores : List FreeStore) (s : State) : State :=
  ((entryErrors s k).map Prod.fst).foldl (fun t b =>
    if ((stores[storeOf k b]?).map fun f => f.holds (storeIndex k b)).getD false then t
    else (t.touch 7 k b (· == .freeEntry k b)).2.heal (· == .freeEntry k b)) s

/-- Whether the free-store entry of a buffer cannot be read. -/
def storeBad (s : State) (k b : Nat) : Bool := (entryErrors s k).any fun e => e.1 == b && e.2

/-- Allocates the cells of a packet for owner `owner` with stripe pointer `stripe` (R127). Answers the cells, or none
where too few are free; then nothing changes. -/
def allocCells (owner sharers job stripe n : Nat) (s : State) : Option (List Nat × Nat × State) :=
  let p := s.pool 0
  if p.free < n then none
  else match takeCells (storeBad s 0) s.upsets.length n stripe stripe p.stores with
    | none => none
    | some (bs, stores, stripe', skips) =>
      let s := markAlloc 0 bs owner sharers job (entriesMet 0 stores (s.setPool 0 { p with stores := stores }))
      let s := s.bump F.POOL_CNT_ALLOC_COUNT n 0
      let s := if skips = 0 then s else s.bump F.BUF_CNT_SLICESKIP_COUNT skips
      some (bs, stripe', poolSettle 0 s)

/-- Whether a staging pool has stopped allocating because a pseudo-channel of the stack that holds its control area is
fenced (R461). -/
def poolStalled (s : State) (k : Nat) : Bool := s.get F.STK_FENCE_MASK (poolControl s k / 2 ^ 36) != 0

/-- Allocates `n` chunks of staging pool `k`, or none where it must wait (R134). -/
def allocChunks (k owner sharers job n : Nat) (s : State) : Option (List Nat × State) :=
  let p := s.pool k
  if poolLets s k owner = false ∨ p.free < n ∨ poolStalled s k then none
  else match takeChunks (storeBad s k) s.upsets.length n p.stores with
    | none => none
    | some (bs, stores) =>
      let s := markAlloc k bs owner sharers job (entriesMet k stores (s.setPool k { p with stores := stores }))
      some (bs, poolSettle k (s.bump F.POOL_CNT_ALLOC_COUNT n k))

/-- The state word of a buffer, where the pool manager has written one. -/
def wordOf (s : State) (k buf : Nat) : Option BufWord := lookup (s.pool k).words buf

/-- The state word of an allocated buffer. -/
def liveWord (s : State) (k buf : Nat) : Option BufWord := (wordOf s k buf).filter BufWord.alloc

/-- Why a command on a buffer is refused, before its own check (R137): RANGE, then DFREE, with the OWNER on record. -/
def bufferOf (s : State) (k buf : Nat) : Except (Nat × Nat) BufWord :=
  if poolSize s k ≤ buf then .error (3, 0)
  else match wordOf s k buf with
    | none => .error (1, 0)
    | some w => if w.alloc then .ok w else .error (1, w.owner)

/-- A state word is read (R489, class 7): where it is uncorrectable its buffer is retired, and the command or the sweep has no buffer to act
on. -/
def meetWord (k buf : Nat) (s : State) : Bool × State :=
  match s.touch 7 k buf (· == .stateWord k buf) with
  | (true, s) =>
    let s := s.heal (· == .stateWord k buf)
    (true, match wordOf s k buf with
      | some w => putWord k buf { w with alloc := false, sharers := 0, age := false } s
      | none => s)
  | r => r

/-- Sets a buffer's state word; any command clears AGE (R135). -/
def setWord (k buf : Nat) (w : BufWord) (s : State) : State := putWord k buf { w with age := false } s

/-- A freed buffer joins the free store, whose cache may spill a line to the ring (R133). -/
def storeAppend (k buf : Nat) (s : State) : State :=
  let p := s.pool k
  match p.stores[storeOf k buf]? with
  | none => s
  | some f =>
    let (f, line) := (f.give (storeIndex k buf)).spill
    let s := (s.setPool k { p with stores := p.stores.set (storeOf k buf) f }).heal (· == .freeEntry k buf)
    match line with
    | some (bs, i) =>
      if k = 0 then s
      else controlWrite k (64 * i % (ceilDiv (4 * poolSize s k) 4096 * 4096)) (bs.flatMap (toBytes 4)) s
    | none => s

/-- Frees a buffer (R140): ALLOC, SHARERS and AGE are cleared, it is appended to its free store, no unit holds it any more, and the threshold
state follows; the last cell of a retired slice changes the scale table (R461, R32). -/
def freeBuffer (k buf : Nat) (s : State) : State :=
  match wordOf s k buf with
  | none => s
  | some w =>
    let s := storeAppend k buf (putWord k buf { w with alloc := false, sharers := 0, age := false } s)
    let p := s.pool k
    let s := poolSettle k (s.setPool k { p with granted := p.granted.filter fun e => e.2 != buf })
    if k = 0 ∧ (((s.pool 0).stores[buf % 20]?).map FreeStore.retired).getD false ∧ sliceInUse s (buf % 20) = false then scaleChanged s
    else s

/-- A command on a buffer (R137): refused, or carried out by `act` on the buffer's state word. -/
def onBuffer (k buf by_ : Nat) (act : BufWord → State → State) (s : State) : State :=
  match meetWord k buf s with
  | (true, s) => s
  | (false, s) =>
    match bufferOf s k buf with
    | .error (c, owner) => poolRefuse k buf by_ owner c s
    | .ok w => act w s

/-- ADDREF(buf, k) by a requester (R137); answers whether it was carried out. -/
def addRef (k buf n by_ : Nat) (s : State) : Bool × State :=
  let ok := match bufferOf s k buf with
    | .ok w => w.owner == by_ && decide (w.sharers + n ≤ 1023) && !(meetWord k buf s).1
    | .error _ => false
  (ok, onBuffer k buf by_ (fun w s =>
    if w.owner ≠ by_ then poolRefuse k buf by_ w.owner 2 s
    else if 1023 < w.sharers + n then poolRefuse k buf by_ w.owner 4 s
    else setWord k buf { w with sharers := w.sharers + n } s) s)

/-- A buffer leaves one unit's held-buffer list for another's, or for none (R148). -/
def passHeld (k buf by_ : Nat) (dest : Option Nat) (s : State) : State :=
  let p := s.pool k
  if p.granted.contains (by_, buf) then
    s.setPool k { p with granted := p.granted.erase (by_, buf) ++ (dest.map fun d => (d, buf)).toList }
  else s

/-- PASS(buf, to) by a requester (R137). -/
def passBuffer (k buf dest by_ : Nat) (s : State) : State :=
  onBuffer k buf by_ (fun w s =>
    if w.owner ≠ by_ then poolRefuse k buf by_ w.owner 2 s
    else passHeld k buf by_ (some dest) (setWord k buf { w with owner := dest } s)) s

/-- RELEASE(buf) by a requester (R137, R140). -/
def release (k buf by_ : Nat) (s : State) : State :=
  onBuffer k buf by_ (fun w s =>
    if w.sharers ≤ 1 then
      if w.owner ≠ by_ then poolRefuse k buf by_ w.owner 2 s else freeBuffer k buf s
    else passHeld k buf by_ none (setWord k buf { w with sharers := w.sharers - 1 } s)) s

/-- RELEASE of several buffers. -/
def releaseAll (k by_ : Nat) (bs : List Nat) (s : State) : State :=
  bs.foldl (fun t b => release k b by_ t) s

/-- PASS of a packet's cells with their SHARERS set, at enqueue or delivery (R139). -/
def passCells (bs : List Nat) (dest sharers : Nat) (s : State) : State :=
  bs.foldl (fun t b =>
    match liveWord t 0 b with
    | some w => setWord 0 b { w with owner := dest, sharers := sharers } t
    | none => t) s

/-- Whether the threshold state lets a request through (R141): in pool 0 it holds the requests of units, not those of ingress. -/
def allocLets (s : State) (k owner : Nat) : Bool := poolLets s k owner || (k == 0 && ownerIngress ≤ owner && poolState s 0 != 1)

/-- Serves a request where it can be (R127, R134); the owner holds the buffers from then on. -/
def poolServe (k : Nat) (w : PoolWait) (s : State) : Option State :=
  let taken := if k = 0 then
      if allocLets s 0 w.owner then
        (allocCells w.owner w.sharers w.job (stripeOf s (.injector w.owner)) w.n s).map
          fun (bs, t, s) => (bs, setStripe (.injector w.owner) t s)
      else none
    else allocChunks k w.owner w.sharers w.job w.n s
  taken.map fun (bs, s) =>
    s.setPool k { s.pool k with granted := (s.pool k).granted ++ bs.map fun b => (w.owner, b) }

/-- ALLOC(pool, n) (R137): served, or it waits (R134, R127); a wait on EMPTY or a pause is counted, one on INIT or on a fenced control area is
not (R151, R461). -/
def poolAlloc (k owner n sharers job : Nat) (s : State) : State :=
  let w : PoolWait := ⟨owner, n, sharers, job⟩
  let queue := fun (s : State) => s.setPool k { s.pool k with waiting := (s.pool k).waiting ++ [w] }
  if poolState s k = 0 then s
  else if poolState s k = 1 then queue s
  else
    let first := !(s.pool k).waiting.any fun w => allocLets s k w.owner
    match (if first then poolServe k w s else none) with
    | some s => s
    | none => queue (if k ≠ 0 ∧ poolStalled s k then s else s.bump F.POOL_CNT_WAIT_COUNT 1 k)

/-- The first waiting request that the state lets through, and the rest in order (R134). -/
def firstLet (lets : PoolWait → Bool) : List PoolWait → Option (PoolWait × List PoolWait)
  | [] => none
  | w :: ws =>
    if lets w then some (w, ws)
    else match firstLet lets ws with
      | some (x, rest) => some (x, w :: rest)
      | none => none

/-- A waiting allocation is served once buffers are free and the state lets it through (R134). -/
def poolGrant (k : Nat) (s : State) : State :=
  match firstLet (fun w => allocLets s k w.owner) (s.pool k).waiting with
  | none => s
  | some (w, rest) =>
    match poolServe k w s with
    | none => s
    | some s => s.setPool k { s.pool k with waiting := rest }

/-- A write of EN = 1 to a disabled staging pool: INIT, or CFGERR (R130). Answers whether it was enabled. -/
def poolEnable (k mid : Nat) (s : State) : Bool × State :=
  if k = 0 ∨ s.flag F.POOL_CTL_EN k then (false, s)
  else if poolConfigOk s k then
    let s := ((s.set F.POOL_CTL_EN 1 k).set F.POOL_STATUS_CFGERR 0 k).set F.POOL_STATUS_STATE 1 k
    let s := scaleChanged (s.set F.POOL_MINFREE_FREE 0 k)
    (true, s.setPool k ⟨[FreeStore.full 0], [], (s.pool k).waiting, []⟩)
  else (false, (s.set F.POOL_STATUS_CFGERR 1 k).reject mid (R.POOL_CTL.addr k 0))

/-- The pool manager has filled the ring with the indices in ascending order and the state words with free ones: the pool enters NORMAL
(R130), with every buffer free. -/
def poolInitDone (k : Nat) (s : State) : State :=
  if poolState s k = 1 then
    let n := poolSize s k
    let stores := if k = 0 then tabulate 20 fun _ => FreeStore.full 98304 else [FreeStore.full n]
    let s := if k = 0 then s else
      controlWrite k (wordOff s k 0) (List.replicate (4 * n) 0) (controlWrite k 0 ((List.range n).flatMap (toBytes 4)) s)
    let s := s.setPool k { s.pool k with stores := stores, words := [] }
    let s := (s.set F.POOL_STATUS_STATE 2 k).set F.POOL_MINFREE_FREE n k
    poolSettle k s
  else s

/-- A write of EN = 0 to an enabled staging pool (R131). Answers whether it was disabled. -/
def poolDisable (k mid : Nat) (s : State) : Bool × State :=
  if k = 0 ∨ s.flag F.POOL_CTL_EN k = false then (false, s)
  else if (s.pool k).inUse ∨ (s.pool k).waiting ≠ [] then (false, s.reject mid (R.POOL_CTL.addr k 0))
  else
    let s := scaleChanged ((s.set F.POOL_CTL_EN 0 k).set F.POOL_STATUS_STATE 0 k)
    (true, s.setPool k ⟨[], [], [], []⟩)

/-- A write of 1 to POOL_STATUS.CLR (R151). -/
def poolStatusClear (k : Nat) (s : State) : State :=
  let s := s.zeroAll [R.POOL_CNT_ALLOC, R.POOL_CNT_WAIT, R.POOL_CNT_DFREE, R.POOL_CNT_WRONGOWN, R.POOL_CNT_RANGE,
    R.POOL_CNT_REFOVF, R.POOL_CNT_LEAK, R.POOL_CNT_RECLAIM, R.POOL_ERR_BUF, R.POOL_ERR_OWN, R.POOL_INCDIFF] k
  let s := (s.set F.POOL_STATUS_FIRSTEV 0 k).set F.POOL_STATUS_INCONS 0 k
  s.set F.POOL_MINFREE_FREE (s.pool k).free k

/-- The check of a pool's threshold commit (R143). -/
def thresholdsOk (s : State) (k : Nat) : Bool :=
  s.rdShadow R.POOL_PLOW k 0 ≤ s.rdShadow R.POOL_WARN k 0 && s.rdShadow R.POOL_PALL k 0 ≤ s.rdShadow R.POOL_PLOW k 0

/-- One allocated buffer met by a sweep (R148). -/
def auditBuffer (k : Nat) (referenced : Bool) (s : State) (b : Nat) : State :=
  match meetWord k b s with
  | (true, s) => s
  | (false, s) =>
    match liveWord s k b with
    | none => s
    | some w =>
      if referenced then s
      else if w.age = false then putWord k b { w with age := true } s
      else
        let s := poolRecord k b ownerAudit w.owner 5 (s.bump F.POOL_CNT_LEAK_COUNT 1 k)
        if s.flag F.BUF_AUDIT_RECLAIM then freeBuffer k b (s.bump F.POOL_CNT_RECLAIM_COUNT 1 k) else s

/-- A sweep of pool `k`, where `held` are the buffers some holder of R148 references. -/
def auditPool (k : Nat) (held : List Nat) (s : State) : State :=
  ((s.pool k).words.map Prod.fst).foldl (fun t b => auditBuffer k (held.contains b) t b) s

/-- The comparison at the end of a sweep (R149). -/
def auditCompare (s : State) (k : Nat) : State :=
  let p := s.pool k
  if poolState s k < 2 then s
  else
    let live : Nat := p.stores.foldl (fun n f => n + (if f.retired then 0 else if k = 0 then 98304 else poolSize s k)) 0
    let used := (p.words.filter fun w => w.2.alloc && !(((p.stores[storeOf k w.1]?).map FreeStore.retired).getD true)).length
    let diff : Int := (live : Int) - (used : Int) - (p.free : Int)
    if diff = 0 then s
    else
      let s := (s.set F.POOL_STATUS_INCONS 1 k).set F.POOL_INCDIFF_DIFF (unsigned 25 diff) k
      let s := if s.flag F.POOL_STATUS_FIRSTEV k then s else poolErrFill k 0 ownerAudit 0 6 s
      s.event 0x03 3 0 k [s.rd R.POOL_INCDIFF k 0]

end Sys2Proof.Machine
end

