-- ==== Sys2Proof/Machine/Bytes.lean ====
section
/-! DEFINITION. Check values and byte layouts that several chapters share: the link LCRC (R75), CRC-32C (R100), the
packet header's bytes (R99), status records (R103) and response packets (R104). -/

namespace Sys2Proof.Machine

/-- One bit of a CRC, most significant first, polynomial `poly` of 16 bits. -/
def crc16Bit (crc : Nat) (b : Bool) : Nat :=
  let sh := crc * 2 % 65536
  if (crc.testBit 15) != b then sh ^^^ 0x1021 else sh

/-- The LCRC register after one byte, its highest bit first (R75: no reflection). -/
def crc16Byte (crc : Nat) (b : Byte) : Nat :=
  (List.range 8).foldl (fun c k => crc16Bit c (b.toNat.testBit (7 - k))) crc

/-- The LCRC of frame bytes (R75). -/
def lcrc (bs : List Byte) : Nat := bs.foldl crc16Byte 0xFFFF

/-- One bit of the reflected CRC-32C (R100). -/
def crc32Bit (crc : Nat) : Nat :=
  if crc % 2 = 1 then (crc / 2) ^^^ 0x82F63B78 else crc / 2

/-- The CRC-32C register after one byte. -/
def crc32Byte (crc : Nat) (b : Byte) : Nat :=
  (List.range 8).foldl (fun c _ => crc32Bit c) (crc ^^^ b.toNat)

/-- The CRC-32C check value of bytes (R100). -/
def crc32c (bs : List Byte) : Nat := (bs.foldl crc32Byte 0xFFFFFFFF) ^^^ 0xFFFFFFFF

/-- The header as a 256-bit number (R98). -/
def headerNat (h : Header) : Nat :=
  h.dst.toNat + h.src.toNat <<< 20 + h.cls.toNat <<< 40 + h.kind.toNat <<< 44 + h.len.toNat <<< 50 +
  b2n h.ord <<< 63 + b2n h.cm <<< 64 + h.rsvA.toNat <<< 65 + h.ctx.toNat <<< 72 + h.rsvB.toNat <<< 84 +
  h.seq.toNat <<< 96 + h.step.toNat <<< 128 + h.addr.toNat <<< 144 + h.flow.toNat <<< 192 + h.rsvC.toNat <<< 224

/-- The 32 header bytes (R99). -/
def headerBytes (h : Header) : List Byte := toBytes 32 (headerNat h)

/-- The header that 256 bits spell (R98). -/
def headerOf (n : Nat) : Header where
  dst := BitVec.ofNat 20 n
  src := BitVec.ofNat 20 (n >>> 20)
  cls := BitVec.ofNat 4 (n >>> 40)
  kind := BitVec.ofNat 6 (n >>> 44)
  len := BitVec.ofNat 13 (n >>> 50)
  ord := n.testBit 63
  cm := n.testBit 64
  rsvA := BitVec.ofNat 7 (n >>> 65)
  ctx := BitVec.ofNat 12 (n >>> 72)
  rsvB := BitVec.ofNat 12 (n >>> 84)
  seq := BitVec.ofNat 32 (n >>> 96)
  step := BitVec.ofNat 16 (n >>> 128)
  addr := BitVec.ofNat 48 (n >>> 144)
  flow := BitVec.ofNat 32 (n >>> 192)
  rsvC := BitVec.ofNat 32 (n >>> 224)

/-- The check value of a packet: CM is taken as 0 (R100). -/
def packetCrc (h : Header) (payload : List Byte) : Nat :=
  crc32c (headerBytes { h with cm := false } ++ payload)

/-- The bytes of a frame: header, payload, trailer (R74). -/
def frameBytes (h : Header) (payload : List Byte) (trailer : BitVec 32) : List Byte :=
  headerBytes h ++ payload ++ toBytes 4 trailer.toNat

/-- Pad bytes of a frame of `n` bytes (R74). -/
def padOf (n : Nat) : Nat := (8 - n % 8) % 8

/-- Data blocks of frame bytes: byte 8k + i in bits [8i+7:8i] of block k, the last filled with zero bytes (R74). -/
def dataBlocks (bytes : List Byte) : List (BitVec 64) :=
  (List.range (ceilDiv bytes.length 8)).map fun k => BitVec.ofNat 64 (ofBytes ((bytes.drop (8 * k)).take 8))

/-- Cells of a packet, which are also its credit units (R126, R78). -/
def cellsOf (h : Header) : Nat := ceilDiv (36 + h.len.toNat) 256

/-- Wire size W of a packet in bytes (R153). -/
def wireSize (h : Header) : Nat := 8 * (ceilDiv (36 + h.len.toNat) 8 + 2)

/-- A status record (R103). -/
def statusRecord (status detail : Nat) : List Byte := toBytes 8 (status % 256 + (detail % 2 ^ 24) * 256)

/-- The packet kinds of R102. -/
inductive Kind where
  | put | putAck | get | getResp | ack | contrib | partial_ | xpartial | result | cerr | tide | other
  deriving DecidableEq, Repr

/-- The kind a header names (R102). -/
def kindOf (h : Header) : Kind :=
  match h.kind.toNat with
  | 0x00 => .put | 0x01 => .putAck | 0x02 => .get | 0x03 => .getResp | 0x04 => .ack
  | 0x08 => .contrib | 0x09 => .partial_ | 0x0A => .xpartial | 0x0B => .result | 0x0C => .cerr
  | 0x10 => .tide | _ => .other

/-- Header of a response to `h` of kind `kind` with `len` payload bytes, sent by endpoint `self` (R104). -/
def responseHeader (h : Header) (self kind len addr : Nat) : Header :=
  { h with
    dst := h.src, src := BitVec.ofNat 20 self, kind := BitVec.ofNat 6 kind, len := BitVec.ofNat 13 len
    cm := false, rsvA := 0, rsvB := 0, rsvC := 0, addr := BitVec.ofNat 48 addr }

end Sys2Proof.Machine
end

