-- ==== Sys2Proof/Machine/Ports.lean ====
section
/-! DEFINITION. Port layout (R65 to R68), port state and fence (R69, R119), transmit presets (R581), the packet store
and egress queues (R126, R139, R146, R152), and the accounting of receive credit (R79 to R81, R142). -/

namespace Sys2Proof.Machine

/-- The mode of quad `q` that is in force (R65, R66): 3 for an odd quad that holds 2, and for the odd partner of a
mode 2 quad, which defines no port. -/
def quadMode (s : State) (q : Nat) : Nat :=
  let m := s.get F.LINK_QMODE_MODE (4 * q)
  if q % 2 = 1 then
    if s.get F.LINK_QMODE_MODE (4 * (q - 1)) = 2 then 3 else if m = 2 then 3 else m
  else m

/-- First lane and configured width of port `p` in the active layout (R65). -/
def portDef (s : State) (p : Nat) : Option (Nat × Nat) :=
  if p < 256 then
    match quadMode s p with
    | 0 => some (4 * p, 4)
    | 1 => some (4 * p, 2)
    | 2 => some (4 * p, 8)
    | _ => none
  else if p < 512 then
    if quadMode s (p - 256) = 1 then some (4 * (p - 256) + 2, 2) else none
  else none

/-- Whether the active layout defines port `p`. -/
def portDefined (s : State) (p : Nat) : Bool := (portDef s p).isSome

/-- The port that holds a lane (R97). -/
def portOfLane (s : State) (lane : Nat) : Option Nat :=
  let q := lane / 4
  let cand := [q, q - 1, 256 + q]
  cand.find? fun p =>
    match portDef s p with
    | some (l, w) => decide (l ≤ lane ∧ lane < l + w)
    | none => false

/-- Ports in the active layout (R31). -/
def portCount (s : State) : Nat := ((List.range 512).filter (portDefined s)).length

/-- Port state codes (R69). -/
def portState (s : State) (p : Nat) : Nat := s.get F.PORT_STATUS_STATE p

/-- Whether port `p` reads ACTIVE or RETRAIN. -/
def portUp (s : State) (p : Nat) : Bool := portState s p == 5 || portState s p == 6

/-- The fence of port `p` (R119). -/
def portFenced (s : State) (p : Nat) : Bool :=
  !portUp s p || (s.get F.FWD_PFENCEH_HOST 0 (p / 32)).testBit (p % 32)

/-- The job tag of port `p` (R115). -/
def portJob (s : State) (p : Nat) : Nat := fieldOf (s.get F.FWD_PORTJOB_TAGS 0 (p / 4)) (8 * (p % 4)) 8

/-- The link layer of a port at reset and after DOWN. -/
def LinkSt.initial : LinkSt where
  phase := 0
  since := 0
  peerInit := List.replicate 11 none
  peerDone := false
  sentDone := false
  txSeq := 0
  stored := []
  noProgress := 0
  replayFrom := none
  rxExp := 0
  nakHeld := false
  unacked := 0
  unackedAt := 0
  rxCount := List.replicate 9 0
  withheld := List.replicate 9 0
  lastCount := List.replicate 9 0
  tx := none
  rx := .idle
  ptr := 0
  deficit := List.replicate 8 0

/-- The link layer of port `p`. -/
def State.link (s : State) (p : Nat) : LinkSt := (lookup s.net.links p).getD LinkSt.initial

/-- Replaces the link layer of port `p`. -/
def State.setLink (s : State) (p : Nat) (l : LinkSt) : State :=
  { s with net.links := place s.net.links p l }

/-- A control word (R72): type, and fields above it. -/
def ctlWord (typ fields : Nat) : BitVec 64 := BitVec.ofNat 64 (typ + fields <<< 8)

/-- A CRD word (R72, R80). -/
def crdWord (c count : Nat) : BitVec 64 := ctlWord 0x04 (c + (count % 65536) <<< 4)

/-- Byte `a` of the calibration set in use. -/
def calByte (s : State) (a : Nat) : Nat := ((lookup s.cal a).getD 0).toNat

/-- The transmit preset of a lane for a form, as a LINK_TXEQ word: from the calibration set in use, or PRE 4, MAIN 48,
POST 8 (R581, R549, R552). -/
def lanePreset (s : State) (lane form : Nat) : Nat :=
  if s.flag F.CAL_STATUS_VALID then
    let a := 0x1000 + 32 * lane + 3 * form
    calByte s a % 64 + (calByte s (a + 1) % 64) <<< 8 + (calByte s (a + 2) % 64) <<< 16
  else 4 + 48 <<< 8 + 8 <<< 16

/-! Packets and queues. -/

/-- Queue number of class `c` at port `p` (R152). -/
def qid (p c : Nat) : Nat := 9 * p + c

/-- The egress queue of class `c` at port `p`, oldest first. -/
def State.queue (s : State) (p c : Nat) : List QEnt := (lookup s.net.egress (qid p c)).getD []

/-- A packet by its number. -/
def State.pkt (s : State) (id : Nat) : Option Pkt := lookup s.net.pkts id

/-- Replaces a packet. -/
def State.setPkt (s : State) (id : Nat) (p : Pkt) : State := { s with net.pkts := place s.net.pkts id p }

/-- Cells of a queue entry's packet. -/
def entCells (s : State) (e : QEnt) : Nat :=
  match s.pkt e.pkt with
  | some k => cellsOf k.hdr
  | none => 0

/-- Whether any lane group of a berth die is powered (R525): a port on it is neither DOWN nor FAILED. -/
def berthAwake (s : State) (d : Nat) : Bool :=
  (List.range 64).any fun i =>
    match portOfLane s (64 * d + i) with
    | some p => portState s p != 0 && portState s p != 7
    | none => false

/-- Cells queued in class `c` of port `p` (R113, R122, R171). -/
def depth (s : State) (p c : Nat) : Nat := (s.queue p c).foldl (fun n e => n + entCells s e) 0

/-- The stop of R123 for a TC queue whose occupancy has changed: in force from STOP cells until it falls below SLOW. -/
def stoppedNow (p c : Nat) (s : State) : List Nat :=
  let d := depth s p c
  let q := qid p c
  if 8 ≤ c then s.net.stopped
  else if s.get F.FWD_THRTL_STOP ≤ d then
    if s.net.stopped.contains q then s.net.stopped else s.net.stopped ++ [q]
  else if d < s.get F.FWD_THRTL_SLOW ∧ s.net.stopped.contains q then s.net.stopped.filter (· != q)
  else s.net.stopped

/-- The stop latch after queue (p, c) changed. -/
def stopLatch (p c : Nat) (s : State) : State := { s with net.stopped := stoppedNow p c s }

/-- Replaces an egress queue; an empty queue has no entry. -/
def State.setQueue (s : State) (p c : Nat) (q : List QEnt) : State :=
  stopLatch p c { s with net.egress := put s.net.egress (qid p c) q [] }

/-- Units of class `c` freed at the receiver of port `p`: added to the cumulative COUNT, which a CRD word carries, or
withheld while pool 0's state says so (R79 to R81, R142). Only an ACTIVE port sends the word at once (R69). -/
def rxFree (p c units : Nat) (s : State) : State :=
  let l := s.link p
  if creditWithheld s c then
    s.setLink p { l with withheld := l.withheld.set c (l.withheld.getD c 0 + units) }
  else
    let n := (l.rxCount.getD c 0 + units) % 65536
    let s := s.setLink p { l with rxCount := l.rxCount.set c n }
    if portState s p = 5 then s.emit (.linkWord p (crdWord c n)) else s

/-- A port's packet returns its credit, once (R79). -/
def returnCredit (id : Nat) (s : State) : State :=
  match s.pkt id with
  | none => s
  | some k =>
    match k.owes, k.src with
    | true, .port p => rxFree p k.hdr.cls.toNat (cellsOf k.hdr) (s.setPkt id { k with owes := false })
    | _, _ => s

/-- TC credit is freed once the whole packet stands in pool 0 (R81). -/
def creditWritten (id : Nat) (s : State) : State :=
  match s.pkt id with
  | none => s
  | some k => if k.hdr.cls.toNat < 8 ∧ k.complete ∧ k.cells ≠ [] then returnCredit id s else s

/-- Removes a packet that nothing needs any more; it returns what credit it still owes, as an XC packet does that leaves the XC receive
buffer of its port (R81). -/
def reapPkt (id : Nat) (s : State) : State :=
  match s.pkt id with
  | none => s
  | some k =>
    if k.refs = 0 ∧ k.inRx = false then
      let s := (returnCredit id s).heal (· == .packet id)
      { s with net.pkts := erase s.net.pkts id }
    else s

/-- A replica of an instance for a rank has ended (R239): one that did not finish whole fences that rank. The second number
of `coll` is rank + 1,024 × the instance's serial number; an instance that has ended takes no notice. -/
def collEnd (coll : Option (Nat × Nat)) (whole : Bool) (s : State) : State :=
  match coll with
  | none => s
  | some (c, tag) =>
    match lookup s.colls c with
    | none => s
    | some g =>
      let rank := tag % 1024
      if g.serial ≠ tag / 1024 then s
      else { s with colls := place s.colls c { g with
          replicas := g.replicas - 1
          fenced := if whole || g.fenced.contains rank then g.fenced else g.fenced ++ [rank] } }

/-- Whether a replica is for a rank that its instance has fenced (R239). -/
def rankFenced (s : State) (coll : Option (Nat × Nat)) : Bool :=
  match coll with
  | none => false
  | some (c, tag) =>
    match lookup s.colls c with
    | none => false
    | some g => g.serial == tag / 1024 && g.fenced.contains (tag % 1024)

/-- One replica or holder is done with a packet: it releases every cell under its owner code (R146). -/
def dropRef (id owner : Nat) (s : State) : State :=
  match s.pkt id with
  | none => s
  | some k =>
    let s := collEnd k.coll k.sent (releaseAll 0 owner k.cells s)
    reapPkt id (s.setPkt id { k with refs := k.refs - 1 })

/-- The last dropped packet (R124): reasons 1 NOROUTE, 2 HDRERR, 3 CRCERR, 4 FENCED, 5 EPFENCED. -/
def lastDrop (h : Header) (reason : Nat) (s : State) : State :=
  (s.set F.FWD_LASTDROP_DST h.dst.toNat).set F.FWD_LASTDROP_REASON reason

/-- A drop with a reason, counted (R124). -/
def countDrop (h : Header) (reason : Nat) (s : State) : State :=
  let s := match reason with
    | 1 => s.bump F.FWD_CNT_NOROUTE_COUNT
    | 2 => s.bump F.FWD_CNT_HDRERR_COUNT
    | 3 => s.bump F.FWD_CNT_CRCERR_COUNT
    | 4 => s.bump F.FWD_CNT_FENCEDROP_COUNT
    | _ => s.bump F.FWD_CNT_EPFENCE_COUNT
  lastDrop h reason s

/-- Adds a packet to the store. -/
def addPkt (k : Pkt) (s : State) : Nat × State :=
  (s.net.nextPkt, { s with net.pkts := place s.net.pkts s.net.nextPkt k, net.nextPkt := s.net.nextPkt + 1 })

/-- Enqueues a replica at class `c` of port `p`; CM is set where the queue then holds at least MARK cells, never for an
injected packet (R122). -/
def enqueue (id p c : Nat) (s : State) : State :=
  match s.pkt id with
  | none => s
  | some k =>
    let d := depth s p c + cellsOf k.hdr
    let mark := s.get F.FWD_CMTHR_MARK 0 c
    let own := match k.src with
      | .injector _ => true
      | .port _ => false
    let marks := !own && mark != 0 && decide (mark ≤ d) && !k.hdr.cm
    let s := if marks then s.bump F.FWD_CNT_CMARK_COUNT else s
    s.setQueue p c (s.queue p c ++ [⟨id, k.hdr.cm || marks, d, s.ticks, false⟩])

/-- The queues that hold a packet are rid of it, one reference each (R147, R100). -/
def discardQueued (id : Nat) (s : State) : State :=
  let n := s.net.egress.foldl (fun n e => n + (e.2.filter fun x => x.pkt == id).length) 0
  let was := (s.net.egress.filter fun e => e.2.any fun x => x.pkt == id).map Prod.fst
  let s := { s with net.egress :=
    (s.net.egress.map fun (e : Nat × List QEnt) => (e.1, e.2.filter fun x => x.pkt != id)).filter fun e => !e.2.isEmpty }
  was.foldl (fun t q => stopLatch (q / 9) (q % 9) t) (iterate n (fun _ t => dropRef id ownerEgress t) s)

/-- A packet is taken out of the ingress and device-receive paths, with the cells it holds there. -/
def discardHeld (id : Nat) (s : State) : State :=
  let waits := s.net.ingress.any fun (e : Nat × List Nat) => e.2.contains id
  let s := { s with net.ingress :=
    (s.net.ingress.map fun (e : Nat × List Nat) => (e.1, e.2.filter (· != id))).filter fun e => !e.2.isEmpty }
  let s := if waits then dropRef id ownerIngress s else s
  if s.net.devRx.contains id then
    dropRef id ownerDevRx { s with net.devRx := s.net.devRx.filter (· != id) }
  else s

/-- An error found in an arriving packet (R147, R90): replicas not yet started are discarded, started ones end with ABT
because `bad` is set. -/
def failPkt (id : Nat) (s : State) : State :=
  match s.pkt id with
  | none => s
  | some k =>
    let s := s.setPkt id { k with bad := true, inRx := false }
    reapPkt id (discardHeld id (discardQueued id s))

/-- The reception of the current frame ends: its packet, if it has one, fails. -/
def abortRx (p : Nat) (s : State) : State :=
  let l := s.link p
  let s := s.setLink p { l with rx := .idle }
  match l.rx with
  | .packet id => failPkt id s
  | _ => s

/-- A port's own packets are lost with its replay storage (R87, R147): stored frames are counted, the frame being sent
releases its cells, and the frame being received is abandoned. -/
def loseLink (p : Nat) (s : State) : State :=
  let l := s.link p
  let s := if l.stored.isEmpty then s else s.bump F.PORT_CNT_REPLAYLOST_COUNT l.stored.length p
  let s := s.setLink p { l with stored := [], tx := none, replayFrom := none, noProgress := 0 }
  let s := match l.tx with
    | some t => dropRef t.pkt ownerEgress s
    | none => s
  abortRx p s

/-- Appends a sample, or counts it dropped when the FIFO is full (R168). -/
def addSample (rec : Nat) (s : State) : State :=
  let f := s.net.samples
  if f.items.length < 1024 then { s with net.samples.items := f.items ++ [rec] }
  else { s with net.samples.gap := f.gap + 1 }

/-- The places of the samples after the oldest has gone. -/
def nextSample : Spot → Spot
  | .sample i => .sample (i - 1)
  | x => x

/-- Takes the oldest sample off; a gap marker for `lost` records comes into the freed entry (R168, R432). -/
def dropSample (rest : List Nat) (lost : Nat) (s : State) : State :=
  let g := if lost = 0 then [] else [0x1FFF + (saturate 21 lost) <<< 13 + 2 ^ 63]
  { s.heal (· == .sample 0) with
    net.samples := ⟨rest ++ g, 0⟩
    upsets := (s.heal (· == .sample 0)).upsets.map fun u => { u with spot := nextSample u.spot } }

/-- Removes the oldest sample that can be read (R168); one that cannot is discarded and counts as lost (R434). `fuel` bounds those. -/
def popSampleFrom : Nat → State → Nat × State
  | 0, s => (0, s)
  | fuel + 1, s =>
    match s.net.samples.items with
    | [] => (0, s)
    | r :: rest =>
      match s.touch 8 0 0 (· == .sample 0) with
      | (true, s) => popSampleFrom fuel (dropSample rest (s.net.samples.gap + 1) s)
      | (false, s) => (r, dropSample rest s.net.samples.gap s)

def popSample (s : State) : Nat × State := popSampleFrom (s.net.samples.items.length + 1) s

end Sys2Proof.Machine
end

