-- ==== Sys2Proof/Machine/LinkLayer.lean ====
section
/-! DEFINITION. A port's bring-up, failure and downshift (R69, R70, R76, R89, R93 to R95) and its link-level retry
(R84 to R87), with the meanings of the commands that drive them. -/

namespace Sys2Proof.Machine

/-- Failure causes (R96). -/
def causeTrain : Nat := 1
def causeLock : Nat := 2
def causeInit : Nat := 3
def causeWidth : Nat := 4
def causeRetry : Nat := 5
def causeLanes : Nat := 6

/-- First lane of a port, 0 where the layout does not define it. -/
def portLane (s : State) (p : Nat) : Nat := ((portDef s p).map Prod.fst).getD 0

/-- Configured width of a port in lanes. -/
def portWidth (s : State) (p : Nat) : Nat := ((portDef s p).map Prod.snd).getD 0

/-- The healthy-lane mask of a port: lanes whose LFAIL is 0 (R94). -/
def healthyMask (s : State) (p : Nat) : Nat :=
  (List.range (portWidth s p)).foldl
    (fun m k => m + (if s.flag F.LINK_STATUS_LFAIL (portLane s p + k) then 0 else 2 ^ k)) 0

/-- Runs an update over a port's lanes. -/
def overLanes (p : Nat) (f : Nat → State → State) (s : State) : State :=
  iterate (portWidth s p) (fun k t => f (portLane s p + k) t) s

/-- The lowest aligned block of `w` lanes inside a mask of `width` lanes (R94). -/
def blockAt (mask width w : Nat) : Option Nat :=
  if w = 0 then none
  else ((List.range (width / w)).map (· * w)).find? fun b => (mask >>> b) % 2 ^ w == 2 ^ w - 1

/-- First lane and width that a port takes from the lanes healthy at both ends (R94): all of them, or with DSHIFT the
widest aligned half or quarter of at least 2 lanes. -/
def usableBlock (s : State) (p mask : Nat) : Option (Nat × Nat) :=
  let w := portWidth s p
  if blockAt mask w w = some 0 then some (0, w)
  else if s.flag F.PORT_CTL_DSHIFT p = false then none
  else match (if 4 ≤ w then blockAt mask w (w / 2) else none) with
    | some b => some (b, w / 2)
    | none =>
      match (if 8 ≤ w then blockAt mask w (w / 4) else none) with
      | some b => some (b, w / 4)
      | none => none

/-- A port's event record, whose payload is PORT_STATUS (R70, R487). -/
def portEvent (typ p : Nat) (s : State) : State :=
  s.event 0x02 typ (portJob s p) p [s.rd R.PORT_STATUS p 0]

/-- A berth die whose lane groups all slept is powered with port `p`: its gate engine restarts, and entries whose times have passed
are late (R196). -/
def berthRestart (p : Nat) (s : State) : State :=
  let d := portLane s p / 64
  if berthAwake s d then s
  else match lookup s.tm.cues (100 + d) with
    | some q => { s with tm.cues := place s.tm.cues (100 + d) { q with predAt := s.fabTime } }
    | none => s

/-- Enters a bring-up state. -/
def enterState (st p : Nat) (s : State) : State :=
  let s := (berthRestart p s).set F.PORT_STATUS_STATE st p
  s.setLink p { s.link p with since := s.ticks }

/-- Packets of port `p` owe no credit to a link that has ended: the next one starts its counts afresh (R79). -/
def forgetCredit (p : Nat) (s : State) : State :=
  { s with net.pkts := s.net.pkts.map fun e => (e.1, if e.2.src = .port p then { e.2 with owes := false } else e.2) }

/-- The link layer after the link is lost: only the scheduler's position and deficits stay. -/
def resetLink (p : Nat) (s : State) : State :=
  let s := forgetCredit p s
  let l := s.link p
  s.setLink p { LinkSt.initial with ptr := l.ptr, deficit := l.deficit, since := s.ticks }

/-- The lanes of a port that has failed are idle (R69); LFAIL stays (R93). -/
def idleLane (l : Nat) (s : State) : State :=
  (((s.set F.LINK_STATUS_SIGDET 0 l).set F.LINK_STATUS_CDRLOCK 0 l).set F.LINK_STATUS_TRAINED 0 l).set F.LINK_STATUS_FECALIGN 0 l

/-- Enters FAILED with a cause (R69, R70, R87). -/
def failPort (cause p : Nat) (s : State) : State :=
  let s := overLanes p idleLane (resetLink p (loseLink p s))
  let s := ((s.set F.PORT_STATUS_STATE 7 p).set F.PORT_STATUS_CAUSE cause p).set F.PORT_STATUS_WIDTH 0 p
  portEvent 2 p (s.set F.PORT_STATUS_LMASK 0 p)

/-- Enters DOWN (R69, R87, R93): lane status returns to 0, LFAIL with it. -/
def downPort (p : Nat) (s : State) : State :=
  let s := resetLink p (loseLink p s)
  let s := ((s.set F.PORT_STATUS_STATE 0 p).set F.PORT_STATUS_WIDTH 0 p).set F.PORT_STATUS_LMASK 0 p
  overLanes p (fun l t => t.zero R.LINK_STATUS l) s

/-- Forgets the INIT exchange. -/
def LinkSt.noInit (l : LinkSt) : LinkSt :=
  { l with peerInit := List.replicate 11 none, peerDone := false, sentDone := false }

/-- Leaves ACTIVE for RETRAIN (R69, R89): replay storage and credit counters are kept. -/
def retrainPort (p : Nat) (s : State) : State :=
  if portState s p = 5 then
    let s := (enterState 6 p s).bump F.PORT_CNT_RETRAIN_COUNT 1 p
    let s := abortRx p s
    s.setLink p { (s.link p).noInit with phase := 2 }
  else s

/-- VALUE of the INIT word with an index (R76). -/
def initValue (s : State) (p idx : Nat) : Nat :=
  if idx < 8 then s.get F.PORT_CRED_UNITS p idx
  else if idx = 8 then s.get F.PORT_CRED8_UNITS p
  else if idx = 9 then healthyMask s p + portWidth s p <<< 8
  else (s.link p).rxExp

/-- Whether a port is in the INIT exchange. -/
def inInit (s : State) (p : Nat) : Bool :=
  portState s p == 4 || (portState s p == 6 && (s.link p).phase == 4)

/-- Sends the INIT words; DONE is set once every index of the peer is held (R76). -/
def sendInit (p : Nat) (s : State) : State :=
  let l := s.link p
  let done := l.peerInit.all Option.isSome
  let s := iterate 11 (fun i t =>
    t.emit (.linkWord p (ctlWord 0x07 (i + (initValue s p i % 65536) <<< 4 + b2n done <<< 20)))) s
  s.setLink p { s.link p with sentDone := done }

/-- A peer's INIT value. -/
def peerValue (s : State) (p idx : Nat) : Nat := (((s.link p).peerInit.getD idx none).getD 0)

/-- Frames of replay storage from LSEQ `e` onwards. -/
def storedFrom (e : Nat) : List Stored → List Stored
  | [] => []
  | f :: fs => if f.lseq = e then f :: fs else storedFrom e fs

/-- The SOF, EOF and ABT words of a frame (R72); EOF carries the PAD and the LCRC of its bytes (R74, R75). -/
def sofWord (cls lseq : Nat) : BitVec 64 := ctlWord 0x01 (cls + lseq <<< 4)
def eofWord (bytes : List Byte) : BitVec 64 := ctlWord 0x02 (padOf bytes.length + lcrc bytes <<< 3)
def abtWord (cls lseq : Nat) : BitVec 64 := ctlWord 0x03 (cls + lseq <<< 4)

/-- A frame on a port that ends well (R74). -/
def frameOut (p lseq cls : Nat) (h : Header) (payload : List Byte) (trailer : Word) : Out :=
  let bytes := frameBytes h payload trailer
  .frame p (sofWord cls lseq) (dataBlocks bytes) (eofWord bytes)

/-- A frame that ends with ABT after some data blocks (R90). -/
def abortOut (p lseq cls : Nat) (blocks : List (BitVec 64)) : Out := .frame p (sofWord cls lseq) blocks (abtWord cls lseq)

/-- Sends a stored frame again (R86): one that was aborted, or that replay storage has lost, as SOF and ABT (R90, R489 class 10). -/
def resend (p : Nat) (f : Stored) (s : State) : Stored × State :=
  let f := { f with sentAt := s.ticks }
  if f.abt then (f, s.emit (abortOut p f.lseq f.cls []))
  else match s.touch 10 p f.lseq (· == .replay p f.lseq) with
    | (true, s) => ({ f with abt := true }, (s.bump F.PORT_CNT_ABORTTX_COUNT 1 p).emit (abortOut p f.lseq f.cls []))
    | (false, s) => (f, s.emit (frameOut p f.lseq f.cls f.hdr f.payload f.trailer))

/-- Sends stored frames again, in order. -/
def resendAll (p : Nat) : List Stored → State → List Stored × State
  | [], s => ([], s)
  | f :: fs, s =>
    let (f, s) := resend p f s
    let (fs, s) := resendAll p fs s
    (f :: fs, s)

/-- Replays every stored frame from `e` onwards, in order (R86). -/
def replayNow (p e : Nat) (s : State) : State :=
  let again := storedFrom e (s.link p).stored
  let (sent, s) := resendAll p again (s.bump F.PORT_CNT_REPLAY_COUNT again.length p)
  let l := s.link p
  s.setLink p { l with
    replayFrom := none
    stored := l.stored.map fun f => (sent.find? fun g => g.lseq == f.lseq).getD f }

/-- Replays from `e` once the frame being sent has ended (R86: before any new frame). -/
def replayFromSeq (p e : Nat) (s : State) : State :=
  let l := s.link p
  match l.tx with
  | some _ => s.setLink p { l with replayFrom := some e }
  | none => replayNow p e s

/-- A replay demanded by NAK or by ACKTMO: after MAX replays without progress the port retrains (R87). -/
def demandReplay (p e : Nat) (s : State) : State :=
  let l := s.link p
  if max 1 (s.get F.PORT_RETRY_MAX p) ≤ l.noProgress then retrainPort p s
  else replayFromSeq p e (s.setLink p { l with noProgress := l.noProgress + 1 })

/-- Each active lane's eye margin is recorded (R505). -/
def recordMargins (p : Nat) (s : State) : State :=
  let (n, s) := s.fresh
  overLanes p (fun lane t => { t with laneMargin := place t.laneMargin lane (Config.eyeMargin n lane).toNat }) s

/-- Enters ACTIVE at the end of INIT, or FAILED (LANES) where no lane block is usable (R69, R76, R94). -/
def enterActive (p : Nat) (s : State) : State :=
  let fresh := portState s p == 4
  match usableBlock s p (healthyMask s p &&& (peerValue s p 9 % 256)) with
  | none => failPort causeLanes p s
  | some (b, w) =>
    let old := if fresh then portWidth s p else s.get F.PORT_STATUS_WIDTH p
    let s := (s.set F.PORT_STATUS_WIDTH w p).set F.PORT_STATUS_LMASK ((2 ^ w - 1) <<< b) p
    let s := if fresh then
        let s := iterate 9 (fun c t =>
          (t.set F.PORT_TXCRED_AVAIL (peerValue s p c) p c).set F.PORT_TXCRED_PEER (peerValue s p c) p c) s
        s.setLink p { s.link p with txSeq := peerValue s p 10 % 256 }
      else s
    let s := recordMargins p (portEvent 1 p (enterState 5 p s))
    let s := if w < old then portEvent 3 p (s.bump F.PORT_CNT_DOWNSHIFT_COUNT 1 p) else s
    if fresh then s
    else
      let l := s.link p
      let e := peerValue s p 10 % 256
      let kept := if e = l.txSeq then [] else if (storedFrom e l.stored).isEmpty then l.stored else storedFrom e l.stored
      let s := s.setLink p { l with stored := kept, noProgress := 0 }
      match kept with
      | [] => s
      | f :: _ => replayFromSeq p f.lseq s

/-- Enters ACTIVE once DONE has gone both ways (R76). -/
def settleInit (p : Nat) (s : State) : State :=
  if (s.link p).sentDone && (s.link p).peerDone then enterActive p s else s

/-- Enters INIT, or the INIT phase of a retrain, and sends its words. -/
def startInit (p : Nat) (s : State) : State :=
  let s := if portState s p = 6 then s.setLink p { (s.link p).noInit with phase := 4 }
    else
      let s := enterState 4 p s
      s.setLink p (s.link p).noInit
  sendInit p s

/-- A write of 1 to PORT_CTL.EN by master `mid` (R68, R69). -/
def portEnable (mid p : Nat) (s : State) : State :=
  if portDefined s p = false then s.reject mid (R.PORT_CTL.addr p 0)
  else
    let s := s.set F.PORT_CTL_EN 1 p
    if portState s p = 0 then enterState 1 p s else s

/-- A write of 0 to PORT_CTL.EN (R69). -/
def portDisable (p : Nat) (s : State) : State :=
  let s := s.set F.PORT_CTL_EN 0 p
  if portState s p = 0 then s else downPort p s

/-- A write of 1 to PORT_CTL.REWIDEN (R93, R95). -/
def portRewiden (p : Nat) (s : State) : State :=
  retrainPort p (overLanes p (fun l t => t.set F.LINK_STATUS_LFAIL 0 l) s)

def execPortEnable (m : MasterId) (p : PortId) (s : State) : Res := ok (portEnable m.toNat p s)

def execPortDisable (p : PortId) (s : State) : Res := ok (portDisable p s)

def execPortRetrain (p : PortId) (s : State) : Res := ok (retrainPort p s)

def execPortRewiden (p : PortId) (s : State) : Res := ok (portRewiden p s)

/-- The lane group of a port (R27), 0 to 63. -/
def laneGroup (s : State) (p : Nat) : Nat := portLane s p / 16

/-- WAKE to TRAINING (R69); the PLL of a group that failed calibration never locks (R547). -/
def execWakePllLocked (p : PortId) (s : State) : Res :=
  if portState s p = 1 ∧ s.net.groupBad.testBit (laneGroup s p) = false then ok (enterState 2 p s) else ok s

def execWakeTimeout (p : PortId) (s : State) : Res :=
  if portState s p = 1 ∧ s.passedUs (s.link p).since 1000 then ok (failPort causeTrain p s) else ok s

/-- All lanes have trained or adapted, a retrain's failed ones apart: LOCKING, or the LOCKING phase of a retrain (R69, R94). -/
def execTrainingDone (p : PortId) (s : State) : Res :=
  let trained := overLanes p fun l t =>
    if t.flag F.LINK_STATUS_LFAIL l then t
    else ((t.set F.LINK_STATUS_SIGDET 1 l).set F.LINK_STATUS_CDRLOCK 1 l).set F.LINK_STATUS_TRAINED 1 l
  if portState s p = 2 then ok (enterState 3 p (trained s))
  else if portState s p = 6 ∧ (s.link p).phase = 2 then
    let s := trained s
    ok (s.setLink p { s.link p with phase := 3 })
  else ok s

/-- 500 ms for KR1, 50 ms for C2M (R69). FORM is a lane's and the limit a port's: that of the port's first lane counts (DESIGN CHOICE, log
entry 122). -/
def execTrainingTimeout (p : PortId) (s : State) : Res :=
  let limit := if s.get F.LINK_CFG_FORM (portLane s p) = 0 then 500000 else 50000
  if portState s p = 2 ∧ s.passedUs (s.link p).since limit then ok (failPort causeTrain p s) else ok s

def execLockAligned (p : PortId) (s : State) : Res :=
  let aligned := overLanes p fun l t => if t.flag F.LINK_STATUS_LFAIL l then t else t.set F.LINK_STATUS_FECALIGN 1 l
  if portState s p = 3 then ok (startInit p (aligned s))
  else if portState s p = 6 ∧ (s.link p).phase = 3 then ok (startInit p (aligned s))
  else ok s

def execLockTimeout (p : PortId) (s : State) : Res :=
  if portState s p = 3 ∧ s.passedUs (s.link p).since 1000 then ok (failPort causeLock p s) else ok s

/-- A received INIT word (R76): recorded; INDEX 9 may fail the port with WIDTH in INIT, or with LANES in RETRAIN. -/
def execInitWordRx (p : PortId) (index : BitVec 4) (value : BitVec 16) (done : Bool) (s : State) : Res :=
  if inInit s p = false then ok s
  else
    let l := s.link p
    let s := s.setLink p { l with
      peerInit := if index.toNat ≤ 10 then l.peerInit.set index.toNat (some value.toNat) else l.peerInit
      peerDone := l.peerDone || done }
    let mask := value.toNat % 256
    let width := fieldOf value.toNat 8 4
    if index = 9 ∧ portState s p = 4 ∧ (width ≠ portWidth s p ∨ healthyMask s p &&& mask = 0) then
      ok (failPort causeWidth p s)
    else if index = 9 ∧ portState s p = 6 ∧ usableBlock s p (healthyMask s p &&& mask) = none then
      ok (failPort causeLanes p s)
    else ok (settleInit p s)

/-- Every 1 µs the INIT words go out again (R76). -/
def execInitRepeat (p : PortId) (s : State) : Res :=
  if inInit s p then ok (settleInit p (sendInit p s)) else ok s

def execInitTimeout (p : PortId) (s : State) : Res :=
  if portState s p = 4 ∧ s.passedUs (s.link p).since 10000 then ok (failPort causeInit p s) else ok s

def execRetrainTimeout (p : PortId) (s : State) : Res :=
  if portState s p = 6 ∧ s.passedUs (s.link p).since 10000 then ok (failPort causeRetry p s) else ok s

/-- A lane of port `p` fails (R93): LFAIL is set, and an ACTIVE port retrains (R94). -/
def failLane (p lane : Nat) (s : State) : State := retrainPort p (s.set F.LINK_STATUS_LFAIL 1 lane)

/-- Corrected symbols on a lane (R93, R97): counted, and added up over a window of 2^WINDOW µs that opens with the first of them (DESIGN
CHOICE, log entry 131). Answers whether they are more than THRESH, which 0 disables. -/
def countSymbols (lane n : Nat) (s : State) : Bool × State :=
  if n = 0 then (false, s)
  else
    let (from_, sum) := match lookup s.net.symbols lane with
      | some x => if s.passedUs x.1 (2 ^ s.get F.LINK_SERTHR_WINDOW lane) then (s.ticks, 0) else x
      | none => (s.ticks, 0)
    let thr := s.get F.LINK_SERTHR_THRESH lane
    (thr != 0 && decide (thr < sum + n),
      { s.bump F.LINK_CNT_SYMERR_COUNT n lane with net.symbols := place s.net.symbols lane (from_, sum + n) })

/-- A lane of a port that is up or coming up shows whether signal, clock lock and FEC alignment are there; it fails where one of them is
lost (R93, R97). -/
def execLaneFail (lane : LaneId) (sig cdr align : Bool) (s : State) : Res :=
  match portOfLane s lane with
  | none => ok s
  | some p =>
    if portState s p = 0 ∨ portState s p = 7 then ok s
    else
      let s := ((s.set F.LINK_STATUS_SIGDET (b2n sig) lane).set F.LINK_STATUS_CDRLOCK (b2n cdr) lane).set F.LINK_STATUS_FECALIGN (b2n align) lane
      ok (if sig && cdr && align then s else failLane p lane s)

/-- CRD word received (R80). -/
def execCrdRx (p : PortId) (c : ClassId) (count : BitVec 16) (s : State) : Res :=
  if portState s p ≠ 5 then ok s
  else
    let l := s.link p
    let delta := (count.toNat + 65536 - l.lastCount.getD c 0 % 65536) % 65536
    let avail := s.get F.PORT_TXCRED_AVAIL p c + delta
    if s.get F.PORT_TXCRED_PEER p c < avail then
      ok (retrainPort p (s.bump F.PORT_CNT_PROTERR_COUNT 1 p))
    else
      let s := s.setLink p { l with lastCount := l.lastCount.set c count.toNat }
      ok (s.set F.PORT_TXCRED_AVAIL avail p c)

/-- A link ACK frees replay storage up to its LSEQ (R86); progress of the acknowledged LSEQ restarts the count of R87. -/
def execLinkAckRx (p : PortId) (lseq : BitVec 8) (s : State) : Res :=
  if portState s p ≠ 5 then ok s
  else
    let l := s.link p
    match storedFrom lseq.toNat l.stored with
    | [] => ok s
    | _ :: rest => ok (s.setLink p { l with stored := rest, noProgress := 0 })

def execNakRx (p : PortId) (e : BitVec 8) (s : State) : Res :=
  if portState s p = 5 ∧ storedFrom e.toNat (s.link p).stored ≠ [] then ok (demandReplay p e.toNat s) else ok s

/-- Sends ACK for everything accepted so far (R86). -/
def sendAck (p : Nat) (s : State) : State :=
  let l := s.link p
  (s.setLink p { l with unacked := 0 }).emit (.linkWord p (ctlWord 0x05 ((l.rxExp + 255) % 256)))

/-- 200 ns after the oldest unacknowledged acceptance (R86). -/
def execAckDelayExpiry (p : PortId) (s : State) : Res :=
  let l := s.link p
  if portState s p = 5 ∧ 0 < l.unacked ∧ 20 ≤ s.elapsed l.unackedAt then ok (sendAck p s) else ok s

/-- Every class's cumulative COUNT is sent (R80). -/
def execCreditRefresh (p : PortId) (s : State) : Res :=
  if portState s p = 5 then
    ok (iterate 9 (fun c t => t.emit (.linkWord p (crdWord c ((s.link p).rxCount.getD c 0)))) s)
  else ok s

/-- The oldest stored frame has waited ACKTMO × 10 ns (R86, R96). -/
def execAcktmoExpiry (p : PortId) (s : State) : Res :=
  match (s.link p).stored with
  | [] => ok s
  | f :: _ =>
    if portState s p = 5 ∧ f.done ∧ s.get F.PORT_RETRY_ACKTMO p ≤ s.elapsed f.sentAt then ok (demandReplay p f.lseq s)
    else ok s

/-- The port's counters, SYMERR of its lanes among them, return to 0 (R96, R97). -/
def portCntClr (p : Nat) (s : State) : State :=
  let s := s.zeroAll [R.PORT_CNT_FECCORR, R.PORT_CNT_FECUNC, R.PORT_CNT_REPLAY, R.PORT_CNT_NAK, R.PORT_CNT_RETRAIN,
    R.PORT_CNT_ABORTTX, R.PORT_CNT_ABORTRX, R.PORT_CNT_PROTERR, R.PORT_CNT_CLOSEDDROP, R.PORT_CNT_DOWNSHIFT,
    R.PORT_CNT_REPLAYLOST] p
  overLanes p (fun l t => t.zero R.LINK_CNT_SYMERR l) s

def execPortCntClr (p : PortId) (s : State) : Res := ok (portCntClr p s)

/-- A write of FORM to LINK_CFG (R581): where it changes FORM, the preset of the new form replaces LINK_TXEQ; FORM is
class S under the port that holds the lane (R97). -/
def formWrite (mid lane form : Nat) (s : State) : State :=
  let enabled := match portOfLane s lane with
    | some p => s.flag F.PORT_CTL_EN p
    | none => false
  if form = s.get F.LINK_CFG_FORM lane then s
  else if enabled then s.reject mid (R.LINK_CFG.addr lane 0)
  else (s.set F.LINK_CFG_FORM form lane).wr R.LINK_TXEQ lane 0 (lanePreset s lane form)

def execFormWrite (m : MasterId) (lane : LaneId) (form : BitVec 1) (s : State) : Res :=
  ok (formWrite m.toNat lane form.toNat s)

end Sys2Proof.Machine
end

