-- ==== Sys2Proof/Machine/Forwarding.lean ====
section
/-! DEFINITION. Ingress checks and meters (R101, R160), the forwarding lookup (R106 to R118), reception of frames
(R75, R77, R79, R85, R90), enqueueing and injection (R122, R123, R127), and the writes that stage table words
(R109, R110). -/

namespace Sys2Proof.Machine

/-- Quay cycles in `t` AON ticks: 1.35 GHz against 100 MHz (R158, R173). -/
def quayCycles (t : Nat) : Nat := 27 * t / 2

/-- A bucket's credit now, in 1/65,536 bytes: every quay cycle it rises by RATE / 10,800 bytes and is capped at BURST
(R158). -/
def bucketNow (b : Bucket) (rate burst now : Nat) : Int :=
  min (burst * 65536 : Nat) (b.credit + ((rate * 65536 / 10800) * (quayCycles now - quayCycles b.at_) : Nat))

/-- Meter of class `c` at port `p`: full until it is first used. -/
def meterNow (s : State) (p c : Nat) : Int :=
  let burst := s.get F.SCHED_MBURST_BYTES p c
  bucketNow ((lookup s.net.meters (qid p c)).getD ⟨(burst * 65536 : Nat), s.ticks⟩) (s.get F.SCHED_MRATE_RATE p c) burst s.ticks

/-- A packet at its ingress meter (R160): whether it conforms, and the state with its W subtracted. -/
def meterTake (p c w : Nat) (s : State) : Bool × State :=
  if s.get F.SCHED_MRATE_RATE p c = 0 then (true, s)
  else
    let now := meterNow s p c
    if ((w * 65536 : Nat) : Int) ≤ now then
      (true, { s with net.meters := place s.net.meters (qid p c) ⟨now - ((w * 65536 : Nat) : Int), s.ticks⟩ })
    else (false, s.bump F.SCHED_CNT_MTRDROP_COUNT 1 p c)

/-- Whether a packet is for this device (R106). -/
def forDevice (s : State) (h : Header) : Bool :=
  kindOf h == .tide || h.dst.toNat == s.get F.FWD_SELF_ID

/-- The header checks at ingress (R101, R77, R106, R160): the frame's packet is dropped, or enters the lookup path. -/
def ingressHeader (p sofClass : Nat) (h : Header) (s : State) : State :=
  let drop := fun (s : State) => s.setLink p { s.link p with rx := .dropped }
  if 8 < h.cls.toNat ∨ h.cls.toNat ≠ sofClass ∨ 4096 < h.len.toNat then drop (countDrop h 2 s)
  else if h.cls = 8 ∧ 256 < h.len.toNat then drop (s.bump F.PORT_CNT_PROTERR_COUNT 1 p)
  else if kindOf h = .tide ∧ h.cls ≠ 8 then drop (countDrop h 2 s)
  else
    let (fits, s) := if kindOf h = .tide then (true, s) else meterTake p h.cls.toNat (wireSize h) s
    if fits = false then drop s
    else
      let (id, s) := addPkt ⟨h, [], 0, false, false, .port p, [], portJob s p, 1, true, false, false, s.fabTime, none, false⟩ s
      let s := { s with net.ingress := place s.net.ingress p (((lookup s.net.ingress p).getD []) ++ [id]) }
      s.setLink p { s.link p with rx := .packet id }

/-- The header of an arriving frame is complete (R101); a frame that is not the next in sequence is not looked at (R85). -/
def execPacketIngress (p : PortId) (sofClass : BitVec 4) (lseq : BitVec 8) (h : Header) (s : State) : Res :=
  let l := s.link p
  if portState s p = 5 ∧ l.rx = RxCur.idle ∧ lseq.toNat = l.rxExp then ok (ingressHeader p sofClass.toNat h s) else ok s

/-- Where a lookup sends a packet (R107). -/
inductive Route where
  | drop (reason : Nat)
  | ports (ps : List Nat) (mcast : Bool)
  deriving DecidableEq, Repr

/-- COUNT of a port group's header word; above 64 the group has no members (R111). -/
def groupCount (s : State) (g : Nat) : Nat :=
  let n := fieldOf ((lookup s.net.fwdGroups (g * 128)).getD 0).toNat 0 7
  if 64 < n then 0 else n

/-- Member `m` of a port group. -/
def groupMember (s : State) (g m : Nat) : Nat :=
  fieldOf ((lookup s.net.fwdGroups (g * 128 + 1 + m)).getD 0).toNat 0 9

/-- Eligible member indices of a group, in member order (R112). -/
def eligibleMembers (s : State) (g : Nat) : List Nat :=
  (List.range (groupCount s g)).filter fun m =>
    let p := groupMember s g m
    portDefined s p && portUp s p && !portFenced s p

/-- The member that the hash picks (R114). -/
def hashMember (s : State) (g : Nat) (h : Header) (el : List Nat) : Nat :=
  let key := if h.ord then 0 else h.flow.toNat
  let seed := fieldOf ((lookup s.net.fwdGroups (g * 128)).getD 0).toNat 16 16
  let x := crc32c (toBytes 4 h.src.toNat ++ toBytes 4 h.dst.toNat ++ toBytes 4 key) ^^^ (seed <<< 16 ||| seed)
  el.getD (x % el.length) 0

/-- The member with the fewest cells queued for the class, first at or after the pointer among equals (R113). -/
def adaptiveMember (s : State) (g engine c : Nat) (el : List Nat) : Nat :=
  let ptr := (lookup s.net.groupPtr (20 * g + engine)).getD 0
  let order := (el.filter (ptr ≤ ·)) ++ el.filter (· < ptr)
  let d := fun m => depth s (groupMember s g m) c
  let least := el.foldl (fun a m => min a (d m)) (d (el.getD 0 0))
  (order.find? fun m => d m == least).getD 0

/-- Whether a job selects deterministically (R115). -/
def jobDeterministic (s : State) (job : Nat) : Bool := (s.get F.FWD_DETJOB_DET 0 (job / 32)).testBit (job % 32)

/-- Whether endpoint `e` is fenced (R121). -/
def epFenced (s : State) (e : Nat) : Bool := ((lookup s.net.epFence (e / 32)).getD 0).toNat.testBit (e % 32)

/-- Bit `p` of multicast group `g`'s mask (R118). -/
def maskBit (s : State) (g p : Nat) : Bool :=
  ((lookup s.net.fwdMasks (g * 16 + p / 32)).getD 0).toNat.testBit (p % 32)

/-- A lookup engine reads words of its copy of a table (R489, class 6): the next die's copy replaces one that is uncorrectable, and the word
is rewritten and counted. -/
def readTable (engine table lo n : Nat) (s : State) : State :=
  let here := fun (x : Spot) => match x with
    | .table e t i => e == engine && t == table && decide (lo ≤ i ∧ i < lo + n)
    | _ => false
  let (_, s) := s.touch 6 engine 0 here
  let bad := (s.upsets.filter fun u => here u.spot).length
  (if bad = 0 then s else s.bump F.ERR_CNT_FWDREPAIR_COUNT bad).heal here

/-- The words that a lookup of `dst` reads. -/
def readTables (engine dst : Nat) (s : State) : State :=
  let s := readTable engine 0 dst 1 s
  let e := ((lookup s.net.fwdTab dst).getD 0).toNat
  match fieldOf e 30 2 with
  | 2 => readTable engine 1 (fieldOf e 0 30 * 128) 65 s
  | 3 => readTable engine 2 (fieldOf e 0 30 * 16) 16 s
  | _ => s

/-- The lookup of a packet (R106 to R118, R120, R121, R124, R145): its route, and the state with the group pointer moved
(R113) and fenced replicas counted (R145). `ingress` is the port it came from. -/
def lookupRoute (h : Header) (job engine : Nat) (ingress : Option Nat) (s : State) : Route × State :=
  if s.flag F.FWD_CTL_EN = false then (.drop 1, s)
  else if epFenced s h.dst.toNat then (.drop 5, s)
  else
    let s := readTables engine h.dst.toNat s
    let e := ((lookup s.net.fwdTab h.dst.toNat).getD 0).toNat
    let body := fieldOf e 0 30
    match fieldOf e 30 2 with
    | 1 =>
      if 512 ≤ body ∨ portDefined s body = false then (.drop 1, s)
      else if portFenced s body then (.drop 4, s)
      else (.ports [body] false, s)
    | 2 =>
      if 4096 ≤ body then (.drop 1, s)
      else
        let el := eligibleMembers s body
        if el.isEmpty then (.drop 1, s)
        else if h.ord || jobDeterministic s job then (.ports [groupMember s body (hashMember s body h el)] false, s)
        else
          let m := adaptiveMember s body engine h.cls.toNat el
          let ptr := (lookup s.net.groupPtr (20 * body + engine)).getD 0
          (.ports [groupMember s body m] false,
            { s with net.groupPtr := place s.net.groupPtr (20 * body + engine) ((ptr + 1) % groupCount s body) })
    | 3 =>
      if 65536 ≤ body then (.drop 1, s)
      else
        let sel := (List.range 512).filter fun p => maskBit s body p && portDefined s p && some p != ingress
        let fenced := (sel.filter (portFenced s)).length
        let s := if fenced = 0 then s else s.bump F.BUF_CNT_MCFENCE_COUNT fenced
        let dest := sel.filter fun p => !portFenced s p
        if dest.isEmpty then (.drop 1, s) else (.ports dest true, s)
    | _ => (.drop 1, s)

/-- The lookup engine of an ingress port (R108). -/
def portEngine (s : State) (p : Nat) : Nat := 5 * (portLane s p / 256) + p % 5

/-- A packet of a port is dropped at lookup. -/
def dropIngress (id : Nat) (s : State) : State :=
  match s.pkt id with
  | none => s
  | some k =>
    let s := match k.src with
      | .port p => if (s.link p).rx = RxCur.packet id then s.setLink p { s.link p with rx := .dropped } else s
      | .injector _ => s
    reapPkt id (s.setPkt id { k with refs := 0, inRx := false })

/-- Takes the oldest packet off a port's ingress path. -/
def popIngress (p : Nat) (s : State) : State :=
  { s with net.ingress := put s.net.ingress p ((lookup s.net.ingress p).getD []).tail [] }

/-- A replica of a collective that never reaches a queue (R239): its share of the cells is released. -/
def loseReplica (k : InjPkt) (s : State) : State :=
  collEnd k.coll false (releaseAll 0 ownerEgress (k.cells.getD []) s)

/-- Allocates a packet's pool 0 cells under INGRESS or an injector, and hands them on with SHARERS set (R127, R139);
an XC packet takes none. -/
def takePktCells (k : Pkt) (owner dest sharers : Nat) (s : State) : Option (List Nat × State) :=
  if k.hdr.cls = 8 then some ([], s)
  else match allocCells owner sharers k.job (stripeOf s k.src) (cellsOf k.hdr) s with
    | none => none
    | some (bs, t, s) => some (bs, passCells bs dest sharers (setStripe k.src t s))

/-- The forwarding lookup of the oldest packet of port `p` completes (R107 to R122, R127). -/
def lookupComplete (p : Nat) (s : State) : State :=
  match (lookup s.net.ingress p).getD [] with
  | [] => s
  | id :: _ =>
    match s.pkt id with
    | none => popIngress p s
    | some k =>
      if forDevice s k.hdr then s
      else
        let s := popIngress p s
        match lookupRoute k.hdr k.job (portEngine s p) (some p) s with
        | (.drop r, s) => dropIngress id (countDrop k.hdr r s)
        | (.ports ps mcast, s) =>
          match takePktCells k ownerIngress ownerEgress ps.length s with
          | none => dropIngress id (s.bump F.BUF_CNT_NOBUF_COUNT)
          | some (cells, s) =>
            let s := creditWritten id (s.setPkt id { k with cells := cells, refs := ps.length, mcast := mcast })
            ps.foldl (fun t q => enqueue id q k.hdr.cls.toNat t) s

def execLookupComplete (p : PortId) (s : State) : Res := ok (lookupComplete p s)

/-- The oldest packet of port `p` is for the device (R106): it goes to the device-receive path under DEVRX (R139);
a kind the device does not know is discarded (R102). -/
def deviceDeliver (p : Nat) (s : State) : State :=
  match (lookup s.net.ingress p).getD [] with
  | [] => s
  | id :: _ =>
    match s.pkt id with
    | none => popIngress p s
    | some k =>
      if forDevice s k.hdr = false then s
      else
        let s := popIngress p s
        let s := if k.hdr.cm then s.bump F.FWD_CNT_CMRX_COUNT else s
        if kindOf k.hdr = .other then dropIngress id (countDrop k.hdr 2 s)
        else match takePktCells k ownerIngress ownerDevRx 1 s with
          | none => dropIngress id (s.bump F.BUF_CNT_NOBUF_COUNT)
          | some (cells, s) =>
            let s := creditWritten id (s.setPkt id { k with cells := cells, refs := 1 })
            { s with net.devRx := s.net.devRx ++ [id] }

def execDevicePacketDeliver (p : PortId) (s : State) : Res := ok (deviceDeliver p s)

/-- Whether a frame is bad (R75, R101): uncorrectable FEC, LCRC, PAD, or a length that its header does not give. A frame
that ends with ABT carries no LCRC and no PAD. -/
def frameBad (f : RxFrame) : Bool :=
  f.fecUnc != 0 ||
    (!f.abt && (lcrc (frameBytes f.hdr f.payload f.trailer) != f.lcrc.toNat ||
      f.pad.toNat != padOf (36 + f.hdr.len.toNat) || f.payload.length != f.hdr.len.toNat))

/-- The packet of an accepted frame is complete; its check value is verified (R100). -/
def completePkt (id : Nat) (f : RxFrame) (s : State) : State :=
  match s.pkt id with
  | none => s
  | some k =>
    let s := s.setPkt id { k with hdr := f.hdr, payload := f.payload, trailer := f.trailer, complete := true, inRx := false, owes := true }
    if packetCrc f.hdr f.payload = f.trailer.toNat then reapPkt id (creditWritten id s)
    else failPkt id (countDrop f.hdr 3 (creditWritten id s))

/-- What acceptance of a frame does at the link (R79, R85, R86). -/
def acceptSeq (p cls units : Nat) (freeNow : Bool) (s : State) : State :=
  let l := s.link p
  let s := s.setLink p { l with
    rxExp := (l.rxExp + 1) % 256, nakHeld := false, unacked := l.unacked + 1
    unackedAt := if l.unacked = 0 then s.ticks else l.unackedAt, rx := .idle }
  let s := if freeNow then rxFree p cls units s else s
  if 8 ≤ (s.link p).unacked then sendAck p s else s

/-- A good frame arrives in sequence (R79, R85, R90): its packet is complete, or its contents are discarded. The credit of a packet returns
when it has been written into pool 0 or leaves the XC buffer (R81), that of discarded contents at once. An aborted frame returns the units of
the header that the sender has charged, which a replay of it does not carry (DESIGN CHOICE, log entry 123). -/
def acceptFrame (p : Nat) (f : RxFrame) (s : State) : State :=
  let cls := f.sofClass.toNat
  let units := cellsOf f.hdr
  if f.abt then
    acceptSeq p cls units (cls < 9) (abortRx p (s.bump F.PORT_CNT_ABORTRX_COUNT 1 p))
  else
    let s := if (s.link p).rx = RxCur.idle then ingressHeader p cls f.hdr s else s
    match (s.link p).rx with
    | .packet id =>
      completePkt id f (acceptSeq p cls units false s)
    | _ => acceptSeq p cls units (cls < 9) s

/-- Discards a frame and answers NAK(E), once until E arrives (R85). -/
def nakFrame (p : Nat) (s : State) : State :=
  let s := abortRx p s
  let l := s.link p
  if l.nakHeld then s
  else
    let s := (s.setLink p { l with nakHeld := true }).bump F.PORT_CNT_NAK_COUNT 1 p
    s.emit (.linkWord p (ctlWord 0x06 l.rxExp))

/-- The corrected symbols of a frame, by lane of the port (R61, R93): the lanes that fail by them. -/
def symbolErrors (p : Nat) (counts : List (BitVec 16)) (s : State) : List Nat × State :=
  iterate (min counts.length (portWidth s p)) (fun k (acc : List Nat × State) =>
    let lane := portLane acc.2 p + k
    let (bad, t) := countSymbols lane (counts.getD k 0).toNat acc.2
    (if bad then acc.1 ++ [lane] else acc.1, t)) ([], s)

/-- A frame has arrived whole (R85); the suppression of NAK ends when a frame with the LSEQ that is expected arrives, even a bad one. -/
def frameRx (p : Nat) (f : RxFrame) (s : State) : State :=
  if portState s p ≠ 5 then s
  else
    let s := if f.fecUnc = 0 then s else s.bump F.PORT_CNT_FECUNC_COUNT f.fecUnc.toNat p
    let s := if f.fecCorr = 0 then s else s.bump F.PORT_CNT_FECCORR_COUNT f.fecCorr.toNat p
    let (failed, s) := symbolErrors p f.symErr s
    let e := (s.link p).rxExp
    let behind := (e + 256 - f.lseq.toNat) % 256
    let s := if behind = 0 then s.setLink p { s.link p with nakHeld := false } else s
    let s := if frameBad f then nakFrame p s
      else if behind = 0 then acceptFrame p f s
      else if behind ≤ 64 then sendAck p s
      else nakFrame p s
    failed.foldl (fun t lane => failLane p lane t) s

/-- A reserved control word, or a frame word in an impossible place (R73): counted and discarded; a frame it interrupts is
handled as bad. -/
def execControlWordProterr (p : PortId) (word : BitVec 64) (inFrame : Bool) (s : State) : Res :=
  let typ := word.toNat % 256
  let wrong := 7 < typ || (inFrame && (typ == 0 || typ == 1 || typ == 7)) || (!inFrame && (typ == 2 || typ == 3))
  if (portState s p = 5 ∨ inInit s p) ∧ wrong then
    let s := s.bump F.PORT_CNT_PROTERR_COUNT 1 p
    ok (if portState s p = 5 ∧ inFrame then nakFrame p s else s)
  else ok s

/-! Injection. -/

/-- The pseudo-master under which the model queues the responses that the device itself sends (R104). -/
def responder : Nat := 0xFFF

/-- Appends a packet to an injector's list. -/
def inject (mid xfer job : Nat) (h : Header) (payload : List Byte) (s : State) : State :=
  { s with net.injq := place s.net.injq mid (((lookup s.net.injq mid).getD []) ++ [⟨xfer, h, payload, job, false, false, false, none, none⟩]) }

/-- Appends a packet whose frame ends with ABT (R105). -/
def injectBad (mid xfer job : Nat) (h : Header) (payload : List Byte) (s : State) : State :=
  { s with net.injq := place s.net.injq mid (((lookup s.net.injq mid).getD []) ++ [⟨xfer, h, payload, job, false, false, true, none, none⟩]) }

/-- Appends a collective's replica, which shares pool 0 cells that the engine has already passed on (R226). -/
def injectReplica (mid job : Nat) (h : Header) (payload : List Byte) (cells : List Nat) (coll : Nat × Nat) (s : State) :
    State :=
  let held := (lookup s.net.injq mid).getD []
  { s with net.injq := place s.net.injq mid (held ++ [⟨coll.1 * 2 ^ 32 + coll.2, h, payload, job, false, false, false, some cells, some coll⟩]) }

/-- The lookup engine of an injector: that of its own quay die, or of the first quay die of its quadrant; responses of the device use engine 0
(DESIGN CHOICE, log entries 60 and 125). -/
def injectorEngine (mid : Nat) : Nat :=
  if 0x060 ≤ mid ∧ mid < 0x0B0 then (mid - 0x060) / 4
  else if 0x0B0 ≤ mid ∧ mid < 0x0C4 then mid - 0x0B0
  else if 0x0C4 ≤ mid ∧ mid < 0x0C8 then 5 * (mid - 0x0C4)
  else 0

/-- The throttling rules of R123 for one injector and one TC egress queue: whether a start is allowed. -/
def throttleAllows (s : State) (mid p c : Nat) : Bool :=
  let d := depth s p c
  let slow := s.get F.FWD_THRTL_SLOW
  if (s.net.stopped.contains (qid p c) && slow ≤ d) || s.get F.FWD_THRTL_STOP ≤ d then false
  else if d < slow then true
  else match lookup s.net.throttle (mid * 4608 + qid p c) with
    | none => true
    | some at_ => decide (max 1 (s.get F.FWD_THRTL_INT_INTERVAL) ≤ quayCycles s.ticks - quayCycles at_)

/-- Whether pool 0's state holds an injector's new packets (R141). -/
def poolHolds (s : State) (mid : Nat) : Bool := mid != responder && !poolLets s 0 mid

/-- Marks the held packet as counted, once per cause (R123, R127). -/
def setHeld (mid i : Nat) (k : InjPkt) (s : State) : State :=
  { s with net.injq := place s.net.injq mid (((lookup s.net.injq mid).getD []).set i k) }

/-- Removes a held packet. -/
def removeHeld (mid i : Nat) (s : State) : State :=
  { s with net.injq := put s.net.injq mid (((lookup s.net.injq mid).getD []).eraseIdx i) [] }

/-- Notes when an injector started a packet for each of its queues (R123). -/
def throttleNote (mid c : Nat) (ps : List Nat) (s : State) : State :=
  if c = 8 ∨ mid = responder then s
  else ps.foldl (fun t p => { t with net.throttle := place t.net.throttle (mid * 4608 + qid p c) t.ticks }) s

/-- The wait of an express reducer's packet for a full express lane (R92, R246), which the model does not time. -/
def noteLaneHold (mid : Nat) (s : State) : State :=
  if 0x0C4 ≤ mid ∧ mid < 0x0C8 then
    let (n, s) := s.fresh
    s.bump F.XRED_CNT_LANEHOLD_COUNT (Config.laneHold n) (mid - 0x0C4)
  else s

/-- An injector starts its held packet number `i`, once R123, R127 and R141 allow; packets of one transfer start in
order. A collective's replica that a fenced port stops is counted as R145 counts an omitted port (R226); one for a rank fenced meanwhile is
dropped (R239). -/
def injectStart (mid i : Nat) (s : State) : State :=
  let held := (lookup s.net.injq mid).getD []
  match held[i]? with
  | none => s
  | some k =>
    if (held.take i).any (fun x => x.xfer == k.xfer) then s
    else if rankFenced s k.coll then removeHeld mid i (loseReplica k s)
    else
      let c := k.hdr.cls.toNat
      let pkt : Pkt := ⟨k.hdr, k.payload, BitVec.ofNat 32 (packetCrc k.hdr k.payload), true, k.bad, .injector mid, [], k.job, 0, false, false, false, s.fabTime, k.coll, false⟩
      let own := fun (p : Pkt) (owner dest n : Nat) (s : State) => match k.cells with
        | some cells => some (cells, s)
        | none => takePktCells p owner dest n s
      let waits := if k.waited then s else setHeld mid i { k with waited := true } (s.bump F.POOL_CNT_WAIT_COUNT 1 0)
      let held0 := c ≠ 8 ∧ k.cells = none ∧ poolHolds s mid
      if forDevice s k.hdr then
        match (if held0 then none else own pkt mid ownerDevRx 1 s) with
        | none => waits
        | some (cells, s) =>
          let (id, s) := addPkt { pkt with cells := cells, refs := 1 } s
          removeHeld mid i { s with net.devRx := s.net.devRx ++ [id] }
      else
        match lookupRoute k.hdr k.job (injectorEngine mid) none s with
        | (.drop r, s') =>
          let s' := if r = 4 ∧ k.coll.isSome then s'.bump F.BUF_CNT_MCFENCE_COUNT else countDrop k.hdr r s'
          removeHeld mid i (loseReplica k s')
        | (.ports ps mcast, s') =>
          let open_ := c = 8 || mid == responder || ps.all fun p => throttleAllows s mid p c
          if open_ = false then
            if k.throttled then s else setHeld mid i { k with throttled := true } (s.bump F.FWD_CNT_THROTTLE_COUNT)
          else if held0 then waits
          else match own pkt mid ownerEgress ps.length s' with
            | none => waits
            | some (cells, s) =>
              let (id, s) := addPkt { pkt with cells := cells, refs := ps.length, mcast := mcast || k.coll.isSome } s
              let s := noteLaneHold mid (throttleNote mid c ps s)
              removeHeld mid i (ps.foldl (fun t q => enqueue id q c t) s)

/-! Table words. -/

/-- The table word that FWD_IND_SEL names (R124). -/
def tableWord (s : State) (table index : Nat) : Nat :=
  match table with
  | 0 => ((lookup s.net.fwdTab index).getD 0).toNat
  | 1 => ((lookup s.net.fwdGroups index).getD 0).toNat
  | 2 => ((lookup s.net.fwdMasks index).getD 0).toNat
  | _ => ((lookup s.net.epFence index).getD 0).toNat

/-- INDEX advances after a data access where AUTOINC is set (R124). -/
def indAdvance (s : State) : State :=
  if s.flag F.FWD_IND_SEL_AUTOINC then s.set F.FWD_IND_SEL_INDEX (s.get F.FWD_IND_SEL_INDEX + 1) else s

/-- Adds a word to the staging list (R109, R110): not while PENDING (R18), not beyond 1,024 words, not for table 3. -/
def stageWord (mid table index v : Nat) (s : State) : State :=
  let off := R.FWD_IND_DATA.addr 0 0
  if table = 3 ∨ s.armed .fwd ∨ 1024 ≤ s.net.staging.length then s.reject mid off
  else { s with net.staging := s.net.staging ++ [(table, index, BitVec.ofNat 32 v)] }

def execFwdStageWord (m : MasterId) (v : Word) (s : State) : Res :=
  ok (indAdvance (stageWord m.toNat (s.get F.FWD_IND_SEL_TABLE) (s.get F.FWD_IND_SEL_INDEX) v.toNat s))

/-- One staged word reaches the tables; a group's header word sets its pointers to 0, and rejects a COUNT above 64
(R111, R113). -/
def applyStaged (s : State) (w : Nat × Nat × Word) : State :=
  match w with
  | (0, i, v) => { s with net.fwdTab := put s.net.fwdTab i v 0 }
  | (1, i, v) =>
    let s := { s with net.fwdGroups := put s.net.fwdGroups i v 0 }
    if i % 128 = 0 then
      let s := { s with net.groupPtr := s.net.groupPtr.filter fun e => e.1 / 20 != i / 128 }
      if 64 < v.toNat % 128 then s.reject ((lookup s.armedBy (commitOff .fwd)).getD 0) (commitOff .fwd) else s
    else s
  | (_, i, v) => { s with net.fwdMasks := put s.net.fwdMasks i v 0 }

/-- The lookup boundary of an armed FWD commit (R109, R124). -/
def fwdApply (s : State) : State :=
  let w := s.rdShadow R.FWD_THRTL 0 0
  if fieldOf w 16 16 < fieldOf w 0 16 then commitRefused .fwd s
  else
    let written := s.net.staging
    let s := (written.foldl applyStaged s).heal fun x => match x with
      | .table _ t i => written.any fun w => w.1 == t && w.2.1 == i
      | _ => false
    commitApplied .fwd { s with net.staging := [] }

/-- A write of 1 to FWD_CNT_CLR (R124). -/
def fwdCntClr (s : State) : State :=
  s.zeroAll [R.FWD_CNT_NOROUTE, R.FWD_CNT_HDRERR, R.FWD_CNT_CRCERR, R.FWD_CNT_FENCEDROP, R.FWD_CNT_EPFENCE,
    R.FWD_CNT_CMARK, R.FWD_CNT_CMRX, R.FWD_CNT_THROTTLE, R.FWD_LASTDROP]

def execFwdCntClr (s : State) : Res := ok (fwdCntClr s)

end Sys2Proof.Machine
end

