-- ==== Sys2Proof/Machine/Egress.lean ====
section
/-! DEFINITION. Egress (R78, R84, R120, R146, R152 to R171, R583): shapers, gate lists and the guard band, the choice
of the next frame, the end of a frame, fence draining, and latency observation. -/

namespace Sys2Proof.Machine

/-! Shapers. -/

/-- Credit of the shaper of class `c` at port `p` now, in 1/65,536 bytes (R158); full until it first changes. -/
def shaperNow (s : State) (p c : Nat) : Int :=
  let burst := s.get F.SCHED_SHBURST_BYTES p c
  bucketNow ((lookup s.net.shapers (qid p c)).getD ⟨((burst * 65536 : Nat) : Int), s.ticks⟩)
    (s.get F.SCHED_SHRATE_RATE p c) burst s.ticks

/-- Whether a shaper lets its queue start a packet; RATE 0 is off (R154, R158). -/
def shaperOpen (s : State) (p c : Nat) : Bool :=
  s.get F.SCHED_SHRATE_RATE p c == 0 || decide (0 ≤ shaperNow s p c)

/-- W is subtracted when a packet starts (R158). -/
def shaperTake (p c w : Nat) (s : State) : State :=
  if s.get F.SCHED_SHRATE_RATE p c = 0 then s
  else { s with net.shapers := place s.net.shapers (qid p c) ⟨shaperNow s p c - ((w * 65536 : Nat) : Int), s.ticks⟩ }

/-- The SCHED commit of a port at the packet boundary, which a frame being sent holds off: credits become
min(credit, new BURST) (R159). -/
def schedApply (p : PortId) (s : State) : State :=
  if (s.link p).tx.isSome then s else
  let olds := tabulate 9 fun c => (shaperNow s p c, meterNow s p c)
  let s := commitApplied (.sched p) s
  iterate 9 (fun c t =>
    let (a, b) := olds.getD c (0, 0)
    let capS : Int := ((t.get F.SCHED_SHBURST_BYTES p c * 65536 : Nat) : Int)
    let capM : Int := ((t.get F.SCHED_MBURST_BYTES p c * 65536 : Nat) : Int)
    { t with
      net.shapers := place t.net.shapers (qid p c) ⟨min a capS, t.ticks⟩
      net.meters := place t.net.meters (qid p c) ⟨min b capM, t.ticks⟩ }) s

/-! Gates. -/

/-- The gate state of a port with no list in force. -/
def GateSt.initial : GateSt := ⟨0, 0, 0, List.replicate 9 none, false⟩

def State.gate (s : State) (p : Nat) : GateSt := (lookup s.net.gates p).getD GateSt.initial

def State.setGate (s : State) (p : Nat) (g : GateSt) : State := { s with net.gates := place s.net.gates p g }

/-- OPEN mask of an active entry (R162). -/
def gateMask (s : State) (p e : Nat) : Nat := fieldOf (s.rd R.GATE_ENT p e) 0 9

/-- Interval of an active entry in ns (R162). -/
def gateInterval (s : State) (p e : Nat) : Nat := fieldOf (s.rd R.GATE_ENT p e) 9 23

/-- Entries before the first interval of 0, at most 256 (R162). -/
def listLen (interval : Nat → Nat) : Nat → Nat → Nat
  | 0, e => e
  | fuel + 1, e => if interval e = 0 then e else listLen interval fuel (e + 1)

/-- Whether the port's gate list is in force (R162). -/
def gated (s : State) (p : Nat) : Bool := s.flag F.GATE_CTL_EN p && s.get F.GATE_STATUS_LEN p != 0 && !(s.gate p).broken

/-- Whether class `c` is open at port `p` (R162). -/
def gateOpen (s : State) (p c : Nat) : Bool := !gated s p || (gateMask s p (s.gate p).entry).testBit c

/-- ns from the start of entry `e` of a list of `len` entries until class `c` next closes, over at most `fuel` entries; none if it never
does. -/
def openRun (mask interval : Nat → Nat) (c len : Nat) : Nat → Nat → Option Nat
  | 0, _ => none
  | fuel + 1, e =>
    if (mask e).testBit c then
      (openRun mask interval c len fuel ((e + 1) % len)).map (interval e + ·)
    else some 0

/-- The masks and intervals of the staged list (R162). -/
def stagedMask (s : State) (p e : Nat) : Nat := fieldOf (s.rdShadow R.GATE_ENT p e) 0 9
def stagedInterval (s : State) (p e : Nat) : Nat := fieldOf (s.rdShadow R.GATE_ENT p e) 9 23

/-- Fabric time in ns at which class `c` next closes at port `p` (R164). An armed takeover ends the list in force at its time (R166): it is
a close for a class that the new list's entry 0 does not open, and a class that it opens closes as the new list says. -/
def nextClose (s : State) (p : PortId) (c : Nat) : Option Nat :=
  let g := s.gate p
  let len := s.get F.GATE_STATUS_LEN p
  let run := if gated s p then (openRun (gateMask s p) (gateInterval s p) c len len g.entry).map (g.began + ·) else none
  if s.armed (.gate p) ∧ s.flag F.GATE_CTL_EN p then
    let n := listLen (stagedInterval s p) 256 0
    let later := if n = 0 then none else (openRun (stagedMask s p) (stagedInterval s p) c n n 0).map (g.takeover + ·)
    match run with
    | some a => if a < g.takeover then some a else later
    | none => later
  else run

/-- Time a frame of wire size `w` takes at `lanes` lanes, in 1/65,536 ns: 25 GB/s a lane (R164). -/
def frameTime (w lanes : Nat) : Nat := ceilDiv (w * 65536) (25 * max lanes 1)

/-- Whether the guard band allows a start (R164); TIDE frames ignore the gates (R163). -/
def guardAllows (s : State) (p : PortId) (c : Nat) (h : Header) : Bool :=
  kindOf h == .tide ||
    match nextClose s p c with
    | none => true
    | some t => decide (s.fabTime + frameTime (wireSize h) (s.get F.PORT_STATUS_WIDTH p) ≤ t * 65536)

/-! The choice of the next frame. -/

/-- Bytes in replay storage (R84). -/
def storedBytes (l : LinkSt) : Nat := l.stored.foldl (fun n f => n + 36 + f.hdr.len.toNat) 0

/-- Whether replay storage has room for a frame (R84). -/
def replayRoom (s : State) (p : Nat) (h : Header) : Bool :=
  let l := s.link p
  decide (l.stored.length < 64 ∧ storedBytes l + 36 + h.len.toNat ≤ 32768 * portWidth s p)

/-- The head of a queue with its packet. -/
def headOf (s : State) (p c : Nat) : Option (QEnt × Pkt) :=
  match s.queue p c with
  | [] => none
  | e :: _ => (s.pkt e.pkt).map fun k => (e, k)

/-- Eligibility of a queue but for the guard band (R154, R583). -/
def mayStart (s : State) (p : PortId) (c : Nat) : Bool :=
  match headOf s p c with
  | none => false
  | some (e, k) =>
    (k.complete || e.ready) && decide (cellsOf k.hdr ≤ s.get F.PORT_TXCRED_AVAIL p c) && replayRoom s p k.hdr &&
      shaperOpen s p c && (gateOpen s p c || kindOf k.hdr == .tide)

/-- Eligibility of a queue (R154). -/
def eligible (s : State) (p : PortId) (c : Nat) : Bool :=
  mayStart s p c &&
    match headOf s p c with
    | none => false
    | some (_, k) => guardAllows s p c k.hdr

/-- Wire size of a queue's head (R153). -/
def headSize (s : State) (p c : Nat) : Nat :=
  match headOf s p c with
  | none => 0
  | some (_, k) => wireSize k.hdr

/-- Quantum of a class; 0 acts as 8 (R169). -/
def quantum (s : State) (p c : Nat) : Nat :=
  let q := s.get F.SCHED_QUANT_QUANTUM p c
  if q = 0 then 8 else q

/-- The visits of deficit round-robin (R154, R155): the class chosen, the position and the deficits after. -/
def drrVisits (elig : Nat → Bool) (empty : Nat → Bool) (size quant : Nat → Nat) :
    Nat → Nat → List Nat → Option Nat × Nat × List Nat
  | 0, ptr, def_ => (none, ptr, def_)
  | n + 1, ptr, def_ =>
    if elig ptr ∧ size ptr ≤ def_.getD ptr 0 then
      (some ptr, ptr, def_.set ptr (def_.getD ptr 0 - size ptr))
    else
      let def_ := if empty ptr then def_.set ptr 0 else def_
      let ptr := (ptr + 1) % 8
      let def_ := if elig ptr then def_.set ptr ((def_.getD ptr 0 + quant ptr) % 2 ^ 24) else def_
      drrVisits elig empty size quant n ptr def_

/-- One call of `choose` (R154): the queue, and the round-robin state after. -/
def choose (s : State) (p : PortId) : Option Nat × Nat × List Nat :=
  let l := s.link p
  if eligible s p 8 then (some 8, l.ptr, l.deficit)
  else drrVisits (eligible s p) (fun c => (s.queue p c).isEmpty) (headSize s p) (quantum s p) 16 l.ptr l.deficit

/-- Starts that the guard band refuses are counted, and the time since which a head is refused is noted (R164, R165). -/
def noteGuard (p : PortId) (s : State) : State :=
  iterate 9 (fun c t =>
    if mayStart t p c && !eligible t p c then
      let g := t.gate p
      let head := ((headOf t p c).map fun h => h.1.pkt).getD 0
      let since := match g.refusedSince.getD c none with
        | some x => if x.2 = head then some x else some (t.nowNs, head)
        | none => some (t.nowNs, head)
      (t.setGate p { g with refusedSince := g.refusedSince.set c since }).bump F.SCHED_CNT_GUARD_COUNT 1 p
    else t) s

/-- Queue `q` observes a packet that starts (R167). -/
def observeStart (p c : Nat) (e : QEnt) (s : State) : State :=
  let q := qid p c
  let soj := min (10 * (s.ticks - e.enqAt)) 16777215
  if s.flag F.TEL_Q_CFG_MODE q then
    let n := (lookup s.net.sampleCount q).getD 0 + 1
    if 2 ^ s.get F.TEL_Q_CFG_SHIFT q ≤ n then
      addSample (q + (e.depth % 2 ^ 21) <<< 13 + soj <<< 34 + 2 ^ 63)
        { s with net.sampleCount := erase s.net.sampleCount q }
    else { s with net.sampleCount := place s.net.sampleCount q n }
  else
    let s := if s.get F.TEL_Q_HWDEPTH_CELLS q < e.depth then s.set F.TEL_Q_HWDEPTH_CELLS e.depth q else s
    if s.get F.TEL_Q_HWSOJ_NS q < soj then s.set F.TEL_Q_HWSOJ_NS soj q else s

/-- A tide message leaves (R181): SYNC carries the send time in its TS field, and the trailer is computed after; the send
time of a DREQ is kept for its exchange, which takes up the SYNC accepted before it (R184). -/
def stampTide (id : Nat) (s : State) : State :=
  match s.pkt id with
  | none => s
  | some k =>
    if kindOf k.hdr ≠ .tide then s
    else match (k.payload.getD 0 0).toNat with
      | 1 =>
        let body := k.payload.take 8 ++ toBytes 10 (s.fabTime % 2 ^ 80) ++ k.payload.drop 18
        s.setPkt id { k with payload := body, trailer := BitVec.ofNat 32 (packetCrc k.hdr body) }
      | 2 => { s with tm.dreqSent := some s.fabTime, tm.paired := s.tm.sync <|> s.tm.paired, tm.sync := none }
      | _ => s

/-- Starts the head of queue `c` (R79, R84, R154, R158). -/
def startHead (p c : Nat) (s : State) : State :=
  match headOf s p c with
  | none => s
  | some (e, k) =>
    let s := stampTide e.pkt (observeStart p c e s)
    let k := (s.pkt e.pkt).getD k
    let s := (s.setQueue p c (s.queue p c).tail).heal (· == .replay p (s.link p).txSeq)
    let s := s.set F.PORT_TXCRED_AVAIL (s.get F.PORT_TXCRED_AVAIL p c - cellsOf k.hdr) p c
    let s := shaperTake p c (wireSize k.hdr) s
    let s := if k.mcast then s.bump F.BUF_CNT_MCREP_COUNT else s
    let g := s.gate p
    let s := if g.refusedSince.getD c none = none then s else s.setGate p { g with refusedSince := g.refusedSince.set c none }
    let l := s.link p
    s.setLink p { l with
      tx := some ⟨e.pkt, c, l.txSeq, e.cm⟩
      txSeq := (l.txSeq + 1) % 256
      stored := l.stored ++ [⟨l.txSeq, c, { k.hdr with cm := e.cm }, k.payload, k.trailer, false, s.ticks, false⟩] }

/-- Discards the head of a queue without starting it: its cells are released (R120, R82, R165). -/
def discardHead (p c : Nat) (s : State) : State :=
  match s.queue p c with
  | [] => s
  | e :: rest => dropRef e.pkt ownerEgress (s.setQueue p c rest)

/-- Frames queued for a class whose peer advertised 0 are dropped at egress (R82). -/
def dropClosed (p : Nat) (s : State) : State :=
  iterate 9 (fun c t =>
    if t.get F.PORT_TXCRED_PEER p c = 0 then
      iterate (t.queue p c).length (fun _ u => (discardHead p c u).bump F.PORT_CNT_CLOSEDDROP_COUNT 1 p) t
    else t) s

/-- Replicas at the head of a queue whose rank has been fenced meanwhile do not start (R239). -/
def dropFenced (p : Nat) (s : State) : State :=
  iterate 9 (fun c t =>
    iterate (t.queue p c).length (fun _ u =>
      match headOf u p c with
      | some (_, k) => if rankFenced u k.coll then discardHead p c u else u
      | none => u) t) s

/-- The link of port `p` can start a frame: one choice (R154), not while a frame is being sent (R156), not while the port
is fenced (R120). -/
def egressChoose (p : PortId) (s : State) : State :=
  if portState s p ≠ 5 ∨ (s.link p).tx.isSome ∨ (s.link p).replayFrom.isSome ∨ portFenced s p then s
  else
    let s := noteGuard p (dropFenced p (dropClosed p s))
    let (q, ptr, def_) := choose s p
    let s := s.setLink p { s.link p with ptr := ptr, deficit := def_ }
    match q with
    | some c => startHead p c s
    | none => s

def execEgressChoose (p : PortId) (s : State) : Res := ok (egressChoose p s)

/-- The head of queue `c` can no longer run short of data (R583): it may be chosen from now on. -/
def execCutThroughStart (p : PortId) (c : ClassId) (s : State) : Res :=
  match s.queue p c with
  | [] => ok s
  | e :: rest => ok (egressChoose p (s.setQueue p c ({ e with ready := true } :: rest)))

/-- An egress check-value failure (R493): counted twice, and the first since the clear raises an event. -/
def egressCheckFailed (p : Nat) (h : Header) (s : State) : State :=
  let first := s.get F.ERR_CNT_E2EEGR_COUNT == 0
  let s := (lastDrop h 3 (s.bump F.FWD_CNT_CRCERR_COUNT)).bump F.ERR_CNT_E2EEGR_COUNT
  if first then s.event 0x0B 5 (portJob s p) p [p, h.dst.toNat] else s

/-- The frame being sent ends with ABT after as many of its data blocks as had gone out, which no rule gives (R90). -/
def abortSent (p : Nat) (t : TxCur) (k : Pkt) (s : State) : State :=
  let blocks := dataBlocks (frameBytes { k.hdr with cm := t.cm } k.payload k.trailer)
  let (n, s) := s.fresh
  s.emit (abortOut p t.lseq t.cls (blocks.take (Config.blocksSent n % (blocks.length + 1))))

/-- The frame being sent on port `p` ends (R90, R146, R147): with ABT where its packet has failed or `err` says that an
error was met reading it out, else with EOF. -/
def frameTxEnd (p : Nat) (err : TxError) (s : State) : State :=
  let l := s.link p
  match l.tx with
  | none => s
  | some t =>
    match s.pkt t.pkt with
    | none => s.setLink p { l with tx := none }
    | some k =>
      if k.complete = false ∧ k.bad = false then s
      else
        let (lost, s) := s.touch 0 p t.pkt (· == .packet t.pkt)
        let abt := k.bad || lost || err != .none
        let s := match err with
          | .none => s
          | .memory => s.uncorrectable 0 p 0
          | .checkValue => egressCheckFailed p k.hdr s
        let s := if abt then s.bump F.PORT_CNT_ABORTTX_COUNT 1 p else s
        let s := if portState s p ≠ 5 then s
          else if abt then abortSent p t k s
          else s.emit (frameOut p t.lseq t.cls { k.hdr with cm := t.cm } k.payload k.trailer)
        let s := s.setLink p { l with
          tx := none
          stored := l.stored.map fun f =>
            if f.lseq = t.lseq then { f with payload := k.payload, trailer := k.trailer, abt := abt, sentAt := s.ticks, done := true }
            else f }
        let s := if abt then s else s.setPkt t.pkt { k with sent := true }
        let s := dropRef t.pkt ownerEgress s
        match l.replayFrom with
        | some e => if portState s p = 5 then replayNow p e s else s
        | none => s

def execFrameTxEnd (p : PortId) (err : TxError) (s : State) : Res := ok (frameTxEnd p err s)

/-- A fenced port discards one queued packet, XC first, then TC0 to TC7 (R120); replicas count in BUF_CNT_MCFENCE (R146). -/
def fenceDrain (p : Nat) (s : State) : State :=
  if portFenced s p = false then s
  else match [8, 0, 1, 2, 3, 4, 5, 6, 7].find? fun c => !(s.queue p c).isEmpty with
    | none => s
    | some c =>
      match headOf s p c with
      | none => discardHead p c s
      | some (_, k) =>
        let s := if k.mcast then s.bump F.BUF_CNT_MCFENCE_COUNT else countDrop k.hdr 4 s
        discardHead p c s

def execFenceDrain (p : PortId) (s : State) : Res := ok (fenceDrain p s)

/-! Gate lists. -/

/-- Longest run of ns for which class `c` stays open in the active list; none where it never closes (R165). -/
def longestOpen (s : State) (p c : Nat) : Option Nat :=
  let len := s.get F.GATE_STATUS_LEN p
  (List.range len).foldl (fun best e =>
    match best, openRun (gateMask s p) (gateInterval s p) c len len e with
    | some a, some b => some (max a b)
    | _, _ => none) (some 0)

/-- Heads that could not start in a whole cycle in which their gate was open are discarded (R165). -/
def gateOverrun (p : PortId) (s : State) : State :=
  iterate 9 (fun c t =>
    let g := t.gate p
    match g.refusedSince.getD c none, headOf t p c, longestOpen t p c with
    | some (since, head), some (e, k), some run =>
      if head = e.pkt ∧ since + t.get F.GATE_CYCLE_NS p ≤ t.nowNs ∧ run * 65536 < frameTime (wireSize k.hdr) (t.get F.PORT_STATUS_WIDTH p) then
        discardHead p c ((t.setGate p { g with refusedSince := g.refusedSince.set c none }).bump F.SCHED_CNT_GATEOVR_COUNT 1 p)
      else t
    | _, _, _ => t) s

/-- The current entry's interval has passed: the next entry begins (R163), whether EN lets the list close gates or not (R162). -/
def gateEdge (p : PortId) (s : State) : State :=
  let g := s.gate p
  let len := s.get F.GATE_STATUS_LEN p
  if len = 0 ∨ s.nowNs < g.began + gateInterval s p g.entry then s
  else
    let next := (g.entry + 1) % len
    let (bad, s) := s.touch 11 p next (· == .gates p)
    let s := s.setGate p { g with entry := next, began := g.began + gateInterval s p g.entry, broken := g.broken || bad }
    let s := s.set F.GATE_STATUS_ENTRY next p
    if gated s p then gateOverrun p s else s

def execGateEdge (p : PortId) (s : State) : Res := ok (gateEdge p s)

/-- Whether no staged entry holds an interval from 1 to 7, for which the commit is refused (R162). -/
def gateShadowOk (s : State) (p : Nat) : Bool :=
  (List.range 256).all fun e => stagedInterval s p e == 0 || decide (8 ≤ stagedInterval s p e)

/-- Cycle time of the armed list in ns (R162). -/
def gateShadowCycle (s : State) (p : Nat) : Nat :=
  (List.range (listLen (stagedInterval s p) 256 0)).foldl (fun n e => n + stagedInterval s p e) 0

/-- The takeover time of an armed list: BASE, or BASE + k × CYCLE at or after the commit write (R166). -/
def takeoverTime (s : State) (p : Nat) : Nat :=
  let base := s.rdShadow R.GATE_BASE_LO p 0 + (s.rdShadow R.GATE_BASE_HI p 0) <<< 32
  let now := ceilDiv s.fabTime 65536
  let cyc := gateShadowCycle s p
  if now ≤ base then base
  else if cyc = 0 then now
  else base + ceilDiv (now - base) cyc * cyc

/-- A write of GATE_COMMIT: arms the list with its takeover time (R166). -/
def gateArm (p : PortId) (mid tag : Nat) (s : State) : State :=
  let was := s.armed (.gate p)
  let s := armCommit (.gate p) mid tag s
  if was = false ∧ s.armed (.gate p) then s.setGate p { s.gate p with takeover := takeoverTime s p } else s

/-- The armed list takes over at its time, which is its group's boundary (R166): entry 0 begins (R163), or the list is refused (R17, R162). -/
def gateTakeover (p : PortId) (s : State) : State :=
  let g := s.gate p
  if s.armed (.gate p) = false ∨ s.nowNs < g.takeover then s
  else if gateShadowOk s p = false then commitRefused (.gate p) s
  else
    let len := listLen (stagedInterval s p) 256 0
    let cyc := gateShadowCycle s p
    let s := commitApplied (.gate p) s
    let s := ((s.set F.GATE_STATUS_LEN len p).set F.GATE_STATUS_ENTRY 0 p).set F.GATE_CYCLE_NS cyc p
    (s.setGate p ⟨0, g.takeover, g.takeover, List.replicate 9 none, false⟩).heal (· == .gates p)

def execGateTakeover (p : PortId) (s : State) : Res := ok (gateTakeover p s)

/-- A write of 1 to SCHED_CNT_CLR (R169). -/
def schedCntClr (p : Nat) (s : State) : State :=
  s.zeroAll [R.SCHED_CNT_MTRDROP, R.SCHED_CNT_GUARD, R.SCHED_CNT_GATEOVR] p

def execSchedCntClr (p : PortId) (s : State) : Res := ok (schedCntClr p s)

/-- A write of 1 to TEL_Q_CTL.CLR (R171). -/
def telQClr (q : Nat) (s : State) : State :=
  let s := s.zeroAll [R.TEL_Q_HWDEPTH, R.TEL_Q_HWSOJ] q
  { s with net.sampleCount := erase s.net.sampleCount q }

/-- Registers of queues of ports outside the layout ignore writes (R171). -/
def execTelQClr (q : QueueId) (s : State) : Res :=
  if portDefined s (q.val / 9) then ok (telQClr q s) else ok s

/-- A read of TEL_SFIFO_LO (R168): the low word, with the oldest record removed and its upper word latched. -/
def sfifoPop (s : State) : Nat × State :=
  let (r, s) := popSample s
  (r % 2 ^ 32, { s with net.sampleHi := r / 2 ^ 32 })

/-- The layout boundary of a berth die's commit (R67): reached once every port that the change removes or alters has EN
0 and reads DOWN. -/
def layoutChanges (b : BerthId) (s : State) : List Nat :=
  let after := (applyShadow (groupRange (.layout b)).1 (groupRange (.layout b)).2 s)
  (List.range 512).filter fun p => portDef s p != portDef after p

/-- The armed quad modes apply (R66, R67): changed ports take credit of 48 units per lane and a fresh stripe pointer
(R127), an odd quad of mode 2 without its partner is rejected. -/
def layoutApply (b : BerthId) (s : State) : State :=
  if s.armed (.layout b) = false then s
  else
    let changed := layoutChanges b s
    let ready := changed.all fun p => !portDefined s p || (!s.flag F.PORT_CTL_EN p && portState s p == 0)
    if ready = false then s
    else
      let widths := changed.map fun p => (p, portWidth s p, portDefined s p)
      let s := commitApplied (.layout b) s
      let odd := (List.range 16).filter fun k =>
        let q := 16 * b.val + k
        q % 2 == 1 && s.get F.LINK_QMODE_MODE (4 * q) == 2 && s.get F.LINK_QMODE_MODE (4 * (q - 1)) != 2
      let s := if odd.isEmpty then s
        else s.reject ((lookup s.armedBy (commitOff (.layout b))).getD 0) (commitOff (.layout b))
      let s := widths.foldl (fun t (p, w, was) =>
        let t := if portDefined t p ∧ (was = false ∨ portWidth t p ≠ w) then
            iterate 8 (fun c u => u.set F.PORT_CRED_UNITS (48 * portWidth u p) p c) t
          else t
        if portDefined t p ∧ was = false then setStripe (.port p) (p % 20) t else t) s
      s.set F.DEV_SCALE_GEN_GEN (s.get F.DEV_SCALE_GEN_GEN + 2)

def execLayoutApply (b : BerthId) (s : State) : Res := ok (layoutApply b s)

end Sys2Proof.Machine
end

