-- ==== Sys2Proof/Machine/Flags.lean ====
section
/-! DEFINITION. The state of one cluster and its memories (R39, R270), and its flag page (R416 to R437): plain and counted
flags, mailboxes, the watchdog record, and the waits that a flag ends (R300, R335). -/

namespace Sys2Proof.Machine

/-! One cluster. -/

def LoopSt.off : LoopSt := ⟨0, false, 0, 0⟩

def IssueQ.empty : IssueQ := ⟨[], 0, 0, [], none, false⟩

def Counter.zero : Counter := ⟨0, false, false, 0, 0, 0, 0⟩

def Mailbox.zero : Mailbox := ⟨⟨[], 0⟩, 0, 0, 0, 0, false, 0, false⟩

def HashAcc.empty : HashAcc := ⟨[], none, [], 0⟩

/-- A cluster whose memories and prompter hold nothing, as at reset and after CLEARING (R290). -/
def Clu.initial : Clu where
  regs := List.replicate 32 0
  pc := 0
  loop0 := LoopSt.off
  loop1 := LoopSt.off
  lcwarn := false
  dbg := []
  mopcnt := 0
  cycles := 0
  cycHi := 0
  wait := none
  loads := []
  stores := []
  ended := false
  queues := List.replicate 4 IssueQ.empty
  started := 0
  flags := 0
  counters := List.replicate 16 Counter.zero
  mail := List.replicate 8 Mailbox.zero
  wdog := List.replicate 16 0
  active := none
  next := none
  filling := none
  hash := HashAcc.empty
  prog := none
  load := none
  xfers := []
  nextXfer := 0
  since := 0
  busyAt := 0
  startAt := none
  startedNs := 0
  startCmd := none
  stops := []
  toOff := false
  reload := none
  late := []
  switch := none
  diag := none
  recov := none
  found := 0

/-- Transfers of the stevedore that are outstanding (R274): within the device, or with a request that has had no response. -/
def Clu.outstanding (k : Clu) : Nat := (k.xfers.filter fun x => x.kind == 3 || !x.reqs.isEmpty).length

/-- Logical cluster `c`. -/
def State.clu (s : State) (c : Nat) : Clu := (lookup s.clus c).getD Clu.initial

/-- Replaces logical cluster `c`. -/
def State.setClu (s : State) (c : Nat) (k : Clu) : State := { s with clus := place s.clus c k }

/-- Cluster state codes (R277). -/
def cluState (s : State) (c : Nat) : Nat := s.get F.CLU_STATUS_STATE c

def stRunning : Nat := 5
def stDoze : Nat := 6
def stRetain : Nat := 7
def stHalted : Nat := 8
def stClearing : Nat := 9
def stFenced : Nat := 10
def stMissing : Nat := 11

/-- The stage die of a logical cluster (R24). -/
def dieOf (c : Nat) : Nat := c / 4

/-- The physical slot number 5d + s that backs a cluster (R26, R35). -/
def slotOf (s : State) (c : Nat) : Nat := 5 * dieOf c + s.get F.CLU_STATUS_SLOT c

/-- Physical key of a slot's scratch, and of its private memories (R35). -/
def scratchKey (slot : Nat) : Nat := 0x048000000000 + slot * 0x1000000
def privateKey (slot : Nat) : Nat := 0x058000000000 + slot * 0x100000

/-- Offsets of the private memories (R39). -/
def imemOff : Nat := 0
def dmemOff : Nat := 0x40000
def mopOff : Nat := 0x80000

/-- State of a slot's power domain for a cluster state (R277, R525): 0 OFF, 1 RET, 2 GATED, 3 ON. -/
def domainOf (st : Nat) : Nat :=
  match st with
  | 0 | 11 => 0
  | 7 => 1
  | 1 | 4 | 6 | 8 => 2
  | _ => 3

/-- Enters a cluster state; the slot's power domain follows (R524, R525). -/
def enterCluster (st c : Nat) (s : State) : State :=
  let s := (s.set F.CLU_STATUS_STATE st c).set F.PWR_DOM_STATE (domainOf st) 0 (slotOf s c)
  s.setClu c { s.clu c with since := s.ticks }

/-- The job tag of a cluster. -/
def cluJob (s : State) (c : Nat) : Nat := s.get F.CLU_STATUS_JOB c

def privRead (s : State) (c off n : Nat) : List Byte := s.memRead (privateKey (slotOf s c) + off) n
def scratchRead (s : State) (c off n : Nat) : List Byte := s.memRead (scratchKey (slotOf s c) + off) n

/-- Words of a cluster's memories that lie in `n` bytes from key `a`, or that they cover whole (R489). -/
def wordIn (a n : Nat) : Spot → Bool
  | .word w => decide (a < w + 4 ∧ w < a + n)
  | _ => false

def wordWithin (a n : Nat) : Spot → Bool
  | .word w => decide (a ≤ w ∧ w + 4 ≤ a + n)
  | _ => false

/-- Bytes written to a cluster's memory by key: words written whole are sound again. -/
def keyWrite (a : Nat) (bs : List Byte) (s : State) : State := (s.memWrite a bs).heal (wordWithin a bs.length)

/-- Bytes of a cluster's memory set to zero by key. -/
def keyClear (a n : Nat) (s : State) : State := (s.memClear a n).heal (wordWithin a n)

def privWrite (c off : Nat) (bs : List Byte) (s : State) : State := keyWrite (privateKey (slotOf s c) + off) bs s

/-- A read of `n` bytes of the scratch of cluster `c` meets its words (R489, class 1); answers whether one is uncorrectable. -/
def scratchTouch (c off n : Nat) (s : State) : Bool × State :=
  s.touch 1 c (0x040000000000 + c * 0x1000000 + off) (wordIn (scratchKey (slotOf s c) + off) n)

/-- The storage of class 2 that `at_` names is read in cluster `c`: an uncorrectable word fails the cluster (R434, R489, R495). -/
def privMeet (c addr : Nat) (at_ : Spot → Bool) (s : State) : Bool × State :=
  match s.touch 2 c addr at_ with
  | (true, s) => (true, { s with posts := s.posts ++ [.fail c] })
  | r => r

def privTouch (c off n : Nat) (s : State) : Bool × State :=
  privMeet c (0x050000000000 + c * 0x100000 + off) (wordIn (privateKey (slotOf s c) + off) n) s

/-- Whether a cluster is about to enter FENCED (R496): nothing in it goes on. -/
def failing (s : State) (c : Nat) : Bool := s.posts.contains (.fail c)

/-! Retiring a prompter instruction. -/

/-- PC and loops after the instruction at `pc` retires without a jump (R293, R304): at the last instruction of an active
body the loop goes round or ends. -/
def Clu.advance (k : Clu) : Clu :=
  let seq := { k with pc := (k.pc + 4) % 65536 }
  let round := fun (l : LoopSt) => l.active && l.last == k.pc
  if round k.loop0 then
    if 1 < k.loop0.count then { k with loop0.count := k.loop0.count - 1, pc := k.loop0.first }
    else { seq with loop0.count := 0, loop0.active := false }
  else if round k.loop1 then
    if 1 < k.loop1.count then { k with loop1.count := k.loop1.count - 1, pc := k.loop1.first }
    else { seq with loop1.count := 0, loop1.active := false }
  else seq

/-! Flags. -/

/-- Whether flag `f` reads set. -/
def Clu.flag (k : Clu) (f : Nat) : Bool := k.flags.testBit (f % 256)

/-- Flag `f` as a bit, set or clear. -/
def Clu.putFlag (k : Clu) (f : Nat) (b : Bool) : Clu :=
  { k with flags := withField k.flags (f % 256) 1 (b2n b) }

/-- The slot that governs flag `f`: the lowest valid one that names it (R420). -/
def Clu.governor (k : Clu) (f : Nat) : Option Nat :=
  (List.range 16).find? fun i =>
    let t := k.counters.getD i Counter.zero
    t.valid && t.flag == f % 256

/-- Replaces a counter slot. -/
def Clu.setCounter (k : Clu) (i : Nat) (t : Counter) : Clu := { k with counters := k.counters.set i t }

/-- Every governing slot that is armed and whose COUNT has reached TARGET sets its flag (R421). -/
def Clu.settleCounters (k : Clu) : Clu :=
  iterate 16 (fun i k =>
    let t := k.counters.getD i Counter.zero
    if t.valid && t.armed && decide (t.target ≤ t.count) && k.governor t.flag == some i then k.putFlag t.flag true
    else k) k

/-- A set of flag `f` (R417, R421): of a counted flag it arms the slot. -/
def Clu.setF (k : Clu) (f : Nat) : Clu :=
  match k.governor f with
  | some i => (k.setCounter i { k.counters.getD i Counter.zero with armed := true }).settleCounters
  | none => k.putFlag f true

/-- A clear of flag `f` (R417, R422). -/
def Clu.clearF (k : Clu) (f : Nat) : Clu :=
  match k.governor f with
  | some i =>
    let t := k.counters.getD i Counter.zero
    let t := if k.flag f then { t with count := t.count - t.target, armed := false } else { t with armed := false }
    (k.setCounter i t).putFlag f false
  | none => k.putFlag f false

/-- Bits of a macro-op word's header and FSPEC (R319). -/
def mopField (w : List Word) (i lo width : Nat) : Nat := fieldOf (w.getD i 0).toNat lo width
def mopFamily (w : List Word) : Nat := mopField w 0 0 6
def mopSub (w : List Word) : Nat := mopField w 0 6 6
def mopSpec (w : List Word) (lo width : Nat) : Nat := mopField w 3 lo width

/-- A waiting MOP_WAITF's flag, and whether it clears it (R335). -/
def Mop.waitsOn (m : Mop) : Option (Nat × Bool) :=
  match m.phase with
  | .waiting _ => if mopFamily m.copy = 0x20 then some (mopSpec m.copy 0 8, mopSpec m.copy 8 1 == 1) else none
  | _ => none

/-- The first flag wait of the prompter or of a queue that a set flag ends, as its flag and whether it is cleared. -/
def Clu.flagWaits (k : Clu) : List (Nat × Bool) :=
  (match k.wait with
    | some (.flag f c _ _) => [(f, c)]
    | _ => []) ++ k.queues.flatMap fun q => q.mops.filterMap Mop.waitsOn

/-- A wait of a queue ended: its macro-op runs until it completes, or waits again where `again` and it has repetitions left
(R323). `now` is the AON tick, `fab` the fabric time. -/
def Mop.endWait (ends again : Mop → Bool) (now fab : Nat) (m : Mop) : Mop :=
  if ends m = false then m
  else if again m && decide (m.done + 1 < mopField m.copy 1 0 16) then { m with phase := .waiting fab, done := m.done + 1 }
  else { m with phase := .running now }

/-- Every wait on flag `f`, which reads set, ends in one cycle, and the flag is cleared if one of them asks for it
(R300, R335, R419). -/
def Clu.endFlagWaits (f now fab : Nat) (k : Clu) : Clu :=
  let clear := k.flagWaits.any fun w => w.1 == f && w.2
  let k := match k.wait with
    | some (.flag g _ _ _) => if g = f then { k with wait := none }.advance else k
    | _ => k
  let k := { k with queues := k.queues.map fun q =>
    { q with mops := q.mops.map (Mop.endWait (fun m => (m.waitsOn.map Prod.fst) == some f)
      (fun m => (m.waitsOn.map Prod.snd) == some true) now fab) } }
  if clear then k.clearF f else k

/-- The waits that flags now set end. -/
def Clu.settleFlags (now fab : Nat) (k : Clu) : Clu :=
  (k.flagWaits.map Prod.fst).foldl (fun k f => if k.flag f then k.endFlagWaits f now fab else k) k

/-- The retired count has passed a ticket (R310): tickets more than 8,192 issues old count as passed. -/
def IssueQ.passed (q : IssueQ) (seq : Nat) : Bool :=
  let age := (q.seq + 16384 - 1 - seq % 16384) % 16384
  8192 < age || q.seq - 1 - age < q.retired

/-- MWAIT and WAITT end when their ticket has retired or their time is reached (R302, R310); so does CUE SUB 1 (R335). -/
def Clu.settleOthers (now fab : Nat) (k : Clu) : Clu :=
  let ns := fab / 65536
  let k := match k.wait with
    | some (.ticket q seq _ _) => if (k.queues.getD q IssueQ.empty).passed seq then { k with wait := none }.advance else k
    | some (.time t) => if t ≤ ns then { k with wait := none }.advance else k
    | _ => k
  { k with queues := k.queues.map fun q =>
      { q with mops := q.mops.map (Mop.endWait (fun m =>
        (match m.phase with | .waiting _ => true | _ => false) && mopFamily m.copy == 0x22 && mopSub m.copy == 1 &&
          decide ((m.copy.getD 4 0).toNat + (m.copy.getD 5 0).toNat * 2 ^ 32 ≤ ns)) (fun _ => false) now fab) } }

/-- The waits of a RUNNING cluster end as soon as what they wait for holds; no wait ends in another state. -/
def settleWaits (c : Nat) (s : State) : State :=
  if cluState s c = stRunning then
    s.setClu c (((s.clu c).settleFlags s.ticks s.fabTime).settleOthers s.ticks s.fabTime)
  else s

/-- Whether a cluster's memories hold state (R41, R277). -/
def cluPresent (s : State) (c : Nat) : Bool := cluState s c != 0 && cluState s c != stMissing

/-- A set of flag `f` of cluster `c` (R418); during CLEARING it waits for the next program (R436). -/
def setFlag (c f : Nat) (s : State) : State :=
  if cluState s c = stClearing then s.setClu c { s.clu c with late := (s.clu c).late ++ [.flag f] }
  else if cluPresent s c then settleWaits c (s.setClu c ((s.clu c).setF f))
  else s

/-- A clear of flag `f` of cluster `c` (R418, R422). -/
def clearFlag (c f : Nat) (s : State) : State :=
  if cluPresent s c then s.setClu c ((s.clu c).clearF f) else s

/-! Counting of scratch writes. -/

/-- Bytes of `[lo, lo + n)` inside a slot's window (R420). -/
def Counter.inside (t : Counter) (lo n : Nat) : Nat := min (lo + n) (t.wlimit + 16) - max lo t.wbase

/-- Bytes stored in scratch are counted by every valid slot whose window holds them (R420, R421). -/
def Clu.countWrite (k : Clu) (off n : Nat) : Clu :=
  let count := fun (t : Counter) => if t.valid then { t with count := saturate 32 (t.count + t.inside off n) } else t
  Clu.settleCounters { k with counters := k.counters.map count }

/-- A write stored in the scratch of cluster `c` (R420). -/
def scratchWrite (c off : Nat) (bs : List Byte) (s : State) : State :=
  let s := keyWrite (scratchKey (slotOf s c) + off) bs s
  settleWaits c (s.setClu c ((s.clu c).countWrite off bs.length))

/-! Mailboxes. -/

def Clu.box (k : Clu) (m : Nat) : Mailbox := k.mail.getD m Mailbox.zero

def Clu.setBox (k : Clu) (m : Nat) (b : Mailbox) : Clu := { k with mail := k.mail.set m b }

/-- A push of a 62-bit payload (R430, R432, R435): stored, or dropped and counted when the mailbox is full. -/
def mailPush (c m payload : Nat) (s : State) : State :=
  let k := s.clu c
  let b := k.box m
  if 64 ≤ b.fifo.items.length then
    s.setClu c (k.setBox m { b with fifo.gap := saturate 32 (b.fifo.gap + 1), drops := saturate 32 (b.drops + 1) })
  else
    let s := s.setClu c (k.setBox m { b with fifo.items := b.fifo.items ++ [(payload % 2 ^ 62, 1)] })
    if b.flagen then setFlag c b.flag s else s

/-- A pop (R431, R432): the oldest item with its kind, or NOTVALID; a pending gap takes the freed entry. -/
def Mailbox.pop (b : Mailbox) : (Nat × Nat) × Mailbox :=
  match b.fifo.items with
  | [] => ((0, 0), b)
  | x :: rest =>
    let gap := if b.fifo.gap = 0 then [] else [(b.fifo.gap, 2)]
    (x, { b with fifo := ⟨rest ++ gap, 0⟩ })

/-! The page. -/

/-- A word of the flag page, without what a read does (R437). -/
def Clu.pageWord (k : Clu) (off : Nat) : Nat :=
  if off < 0x400 then b2n (k.flag (off / 4)) + 2 * b2n (k.governor (off / 4)).isSome
  else if off < 0x600 then
    let t := k.counters.getD ((off - 0x400) / 32) Counter.zero
    match off % 32 / 4 with
    | 0 => t.flag + b2n t.valid * 256 + b2n t.armed * 512
    | 1 => t.wbase
    | 2 => t.wlimit
    | 3 => t.count
    | 4 => t.target
    | _ => 0
  else if off < 0x640 then ((k.wdog.getD ((off - 0x600) / 4) 0)).toNat
  else if 0x800 ≤ off ∧ off < 0x900 then
    let b := k.box ((off - 0x800) / 32)
    match off % 32 / 4 with
    | 2 => b.popLo
    | 4 => min b.fifo.items.length 64 + b2n (b.fifo.gap != 0) * 128 + b.cecnt * 256 + b2n b.badwr * 65536
    | 5 => b.flag + b2n b.flagen * 256
    | 6 => b.drops
    | _ => 0
  else 0

/-- The places of a mailbox's items after the oldest has gone. -/
def nextItem (slot m : Nat) : Spot → Spot
  | .item k b i => if k = slot ∧ b = m then .item k b (i - 1) else .item k b i
  | x => x

/-- The oldest item of mailbox `m` is read (R429, R431, R434): corrected words are counted in CECNT, an uncorrectable one fails the cluster
and ends the read; otherwise the item is removed. -/
def mailPop (c m : Nat) (s : State) : Option (Nat × Nat) × State :=
  let here : Spot → Bool := fun x => x == .item (slotOf s c) m 0
  let fixed := (s.upsets.filter fun u => here u.spot && !u.bad).length
  match privMeet c (0x050000000000 + c * 0x100000 + 0xC0808 + 32 * m) here s with
  | (true, s) => (none, s)
  | (false, s) =>
    let k := s.clu c
    let (x, b) := (k.box m).pop
    let s := s.setClu c (k.setBox m { b with cecnt := min 255 (b.cecnt + fixed) })
    (some x, { s with upsets := s.upsets.map fun u => { u with spot := nextItem (slotOf s c) m u.spot } })

/-- Bytes of the flag page (R431, R437): an aligned 8-byte read of MB_POP_LO and a 4-byte read of MB_POP_HI pop; any other
read returns what the words hold. None where a word is uncorrectable (R434). -/
def pageRead (c off len : Nat) (s : State) : Option (List Byte) × State :=
  let m := (off - 0x800) / 32
  let inBox := 0x800 ≤ off && off < 0x900
  if inBox && off % 32 == 8 && len == 8 then
    match mailPop c m s with
    | (some (v, kind), s) => (some (toBytes 8 (v + kind * 2 ^ 62)), s)
    | (none, s) => (none, s)
  else if inBox && off % 32 == 12 && len == 4 then
    match mailPop c m s with
    | (some (v, kind), s) =>
      (some (toBytes 4 (v / 2 ^ 32 + kind * 2 ^ 30)), s.setClu c ((s.clu c).setBox m { (s.clu c).box m with popLo := v % 2 ^ 32 }))
    | (none, s) => (none, s)
  else match privTouch c (0xC0000 + off) len s with
  | (true, s) => (none, s)
  | (false, s) =>
    let k := s.clu c
    let base := off / 4 * 4
    let bytes := (List.range ((off + len + 3) / 4 - off / 4)).flatMap fun i => toBytes 4 (k.pageWord (base + 4 * i))
    (some ((bytes.drop (off - base)).take len), s)

/-- A write of value `v` to the word at `off`, with `low` telling that its lowest byte is written (R418 to R422, R437). -/
def pageWordWrite (c off v : Nat) (low : Bool) (s : State) : State :=
  let k := s.clu c
  if off < 0x400 then
    if low = false then s
    else if v % 2 = 1 then setFlag c (off / 4) s else clearFlag c (off / 4) s
  else if off < 0x600 then
    let i := (off - 0x400) / 32
    let t := k.counters.getD i Counter.zero
    let t := match off % 32 / 4 with
      | 0 => { t with flag := v % 256, valid := v.testBit 8 }
      | 1 => { t with wbase := fieldOf v 4 19 * 16 }
      | 2 => { t with wlimit := fieldOf v 4 19 * 16 }
      | 3 => { t with count := v % 2 ^ 32 }
      | 4 => { t with target := v % 2 ^ 32 }
      | 5 => { t with target := v % 2 ^ 32, armed := true }
      | _ => t
    settleWaits c (s.setClu c ((k.setCounter i t).settleCounters))
  else if 0x800 ≤ off ∧ off < 0x900 then
    let m := (off - 0x800) / 32
    let b := k.box m
    match off % 32 / 4 with
    | 4 => if v.testBit 17 then s.setClu c (k.setBox m { b with drops := 0, cecnt := 0, badwr := false }) else s
    | 5 => s.setClu c (k.setBox m { b with flag := v % 256, flagen := v.testBit 8 })
    | _ => s
  else s

/-- A write of 8 bytes at MB_PUSH_LO pushes, of 4 there latches, and of 4 at MB_PUSH_HI pushes (R430); none for any other write. -/
def pushPair (c off : Nat) (bs : List Byte) (s : State) : Option State :=
  let m := (off - 0x800) / 32
  let k := s.clu c
  let b := k.box m
  if off < 0x800 ∨ 0x900 ≤ off then none
  else if off % 32 = 0 ∧ bs.length = 8 then some (mailPush c m (ofBytes bs) s)
  else if off % 32 = 0 ∧ bs.length = 4 then some (s.setClu c (k.setBox m { b with pushLo := ofBytes bs }))
  else if off % 32 = 4 ∧ bs.length = 4 then some (mailPush c m (b.pushLo + ofBytes bs * 2 ^ 32) s)
  else none

/-- The mailboxes whose push pairs a write touches (R430). -/
def touchedPairs (off len : Nat) : List Nat :=
  (List.range 8).filter fun m => decide (off < 0x800 + 32 * m + 8 ∧ 0x800 + 32 * m < off + len)

/-- Bytes written to the flag page, word by word (R416, R437): bytes of a word that the write leaves out keep their value. A write of another
size or place that touches push pairs sets BADWR of their mailboxes and pushes nothing (R430). -/
def pageWrite (c off : Nat) (bs : List Byte) (s : State) : State :=
  match pushPair c off bs s with
  | some s => s
  | none =>
    let s := (touchedPairs off bs.length).foldl
      (fun s m => s.setClu c ((s.clu c).setBox m { (s.clu c).box m with badwr := true })) s
    iterate ((off + bs.length + 3) / 4 - off / 4) (fun i s =>
      let w := off / 4 * 4 + 4 * i
      let old := toBytes 4 ((s.clu c).pageWord w)
      let new := (List.range 4).map fun j =>
        if off ≤ w + j ∧ w + j < off + bs.length then bs.getD (w + j - off) 0 else old.getD j 0
      pageWordWrite c w (ofBytes new) (decide (off ≤ w)) s) (s.heal (wordWithin (privateKey (slotOf s c) + 0xC0000 + off) bs.length))

end Sys2Proof.Machine
end

