-- ==== Sys2Proof/Machine/TimeBase.lean ====
section
/-! DEFINITION. Fabric time (R172 to R179), tide (R180 to R186) and the time lands (R187 to R189). -/

namespace Sys2Proof.Machine

/-- Denominator of the phase accumulator: 16 × 10⁹ (R173). -/
def phaseDen : Int := 16000000000

/-- Largest slew in one tick, 200 ppm of 10 ns, in 1/1,000 of 1/65,536 ns (R178). -/
def slewStep : Int := 131072

/-- Part of a slew that one tick applies. -/
def slewNow (left : Int) : Int := max (-slewStep) (min slewStep left)

/-- Boot stage (R546). -/
def bootStage (s : State) : Nat := s.get F.CAL_BOOT_STAGE

/-- Whether fabric time, in going forward from `a` to `b`, reaches an instant at which 1PPS_OUT rises (R189). -/
def ppsReached (s : State) (a b : Nat) : Bool :=
  let seconds := fun (t : Nat) => (t / 65536 + 1000000000 - s.get F.TIME_PPSOFS_NS % 1000000000) / 1000000000
  s.flag F.TIME_PPSOUT_EN && decide (seconds a < seconds b)

/-- One AON tick (R173, R174): the master time adds 10 ns with the frequency adjustment and the slew in progress, and
the phase accumulator keeps what is below 1/65,536 ns. Time starts when the AON domains come up (R172). -/
def aonTick (s : State) : State :=
  if bootStage s = 0 then s
  else
    let d := slewNow s.tm.slew
    let acc : Int := (s.tm.phase : Int) + signed 24 (s.get F.TIME_FREQ_ADJ) * 655360 + d * 16000000
    let adv : Int := 655360 + acc / phaseDen
    let now := (((s.fabTime : Int) + adv).toNat) % 2 ^ 80
    { s with
      ticks := s.ticks + 1
      fabTime := now
      tm.ppsDue := s.tm.ppsDue || ppsReached s s.fabTime now
      tm.phase := (acc % phaseDen).toNat
      tm.slew := s.tm.slew - d }

/-- A read of TIME_NOW_LO (R177). -/
def timeNowRead (s : State) : Nat × State :=
  let ns := s.fabTime / 65536
  let s := (s.wr R.TIME_NOW_HI 0 0 (ns / 2 ^ 32)).wr R.TIME_NOW_FRAC 0 0 (s.fabTime % 65536)
  (ns % 2 ^ 32, s)

def execTimeNowRead (m : MasterId) (s : State) : Res :=
  let (v, s) := timeNowRead s
  ok (s.emit (.readData m.toNat (toBytes 4 v)))

/-- Tide state (R185). -/
def tideState (s : State) : Nat := s.get F.TIME_STATUS_STATE

/-- Enters a tide state; LOCKED, HOLDOVER and ACQUIRE raise an event (R185). -/
def enterTide (st : Nat) (s : State) : State :=
  let s := s.set F.TIME_STATUS_STATE st
  let s := { s with tm.good := 0, tm.wide := 0 }
  if 2 ≤ st then s.event 0x04 1 0 0 [s.rd R.TIME_STATUS 0 0] else s

/-- A step of time by `d` in 1/65,536 ns (R178, R179): any slew ends. A cue entry or a one-time release that time moves past is late; one
that time moves back over is waited for again; an instant of 1PPS_OUT that it moves past counts as reached. -/
def stepTime (d : Int) (s : State) : State :=
  let now := (((s.fabTime : Int) + d).toNat) % 2 ^ 80
  { s.bump F.TIME_CNT_STEP_COUNT with
    fabTime := now
    tm.slew := 0
    tm.ppsDue := s.tm.ppsDue || ppsReached s s.fabTime now
    tm.cues := s.tm.cues.map fun (e, q) => (e, { q with
      predAt := if 0 ≤ d then now else min q.predAt now
      once := q.once.map fun o => { o with late := o.late || decide (s.fabTime < o.time * 65536 ∧ o.time * 65536 < now) } }) }

/-- A slew by `d` in 1/65,536 ns replaces what was left of another (R178). -/
def slewTime (d : Int) (s : State) : State := { s with tm.slew := d * 1000 }

/-- The armed MODE of the time group (R178). -/
def armedMode (s : State) : Nat := fieldOf (s.rdShadow R.TIME_SETCTL 0 0) 0 2

/-- The TIME commit at the AON tick (R178): refused while a follower's time belongs to its upstream, and where time
would fall below 0. -/
def timeApply (s : State) : State :=
  if s.armed .time = false then s
  else
    let lo := s.rdShadow R.TIME_SET_LO 0 0
    let hi := s.rdShadow R.TIME_SET_HI 0 0
    let amount : Int := signed 32 lo * 65536
    let mode := armedMode s
    if 2 ≤ tideState s ∨ (2 ≤ mode ∧ (s.fabTime : Int) + amount < 0) then commitRefused .time s
    else
      let s := commitApplied .time s
      match mode with
      | 1 => stepTime ((((lo + hi <<< 32) * 65536 : Nat) : Int) - (s.fabTime : Int)) s
      | 2 => stepTime amount s
      | 3 => slewTime amount s
      | _ => s

def execTimeSet (s : State) : Res := if armedMode s = 1 then ok (timeApply s) else ok s
def execTimeStep (s : State) : Res := if armedMode s = 2 then ok (timeApply s) else ok s
def execTimeSlew (s : State) : Res := if armedMode s = 3 then ok (timeApply s) else ok s

/-- A write of 1 to TIME_CNT_CLR (R205). -/
def timeCntClr (s : State) : State := s.zeroAll [R.TIME_CNT_SYNCRX, R.TIME_CNT_REJECT, R.TIME_CNT_STEP]

def execTimeCntClr (s : State) : Res := ok (timeCntClr s)

/-- A follower that comes back to the board's own oscillator takes TIME_FREQ from the calibration set (R187), 0 without one (R552). -/
def ownFrequency (s : State) : State :=
  if 2 ≤ tideState s ∧ s.get F.TIME_CTL_SRC = 0 then
    s.set F.TIME_FREQ_ADJ (if s.flag F.CAL_STATUS_VALID then ofBytes ((List.range 3).map fun i => BitVec.ofNat 8 (calByte s (0x18 + i))) else 0)
  else s

/-- EN and ROLE of TIME_CTL decide the tide state (R185, R205): called after a write of TIME_CTL. -/
def tideControl (wasEn : Bool) (s : State) : State :=
  let en := s.flag F.TIME_CTL_EN
  let role := s.get F.TIME_CTL_ROLE
  if en = false then (if tideState s = 0 then s else enterTide 0 (ownFrequency s))
  else if wasEn then s
  else
    let s := { s with tm.syncAt := s.ticks, tm.sync := none, tm.paired := none, tm.dreqSent := none }
    match role with
    | 1 => (enterTide 1 s).set F.TIME_STATUS_STEPS 0
    | 2 => enterTide 2 s
    | _ => s

/-! Tide messages. -/

/-- The pseudo-master of packets that the tide engine sends. -/
def tideMaster : Nat := 0xFFE

/-- A tide packet's payload (R180). -/
def tidePayload (typ domain steps seqid ts gmid : Nat) : List Byte :=
  toBytes 32 (typ + domain <<< 8 + steps <<< 16 + (seqid % 2 ^ 32) <<< 32 + (ts % 2 ^ 80) <<< 64 + gmid <<< 144)

/-- The header of a tide message (R180). -/
def tideHeader (s : State) : Header where
  dst := 0
  src := BitVec.ofNat 20 (s.get F.FWD_SELF_ID)
  cls := 8
  kind := 0x10
  len := 32
  ord := false
  cm := false
  rsvA := 0
  ctx := 0
  rsvB := 0
  seq := 0
  step := 0
  addr := 0
  flow := 0
  rsvC := 0

/-- Queues a tide message at the XC queue of a port; it is link-local and takes no lookup (R106). -/
def sendTide (p : Nat) (payload : List Byte) (s : State) : State :=
  let h := tideHeader s
  let (id, s) := addPkt ⟨h, payload, BitVec.ofNat 32 (packetCrc h payload), true, false, .injector tideMaster, [], 0, 1,
    false, false, false, s.fabTime, none, false⟩ s
  enqueue id p 8 s

/-- Whether port `p` is a tide port (R205). -/
def tidePort (s : State) (p : Nat) : Bool := (s.get F.TIME_TIDEPORT_PORTS 0 (p / 32)).testBit (p % 32)

/-- Every 2^SYNCINT µs (R182): SYNC on every ACTIVE tide port from a grandmaster, or from a follower that is LOCKED or
in HOLDOVER; DREQ from a follower on its upstream port. -/
def syncSend (s : State) : State :=
  let st := tideState s
  if st = 0 ∨ s.passedUs s.tm.sendAt (2 ^ s.get F.TIME_INT_SYNCINT) = false then s
  else
    let s := { s with tm.sendAt := s.ticks }
    let dom := s.get F.TIME_CTL_DOMAIN
    let steps := if st = 1 then 0 else s.get F.TIME_STATUS_STEPS
    let gmid := if st = 1 then s.get F.FWD_SELF_ID else s.get F.TIME_GMID_ID
    let s := if st = 2 then s
      else
        let n := s.tm.syncSeq + 1
        let s := { s with tm.syncSeq := n }
        ((List.range 512).filter fun p => tidePort s p && portState s p == 5).foldl
          (fun t p => sendTide p (tidePayload 1 dom steps n 0 gmid) t) s
    if 2 ≤ st then
      let n := s.tm.dreqSeq + 1
      let s := { s with tm.dreqSeq := n, tm.dreqSent := none }
      sendTide (s.get F.TIME_CTL_UPPORT) (tidePayload 2 dom steps n 0 gmid) s
    else s

def execSyncSend (s : State) : Res := ok (syncSend s)

/-- A complete packet of the device-receive path, by its place there, unless an earlier ORD packet of the same SRC and
CLASS waits (R117). -/
def devRxAt (s : State) (i : Nat) : Option (Nat × Pkt) :=
  match s.net.devRx[i]? with
  | none => none
  | some id =>
    match s.pkt id with
    | none => none
    | some k =>
      let before := (s.net.devRx.take i).filterMap s.pkt
      if k.complete = false ∨ (k.hdr.ord ∧ before.any fun b => b.hdr.ord && b.hdr.src == k.hdr.src && b.hdr.cls == k.hdr.cls)
      then none else some (id, k)

/-- A packet of the device-receive path has been handled: DEVRX releases it (R139). -/
def devRxDone (id : Nat) (s : State) : State :=
  let s := match s.pkt id with
    | some k => s.setPkt id { k with sent := true }
    | none => s
  dropRef id ownerDevRx { s with net.devRx := s.net.devRx.filter (· != id) }

/-- The ingress port of a packet, 0 for one that the device injected. -/
def Pkt.port (k : Pkt) : Nat :=
  match k.src with
  | .port p => p
  | .injector _ => 0

/-- A field of a tide payload. -/
def tideField (k : Pkt) (lo width : Nat) : Nat := fieldOf (ofBytes k.payload) lo width

/-- A received SYNC, or a tide message of an unlisted TYPE (R180, R183). -/
def syncRx (i : Nat) (s : State) : State :=
  match devRxAt s i with
  | none => s
  | some (id, k) =>
    let typ := tideField k 0 8
    if kindOf k.hdr ≠ .tide ∨ typ = 2 ∨ typ = 3 then s
    else
      let s := devRxDone id s
      let st := tideState s
      let accept := typ == 1 && 2 ≤ st && k.port == s.get F.TIME_CTL_UPPORT && tideField k 8 8 == s.get F.TIME_CTL_DOMAIN &&
        tideField k 144 20 != s.get F.FWD_SELF_ID && tideField k 16 4 ≤ 14
      if accept = false then s.bump F.TIME_CNT_REJECT_COUNT
      else
        let s := s.bump F.TIME_CNT_SYNCRX_COUNT
        let s := (s.set F.TIME_STATUS_STEPS (tideField k 16 4 + 1)).set F.TIME_GMID_ID (tideField k 144 20)
        let s := { s with tm.sync := some (tideField k 64 80, k.rxAt), tm.syncAt := s.ticks }
        if st = 4 then enterTide 2 s else s

def execSync (i : BitVec 8) (s : State) : Res := ok (syncRx i.toNat s)

/-- A received DREQ is answered with DRESP where it came on a tide port and its DOMAIN matches (R182, R183). -/
def dreqRx (i : Nat) (s : State) : State :=
  match devRxAt s i with
  | none => s
  | some (id, k) =>
    if kindOf k.hdr ≠ .tide ∨ tideField k 0 8 ≠ 2 then s
    else
      let s := devRxDone id s
      if tidePort s k.port ∧ tideField k 8 8 = s.get F.TIME_CTL_DOMAIN then
        let gmid := if tideState s = 1 then s.get F.FWD_SELF_ID else s.get F.TIME_GMID_ID
        sendTide k.port (tidePayload 3 (s.get F.TIME_CTL_DOMAIN) (s.get F.TIME_STATUS_STEPS) (tideField k 32 32) k.rxAt gmid) s
      else s.bump F.TIME_CNT_REJECT_COUNT

def execDreq (i : BitVec 8) (s : State) : Res := ok (dreqRx i.toNat s)

/-- ns as 1/65,536 ns. -/
def nsUnits (n : Nat) : Int := ((n * 65536 : Nat) : Int)

/-- The servo's answer to an offset (R184, R185): time is corrected by −off, by a step above 1 µs in ACQUIRE and by a slew
otherwise; runs of close and of wide offsets move between ACQUIRE and LOCKED. The frequency that LOCKED tracks is a free
value: the spec gives no rule for it. -/
def servo (off : Int) (s : State) : State :=
  let st := tideState s
  let close := decide (-(nsUnits 1) ≤ off ∧ off ≤ nsUnits 1)
  let wide := decide (off < -(nsUnits 20) ∨ nsUnits 20 < off)
  if st = 2 then
    let s := if off < -(nsUnits 1000) ∨ nsUnits 1000 < off then stepTime (-off) s else slewTime (-off) s
    let n := if close then s.tm.good + 1 else 0
    if 16 ≤ n then enterTide 3 s else { s with tm.good := n }
  else if st = 3 then
    let s := slewTime (-off) s
    let (k, s) := s.fresh
    let s := s.set F.TIME_FREQ_ADJ (Config.servoFreq k).toNat
    let n := if wide then s.tm.wide + 1 else 0
    if 4 ≤ n then enterTide 2 s else { s with tm.wide := n }
  else s

/-- A difference of times, in 80 bits (R19, R184). -/
def timeDiff (a b : Nat) : Int := signed 80 (unsigned 80 ((a : Int) - (b : Int)))

/-- A sum of differences, in 80 bits. -/
def wrapTime (d : Int) : Int := signed 80 (unsigned 80 d)

/-- A DRESP completes the exchange it answers and uses up its SYNC (R183, R184). -/
def drespRx (i : Nat) (s : State) : State :=
  match devRxAt s i with
  | none => s
  | some (id, k) =>
    if kindOf k.hdr ≠ .tide ∨ tideField k 0 8 ≠ 3 then s
    else
      let s := devRxDone id s
      match s.tm.paired, s.tm.dreqSent with
      | some (t1, t2), some t3 =>
        if 2 ≤ tideState s ∧ tideField k 32 32 = s.tm.dreqSeq % 2 ^ 32 then
          let t4 := tideField k 64 80
          let dms := timeDiff t2 t1
          let dsm := timeDiff t4 t3
          let delay := wrapTime (dms + dsm) / 2
          let off := wrapTime (wrapTime (dms - dsm) / 2 - signed 32 (s.get F.TIME_ASYM_ASYM) * 256)
          let s := (s.wr R.TIME_OFFSET 0 0 (unsigned 32 (off / 256))).wr R.TIME_DELAY 0 0 (unsigned 32 (delay / 256))
          servo off { s with tm.dreqSent := none, tm.paired := none }
        else s.bump F.TIME_CNT_REJECT_COUNT
      | _, _ => s.bump F.TIME_CNT_REJECT_COUNT

def execDresp (i : BitVec 8) (s : State) : Res := ok (drespRx i.toNat s)

/-- HOLDCNT intervals without an accepted SYNC (R185); 0 acts as 1. -/
def execHoldoverEntry (s : State) : Res :=
  let st := tideState s
  let us := max 1 (s.get F.TIME_INT_HOLDCNT) * 2 ^ s.get F.TIME_INT_SYNCINT
  if (st = 2 ∨ st = 3) ∧ s.passedUs s.tm.syncAt us then ok ({ enterTide 4 s with tm.slew := 0 }) else ok s

/-! Time lands. -/

/-- ns in a second, in 1/65,536 ns. -/
def secondUnits : Nat := 1000000000 * 65536

/-- A 1PPS_IN edge (R187): recorded; with SRC 2 in LOCAL or GRANDMASTER it aligns the sub-second phase. -/
def ppsEdge (s : State) : State :=
  let ns := s.nowNs
  let s := (s.wr R.TIME_PPSIN_LO 0 0 ns).wr R.TIME_PPSIN_HI 0 0 (ns / 2 ^ 32)
  let s := { s.set F.TIME_STATUS_PPSOK 1 with tm.ppsAt := s.ticks }
  if s.get F.TIME_CTL_SRC = 2 ∧ tideState s < 2 then
    let m := s.fabTime % secondUnits
    let dev : Int := if m ≤ secondUnits / 2 then (m : Int) else (m : Int) - (secondUnits : Int)
    if dev < -(nsUnits 1000) ∨ nsUnits 1000 < dev then stepTime (-dev) s else slewTime (-dev) s
  else s

def execPpsEdge (s : State) : Res := ok (ppsEdge s)

/-- REF10M_IN is missing for 10 µs (R188). -/
def execRefLoss (s : State) : Res :=
  if s.flag F.TIME_STATUS_REFOK then ok ((s.set F.TIME_STATUS_REFOK 0).event 0x04 2 0 0 []) else ok s

def execRef10mRestore (s : State) : Res := ok (s.set F.TIME_STATUS_REFOK 1)

/-- No edge for 1.1 s (R188). -/
def execPpsLoss (s : State) : Res :=
  if s.flag F.TIME_STATUS_PPSOK ∧ s.passedUs s.tm.ppsAt 1100000 then
    ok ((s.set F.TIME_STATUS_PPSOK 0).event 0x04 3 0 0 [])
  else ok s

/-- 1PPS_OUT rises once an instant has been reached at which it does (R179, R189). -/
def execPpsOutRise (s : State) : Res :=
  if s.flag F.TIME_PPSOUT_EN ∧ s.tm.ppsDue then
    ok { s with tm.ppsOut := true, tm.ppsDue := false, tm.ppsRose := s.ticks }
  else ok s

/-- It stays high for WIDTH µs; 0 acts as 1 (R189, R205). -/
def execPpsOutFall (s : State) : Res :=
  if s.tm.ppsOut ∧ s.passedUs s.tm.ppsRose (max 1 (s.get F.TIME_PPSOUT_WIDTH)) then ok { s with tm.ppsOut := false }
  else ok s

end Sys2Proof.Machine
end

