-- ==== Sys2Proof/Machine/Access.lean ====
section
/-! DEFINITION. The scale table (R31), the address map (R35 to R40), targets and access tables (R46 to R56), refusals (R57,
R58), and accesses to device memory: stacks, cluster memories and flag pages. -/

namespace Sys2Proof.Machine

/-! Scale table. -/

/-- Present array width of a cluster: 64 minus bypassed columns (R364). -/
def arrayWidth (s : State) (c : Nat) : Nat :=
  64 - popcount 32 (s.get F.ARR_BYPASS0_MASK c) - popcount 32 (s.get F.ARR_BYPASS1_MASK c)

/-- Clusters backed by a slot. -/
def present (s : State) (c : Nat) : Bool := c < 80 && cluState s c != stMissing

/-- Slot failed since reset (R506). -/
def slotFailed (s : State) (slot : Nat) : Bool := (s.get F.ERR_SLOTFAIL_SLOTS 0 (slot / 32)).testBit (slot % 32)

/-- The free understudy of a die: a healthy slot that backs no cluster, is not being switched in and has not failed (R25, R26). -/
def understudy (s : State) (d : Nat) : Option Nat :=
  (List.range 5).find? fun k =>
    s.fuses.slotOk.testBit (5 * d + k) && !slotFailed s (5 * d + k) &&
      (List.range 4).all fun i => (cluState s (4 * d + i) == stMissing || s.get F.CLU_STATUS_SLOT (4 * d + i) != k) &&
        ((s.clu (4 * d + i)).switch.map SwitchSt.newSlot) != some k

/-- A die that backs a logical cluster (R536). -/
def dieUsed (s : State) (d : Nat) : Bool := (List.range 4).any fun i => present s (4 * d + i)

/-- Bits `f 0, f 1, …` as a number. -/
def bitsOf (n : Nat) (f : Nat → Bool) : Nat := (List.range n).foldl (fun a i => a + b2n (f i) <<< i) 0

/-- The word of the scale table at DEV offset `off` (R31), 0 before identity has been loaded. -/
def scaleWord (s : State) (off : Nat) : Nat :=
  if bootStage s < 5 ∨ bootStage s = 7 then 0
  else match off with
    | 0x100 => 1
    | 0x104 => s.get F.DEV_SCALE_GEN_GEN
    | 0x108 => ((List.range 80).filter (present s)).length
    | 0x10C => ((List.range 20).filter fun d => (understudy s d).isSome).length
    | 0x110 => bitsOf 32 (present s)
    | 0x114 => bitsOf 32 fun i => present s (32 + i)
    | 0x118 => bitsOf 16 fun i => present s (64 + i)
    | 0x11C => 256
    | 0x120 => 64
    | 0x124 => 8192
    | 0x128 => 256
    | 0x12C => 2048
    | 0x130 => 20
    | 0x134 => stackBytes s / 2 ^ 20
    | 0x138 => bitsOf 20 fun n => s.get F.STK_FENCE_MASK n == 0 && s.get F.STK_STATUS_STATE n != 5
    | 0x13C => 1024
    | 0x140 => portCount s
    | 0x144 => 4096
    | 0x148 => portCount s + ((List.range 80).filter (present s)).length
    -- DESIGN CHOICE (log entry 119): 1,800 while no stage die backs a cluster, for the spec takes the least of none
    | 0x14C => (((List.range 20).filter (dieUsed s)).map fun d => s.get F.CLK_STG_STATUS_CAP 0 d).foldl min 1800
    | 0x150 => ((List.range 17).filter fun k => s.flag F.POOL_CTL_EN k).length
    | _ =>
      if 0x154 ≤ off ∧ off ≤ 0x194 ∧ off % 4 = 0 then
        let k := (off - 0x154) / 4
        if s.flag F.POOL_CTL_EN k then scalePool s k else 0
      else if 0x1A0 ≤ off ∧ off ≤ 0x1EC ∧ off % 4 = 0 then
        ofBytes ((List.range 4).map fun i =>
          let c := off - 0x1A0 + i
          BitVec.ofNat 8 (if present s c then arrayWidth s c else 0))
      else 0

/-! Address map. -/

/-- What an address names (R35, R39). -/
inductive Loc where
  | stack (n off : Nat)
  | scratch (c off : Nat)
  | priv (c off : Nat)
  | diagScratch (slot off : Nat)
  | diagPriv (slot off : Nat)
  | reg (off : Nat)
  | none
  deriving DecidableEq, Repr

/-- The cluster whose prompter or stevedore a master is (R43). -/
def clusterMaster (mid : Nat) : Option Nat :=
  if 0x010 ≤ mid ∧ mid < 0x060 then some (mid - 0x010)
  else if 0x060 ≤ mid ∧ mid < 0x0B0 then some (mid - 0x060)
  else none

/-- An address in the striped view as a private-view address (R37). -/
def stripedToPrivate (a : Nat) : Nat :=
  let s := a - 0x020000000000
  let k := s / 4096
  (k % 20) * 2 ^ 36 + (k / 20) * 4096 + s % 4096

/-- Whether an address lies in the striped window's populated part (R35). -/
def striped (s : State) (a : Nat) : Bool := 0x020000000000 ≤ a && a < 0x020000000000 + 20 * stackBytes s

/-- The target and place that an address names, to a master; the target is the table in which an unmapped access is
recorded (R36, R53). DESIGN CHOICE (log entry 118): an address in the unpopulated part of the striped window falls outside every target, and
is recorded in the G0 table. -/
def locate (s : State) (mid a : Nat) : Nat × Loc :=
  if a < 20 * 2 ^ 36 then
    (a / 2 ^ 36, if a % 2 ^ 36 < stackBytes s then .stack (a / 2 ^ 36) (a % 2 ^ 36) else .none)
  else if 0x040000000000 ≤ a ∧ a < 0x040000000000 + 80 * 2 ^ 24 then
    let c := (a - 0x040000000000) / 2 ^ 24
    (20 + c, if a % 2 ^ 24 < 2 ^ 23 then .scratch c (a % 2 ^ 24) else .none)
  else if 0x048000000000 ≤ a ∧ a < 0x048000000000 + 100 * 2 ^ 24 then
    (107, if a % 2 ^ 24 < 2 ^ 23 then .diagScratch ((a - 0x048000000000) / 2 ^ 24) (a % 2 ^ 24) else .none)
  else if 0x050000000000 ≤ a ∧ a < 0x050000000000 + 80 * 2 ^ 20 then
    let c := (a - 0x050000000000) / 2 ^ 20
    (20 + c, .priv c (a % 2 ^ 20))
  else if 0x050010000000 ≤ a ∧ a < 0x050010100000 then
    match clusterMaster mid with
    | some c => (20 + c, .priv c (a % 2 ^ 20))
    | Option.none => (100, .none)
  else if 0x058000000000 ≤ a ∧ a < 0x058000000000 + 100 * 2 ^ 20 then
    (107, .diagPriv ((a - 0x058000000000) / 2 ^ 20) (a % 2 ^ 20))
  else if 0x7F0000000000 ≤ a ∧ a < 0x7F0004000000 then
    let o := a - 0x7F0000000000
    let g := if o < 0x400000 then 0 else if o < 0x600000 then 1 else if o < 0x800000 then 2 else if o < 0x1000000 then 3
      else if o < 0x2000000 then 4 else if o < 0x3000000 then 5 else 6
    (100 + g, .reg o)
  else (100, .none)

/-- A part of the private-memory layout, by number: 1 instruction, 2 data, 3 macro-op memory, 4 flag page, 5 scale
window, 0 none (R39). -/
def privPart (off : Nat) : Nat :=
  if off < 0x10000 then 1
  else if 0x40000 ≤ off ∧ off < 0x80000 then 2
  else if 0x80000 ≤ off ∧ off < 0xA0000 then 3
  else if 0xC0000 ≤ off ∧ off < 0xC1000 then 4
  else if 0xFF000 ≤ off ∧ off < 0x100000 then 5
  else 0

/-- Bytes at two offsets of a private-memory stride lie in one mapped range: in one part, or in data memory and in the macro-op memory
that follows it (R39). -/
def partsJoin (o p : Nat) : Bool :=
  privPart o != 0 && (privPart o == privPart p || (privPart o == 2 && privPart p == 3))

/-- Whether two bytes of one access lie in one populated range of one target. DESIGN CHOICE (log entry 117): an access that runs from the
scale-table window of a stride into the next cluster's stride names two targets, and is refused whole as UNMAPPED at the first. -/
def sameLoc : Loc → Loc → Bool
  | .stack n _, .stack m _ => n == m
  | .scratch c _, .scratch d _ => c == d
  | .priv c o, .priv d p => c == d && partsJoin o p
  | .diagScratch c _, .diagScratch d _ => c == d
  | .diagPriv c o, .diagPriv d p => c == d && partsJoin o p
  | .reg _, .reg _ => true
  | _, _ => false

/-! Access tables. -/

/-- One entry of an access table: master range, first and last page, rights (R53). -/
structure AccEntry where
  midLo : Nat
  midHi : Nat
  first : Nat
  last : Nat
  rd : Bool
  wr : Bool
  pl : Bool
  valid : Bool
  deriving DecidableEq, Repr

/-- Entry `e` of table `t`. -/
def accEntry (s : State) (t e : Nat) : AccEntry :=
  ⟨s.get F.ACC_ENT_MID_MID_LO t e, s.get F.ACC_ENT_MID_MID_HI t e,
    s.get F.ACC_ENT_BASE_BASE t e + s.get F.ACC_ENT_CTL_BASE_HI t e <<< 32,
    s.get F.ACC_ENT_LIMIT_LIMIT t e + s.get F.ACC_ENT_CTL_LIMIT_HI t e <<< 32,
    s.flag F.ACC_ENT_CTL_RD t e, s.flag F.ACC_ENT_CTL_WR t e, s.flag F.ACC_ENT_CTL_PL t e, s.flag F.ACC_ENT_CTL_VALID t e⟩

/-- The page ranges of target `t` (R46). -/
def targetPages (t : Nat) : List (Nat × Nat) :=
  let r := fun (a n : Nat) => (a / 4096, (a + n - 1) / 4096)
  if t < 20 then [r (t * 2 ^ 36) (2 ^ 36)]
  else if t < 100 then [r (0x040000000000 + (t - 20) * 2 ^ 24) (2 ^ 24), r (0x050000000000 + (t - 20) * 2 ^ 20) (2 ^ 20)]
  else if t = 107 then [r 0x048000000000 (100 * 2 ^ 24), r 0x058000000000 (100 * 2 ^ 20)]
  else [(targetFirst t / 4096, targetLast t / 4096)]

/-- Whether an entry may take part in checks (R55). -/
def AccEntry.sound (e : AccEntry) (t : Nat) : Bool :=
  e.first ≤ e.last && e.midLo ≤ e.midHi && (targetPages t).any fun r => e.first ≤ r.2 && r.1 ≤ e.last

/-- The rights of the entries of table `t` that match a master and cover a page; rights add (R47). -/
def pageRights (s : State) (t mid page : Nat) : Bool × Bool × Bool :=
  (List.range 64).foldl (fun acc i =>
    let e := accEntry s t i
    if e.valid && e.sound t && decide (e.midLo ≤ mid ∧ mid ≤ e.midHi ∧ e.first ≤ page ∧ page ≤ e.last) &&
        !(mid == 0xFF && e.midHi ≥ 0xFF && e.midLo ≤ 0xFF) then
      (acc.1 || e.rd, acc.2.1 || e.wr, acc.2.2 || e.pl)
    else acc) (false, false, false)

/-- Whether the fixed grants of R49, R50 and R30 admit an access; a source without a class is always refused (R45). -/
def fixedGrant (mid : Nat) (l : Loc) (write : Bool) : Bool :=
  match l with
  | .scratch c _ => clusterMaster mid == some c
  | .priv c o =>
    match privPart o with
    | 2 | 4 => clusterMaster mid == some c
    | 3 => clusterMaster mid == some c && !write
    | 5 => mid != 0x0FF && !write
    | _ => false
  | .diagPriv _ o => privPart o == 5 && mid != 0x0FF && !write
  | .reg o => mid ≤ 4 && 0x200000 ≤ o && o < 0x300000
  | _ => false

/-- The place `d` bytes further on. -/
def Loc.shift (d : Nat) : Loc → Loc
  | .stack n o => .stack n (o + d)
  | .scratch c o => .scratch c (o + d)
  | .priv c o => .priv c (o + d)
  | .diagScratch k o => .diagScratch k (o + d)
  | .diagPriv k o => .diagPriv k (o + d)
  | .reg o => .reg (o + d)
  | .none => .none

/-- Whether an access to a page of a target is admitted, by a fixed grant or by the entries that cover the page (R47 to R50). -/
def pageAdmitted (s : State) (t mid page : Nat) (l : Loc) (write : Bool) : Bool :=
  let code := match l with
    | .priv _ o | .diagPriv _ o => privPart o == 1 || privPart o == 3
    | _ => false
  let guarded := match l with
    | .reg o => 4 < mid && ((0x200000 ≤ o && o < 0x340000))
    | _ => false
  if fixedGrant mid l write then true
  else if guarded then false
  else
    let (rd, wr, pl) := pageRights s t mid page
    if write then wr && (!code || pl) else rd

/-- Whether every page of a piece is admitted (R47); `a` is the address that the target's table is asked about. -/
def admitted (s : State) (t mid a len : Nat) (l : Loc) (write : Bool) : Bool :=
  (List.range ((a + len - 1) / 4096 - a / 4096 + 1)).all fun i =>
    pageAdmitted s t mid (a / 4096 + i) (l.shift ((a / 4096 + i) * 4096 - a)) write

/-- Causes of R53. -/
def causeDenied : Nat := 1
def causeUnmapped : Nat := 2
def causeOff : Nat := 3

/-- The cluster that a physical slot backs. -/
def slotCluster (s : State) (slot : Nat) : Option Nat :=
  (List.range 4).findSome? fun i =>
    let c := 4 * (slot / 5) + i
    if cluState s c ≠ stMissing ∧ slotOf s c = slot then some c else none

/-- What stands in the way of an access to a place: a refusal cause, or a wait for clearing or a switch-in. -/
inductive Gate where
  | free
  | refuse (cause : Nat)
  | wait
  deriving DecidableEq, Repr

/-- What a cluster's state does to an access to its memories (R41, R284, R290, R496). -/
def clusterGate (s : State) (c part : Nat) (write : Bool) : Gate :=
  let st := cluState s c
  if st = 0 ∨ st = stMissing then .refuse causeOff
  else if st = stClearing ∨ st = stFenced ∨ failing s c then .wait
  else if write ∧ (part = 1 ∨ part = 3) ∧ st ≠ 2 then .refuse causeDenied
  else if write ∧ part = 5 then .refuse causeDenied
  else .free

/-- What stands in the way of an access at one place. -/
def locGate (s : State) (l : Loc) (write : Bool) : Gate :=
  match l with
  | .scratch c _ => clusterGate s c 0 write
  | .priv c o => clusterGate s c (privPart o) write
  | .diagScratch k _ =>
    match slotCluster s k with
    | some c => clusterGate s c 0 write
    | none => .refuse causeOff
  | .diagPriv k o =>
    match slotCluster s k with
    | some c => clusterGate s c (privPart o) write
    | none => .refuse causeOff
  | _ => .free

/-- Whether an access waits for a pseudo-channel in training (R457). -/
def trainingHolds (s : State) (l : Loc) (len : Nat) : Bool :=
  match l with
  | .stack n off => stackWaits s n off len
  | _ => false

/-- Whether an access touches a guarded area of a stack (R132). -/
def guardedAccess (s : State) (l : Loc) (len : Nat) : Bool :=
  match l with
  | .stack n off => (guardedSpans s 17).any (PageSpan.stack n (off / 4096) ((off + len - 1) / 4096 + 1)).overlaps
  | _ => false

/-- The address whose page the table of a target is asked about: the self alias of a cluster stands for the place in the
logical stride that it reaches, which is the range R46 gives the target (R46, R49, R296). -/
def checkedAddr (l : Loc) (a : Nat) : Nat :=
  match l with
  | .priv c _ => if 0x050010000000 ≤ a then 0x050000000000 + c * 2 ^ 20 + a % 2 ^ 20 else a
  | _ => a

/-- An access of a CLEARING cluster's own stevedore to its memories: it belongs to a macro-op that still runs and completes (R290 step 2). -/
def ownInClearing (s : State) (mid : Nat) (l : Loc) : Bool :=
  match l with
  | .scratch c _ | .priv c _ => mid == 0x060 + c && cluState s c == stClearing && !failing s c
  | _ => false

/-- How one piece of an access is judged at its target (R36, R41, R47, R57). An unmapped or badly formed access is UNMAPPED; one to a cluster
whose domain is off is TARGET_OFF, whatever the tables grant (R41); then guarded areas and the tables are asked, and last what the state
of the target lets through at the first and the last byte. -/
def judge (s : State) (mid a len : Nat) (write : Bool) : Nat × Loc × Gate :=
  let gate := fun (l : Loc) => if ownInClearing s mid l then .free else locGate s l write
  let a' := if striped s a then stripedToPrivate a else a
  let (t, l) := locate s mid a'
  let (_, e) := locate s mid (a' + len - 1)
  if sameLoc l e = false then (t, l, .refuse causeUnmapped)
  else if (match l with | .reg o => !((len == 4 || len == 8) && o % len == 0) | _ => false) then (t, l, .refuse causeUnmapped)
  else if locGate s l write = .refuse causeOff then (t, l, .refuse causeOff)
  else if guardedAccess s l len then (t, l, .refuse causeDenied)
  else if admitted s t mid (checkedAddr l a') len l write = false then (t, l, .refuse causeDenied)
  else match gate l with
    | .free => (t, l, if trainingHolds s l len then .wait else gate e)
    | g => (t, l, g)

/-- A refusal at target `t` (R58). -/
def recordRefusal (t mid cause a : Nat) (write : Bool) (s : State) : State :=
  let s := s.bump F.ACC_TBL_DENYCNT_COUNT 1 t
  if s.flag F.ACC_TBL_STATUS_FIRSTEV t then s
  else
    let s := ((s.set F.ACC_TBL_DENYMID_MID mid t).set F.ACC_TBL_DENYMID_CAUSE cause t).set F.ACC_TBL_DENYMID_WRITE (b2n write) t
    let s := (s.set F.ACC_TBL_DENYLO_ADDR a t).set F.ACC_TBL_DENYHI_ADDR (a / 2 ^ 32) t
    let s := s.set F.ACC_TBL_STATUS_FIRSTEV 1 t
    s.event 0x01 1 0 t [t, mid + cause * 4096 + b2n write * 65536, a % 2 ^ 32, a / 2 ^ 32]

/-- A write of 1 to ACC_TBL_STATUS.CLR (R53). -/
def accDenyClr (t : Nat) (s : State) : State :=
  (s.zeroAll [R.ACC_TBL_DENYCNT, R.ACC_TBL_DENYMID, R.ACC_TBL_DENYLO, R.ACC_TBL_DENYHI] t).set F.ACC_TBL_STATUS_FIRSTEV 0 t

def execAccDenyClr (t : TargetId) (s : State) : Res := ok (accDenyClr t s)

/-- The last access admitted under the previous table has completed (R53, R59). -/
def execAccessDrained (t : TargetId) (s : State) : Res := ok (s.set F.ACC_TBL_STATUS_DRAINED 1 t)

/-- A table's shadow applies at its access boundary (R55): unsound entries are reported, and accesses admitted under the
old table may still be in progress. -/
def accApply (t : TargetId) (s : State) : State :=
  let s := commitApplied (.acc t) s
  let s := s.set F.ACC_TBL_STATUS_DRAINED 0 t
  if (List.range 64).any fun e => (accEntry s t e).valid && !(accEntry s t e).sound t then
    s.reject ((lookup s.armedBy (commitOff (.acc t))).getD 0) (commitOff (.acc t))
  else s

/-- The master ID of a fabric source (R45). -/
def fabricMaster (s : State) (src : Nat) : Nat :=
  match (List.range 64).find? fun k =>
    s.flag F.ACC_FMC_HI_VALID 0 k && s.get F.ACC_FMC_LO_FIRST 0 k ≤ src && src ≤ s.get F.ACC_FMC_HI_LAST 0 k with
  | some k => 0x100 + k
  | none => 0x0FF

/-! Accesses to memory. -/

/-- How an access ends. -/
inductive AccRes where
  | data (bytes : List Byte)
  | refused (cause : Nat)
  | bad
  | wait
  deriving DecidableEq, Repr

/-- A wake event brings a DOZE or RETAIN cluster to RUNNING (R279). -/
def wakeCluster (c : Nat) (s : State) : State :=
  let st := cluState s c
  if st = stDoze ∨ st = stRetain then
    settleWaits c ((enterCluster stRunning c s).bump F.CLU_CNT_WAKE_COUNT 1 c)
  else s

/-- Bytes of the scale-table window from offset `w` (R40). -/
def windowBytes (s : State) (w len : Nat) : List Byte :=
  (List.range len).map fun i =>
    let b := w + i
    if 0x100 ≤ b ∧ b < 0x200 then (toBytes 4 (scaleWord s (b / 4 * 4))).getD (b % 4) 0 else 0

/-- Reads scratch or private memory of cluster `c`, after the wake that the access brings about (R40, R41, R489). -/
def scratchLocRead (c off len : Nat) (s : State) : AccRes × State :=
  match scratchTouch c off len (wakeCluster c s) with
  | (true, s) => (.bad, s)
  | (false, s) => (.data (scratchRead s c off len), s)

def privLocRead (c off len : Nat) (s : State) : AccRes × State :=
  let s := wakeCluster c s
  match privPart off with
  | 4 =>
    match pageRead c (off - 0xC0000) len s with
    | (some bs, s) => (.data bs, s)
    | (none, s) => (.bad, s)
  | 5 => (.data (windowBytes s (off - 0xFF000) len), s)
  | _ =>
    match privTouch c off len s with
    | (true, s) => (.bad, s)
    | (false, s) => (.data (privRead s c off len), s)

/-- Reads a memory place (R40, R41, R446). A place in the diagnostic view is that of the cluster that its slot backs (R39); the gate has
refused a slot that backs none. -/
def memLocRead (l : Loc) (len hint : Nat) (s : State) : AccRes × State :=
  match l with
  | .stack n off =>
    match stackRead n off len hint s with
    | (some bs, s) => (.data bs, s)
    | (none, s) => (.bad, s)
  | .scratch c off => scratchLocRead c off len s
  | .diagScratch k off =>
    match slotCluster s k with
    | some c => scratchLocRead c off len s
    | none => (.bad, s)
  | .priv c off => privLocRead c off len s
  | .diagPriv k off =>
    match slotCluster s k with
    | some c => privLocRead c off len s
    | none => (.bad, s)
  | _ => (.bad, s)

def privLocWrite (c off : Nat) (bs : List Byte) (s : State) : State :=
  let s := wakeCluster c s
  if privPart off = 4 then pageWrite c (off - 0xC0000) bs s else privWrite c off bs s

/-- Writes a memory place (R41, R420, R446). -/
def memLocWrite (l : Loc) (bs : List Byte) (hint : Nat) (s : State) : AccRes × State :=
  match l with
  | .stack n off =>
    match stackWrite n off hint bs s with
    | (true, s) => (.data [], s)
    | (false, s) => (.bad, s)
  | .scratch c off => (.data [], scratchWrite c off bs (wakeCluster c s))
  | .diagScratch k off =>
    match slotCluster s k with
    | some c => (.data [], scratchWrite c off bs (wakeCluster c s))
    | none => (.bad, s)
  | .priv c off => (.data [], privLocWrite c off bs s)
  | .diagPriv k off =>
    match slotCluster s k with
    | some c => (.data [], privLocWrite c off bs s)
    | none => (.bad, s)
  | _ => (.bad, s)

/-- The parts of an access: one, or cut at 4 KiB boundaries (R38, R56); `cut` asks for the segments of a stevedore. -/
def accParts (s : State) (a len : Nat) (cut : Bool) : List (Nat × Nat) :=
  if len = 0 then []
  else if cut || striped s a then
    (List.range ((a + len - 1) / 4096 - a / 4096 + 1)).map fun i =>
      let lo := max a ((a / 4096 + i) * 4096)
      (lo, min (a + len) ((a / 4096 + i + 1) * 4096) - lo)
  else [(a, len)]

/-- How two parts of one access end together: a refusal, the one at the lowest address, stands before an uncorrectable word (R38). -/
def AccRes.join : AccRes → AccRes → AccRes
  | .refused c, _ => .refused c
  | .bad, .refused c => .refused c
  | .bad, _ => .bad
  | .data bs, .data more => .data (bs ++ more)
  | .data _, r => r
  | .wait, _ => .wait

/-- Reads of memory as a list of parts; every part is judged, and a refused one is counted and logged at its target (R38). `reg` reads
registers. The address on record is the one that the master issued (DESIGN CHOICE, log entry 118). -/
def readParts (reg : Nat → Nat → Nat → State → List Byte × State) (mid hint : Nat) :
    List (Nat × Nat) → State → AccRes × State
  | [], s => (.data [], s)
  | (a, n) :: rest, s =>
    match judge s mid a n false with
    | (t, _, .refuse c) =>
      let s := recordRefusal t mid c a false s
      (.refused c, (readParts reg mid hint rest s).2)
    | (_, _, .wait) => (.wait, s)
    | (_, l, .free) =>
      let (r, s) := match l with
        | .reg o => let (bs, s) := reg mid o n s; (AccRes.data bs, s)
        | _ => memLocRead l n hint s
      let (r', s) := readParts reg mid hint rest s
      (r.join r', s)

/-- Writes as a list of parts: an admitted part is written even when another is refused (R38). -/
def writeParts (reg : Nat → Nat → List Byte → State → State) (mid hint : Nat) :
    List (Nat × Nat) → List Byte → State → AccRes × State
  | [], _, s => (.data [], s)
  | (a, n) :: rest, bs, s =>
    match judge s mid a n true with
    | (t, _, .refuse c) =>
      let s := recordRefusal t mid c a true s
      (.refused c, (writeParts reg mid hint rest (bs.drop n) s).2)
    | (_, _, .wait) => (.wait, s)
    | (_, l, .free) =>
      let (r, s) := match l with
        | .reg o => (AccRes.data [], reg mid o (bs.take n) s)
        | _ => memLocWrite l (bs.take n) hint s
      let (r', s) := writeParts reg mid hint rest (bs.drop n) s
      (r.join r', s)

/-- Reads of the device's own, which no table is asked about (R51). -/
def readUnchecked (hint : Nat) : List (Nat × Nat) → State → AccRes × State
  | [], s => (.data [], s)
  | (a, n) :: rest, s =>
    let (_, l) := locate s 0 (if striped s a then stripedToPrivate a else a)
    match locGate s l false with
    | .refuse c => (.refused c, s)
    | .wait => (.wait, s)
    | .free =>
      if trainingHolds s l n then (.wait, s)
      else
        let (r, s) := memLocRead l n hint s
        let (r', s) := readUnchecked hint rest s
        (r.join r', s)

/-- A memory-only access, for readers that never name registers in practice: a register place answers nothing. -/
def memRead (mid a len hint : Nat) (s : State) : AccRes × State :=
  readParts (fun _ _ n s => (List.replicate n 0, s)) mid hint (accParts s a len false) s

end Sys2Proof.Machine
end

