-- ==== Sys2Proof/Machine/HostRing.lean ====
section
/-! DEFINITION. Rings, completions and interrupts (R468 to R478, R485): what every descriptor and event shares. -/

namespace Sys2Proof.Machine

/-- A ring at reset. -/
def RingSt.initial : RingSt := ⟨0, 0, 0, 0, 0, true, [], 0, 0, false, false⟩

/-- Ring `r`. -/
def State.ring (s : State) (r : Nat) : RingSt := (lookup s.hif.rings r).getD RingSt.initial

/-- Replaces ring `r`. -/
def State.setRing (s : State) (r : Nat) (x : RingSt) : State := { s with hif.rings := place s.hif.rings r x }

/-- Sizes of a ring's two queues (R468). -/
def sqSize (s : State) (r : Nat) : Nat := 2 ^ s.get F.HIF_RCFG_SQLOG2 0 r
def cqSize (s : State) (r : Nat) : Nat := 2 ^ s.get F.HIF_RCFG_CQLOG2 0 r

/-- Host addresses of a ring's two queues (R468). -/
def sqBase (s : State) (r : Nat) : Nat := s.get F.HIF_SQBASE_LO_ADDR 0 r <<< 12 + s.get F.HIF_SQBASE_HI_ADDR 0 r <<< 32
def cqBase (s : State) (r : Nat) : Nat := s.get F.HIF_CQBASE_LO_ADDR 0 r <<< 12 + s.get F.HIF_CQBASE_HI_ADDR 0 r <<< 32

/-- Words as bytes, lowest first (R10). -/
def wordBytes (ws : List Nat) : List Byte := ws.flatMap fun w => toBytes 4 w

/-- A word of the MSI-X table; a vector is masked at reset. -/
def msixWord (s : State) (i : Nat) : Nat := ((lookup s.hif.msix i).getD (if i % 4 = 3 then 1 else 0)).toNat

/-- A vector is raised (R485): sent, or kept pending while masked. -/
def raiseVector (v : Nat) (s : State) : State :=
  if (msixWord s (4 * v + 3)).testBit 0 then
    if s.hif.pending.contains v then s else { s with hif.pending := s.hif.pending ++ [v] }
  else s.emit (.msix v)

/-- Unsignalled completions of ring `r` reach COUNT (R485). -/
def ringSignal (r : Nat) (s : State) : State :=
  let x := s.ring r
  if max 1 (s.get F.HIF_RMOD_COUNT 0 r) ≤ x.unsignalled then
    raiseVector (s.get F.HIF_RCFG_VECTOR 0 r) (s.setRing r { x with unsignalled := 0 })
  else s

/-- The bytes of a completion record (R478). -/
def completionBytes (d : Desc) (head status reason detail : Nat) (result : List Nat) (phase : Bool) : List Byte :=
  let w0 := (d.words.getD 0 0).toNat
  wordBytes ([w0 / 65536 + (w0 % 256) <<< 16 + status <<< 24, d.idx + head <<< 16, reason + (detail % 2 ^ 24) <<< 8] ++
    (result ++ List.replicate 4 0).take 4 ++ [b2n phase <<< 31])

/-- An outstanding descriptor. -/
def State.desc (s : State) (c : CmdRef) : Option Desc := (s.ring c.ring).out.find? fun d => d.id == c.id

/-- A descriptor completes (R473, R478): its record is written to host memory unless the ring is muted (R467, R475), and
counts toward the interrupt unless QUIET (R476). -/
def complete (c : CmdRef) (status reason detail : Nat) (result : List Nat) (s : State) : State :=
  match s.desc c with
  | none => s
  | some d =>
    let x := s.ring c.ring
    let x := { x with out := x.out.filter fun e => e.id != c.id }
    if x.mute then s.setRing c.ring x
    else
      let quiet := (d.words.getD 0 0).toNat.testBit 9
      let s := s.emit (.hostWrite (cqBase s c.ring + 32 * x.cqTail) (completionBytes d x.head status reason detail result x.phase))
      let t := (x.cqTail + 1) % cqSize s c.ring
      let x := { x with
        cqTail := t, phase := if t = 0 then !x.phase else x.phase
        unsignalled := if quiet then x.unsignalled else x.unsignalled + 1
        oldest := if quiet || x.unsignalled != 0 then x.oldest else s.ticks }
      ringSignal c.ring (s.setRing c.ring x)

/-- Completion status codes (R478). -/
def csOk : Nat := 0
def csState : Nat := 1
def csBadDesc : Nat := 2
def csAccess : Nat := 3
def csHostErr : Nat := 4
def csRefused : Nat := 5
def csError : Nat := 6
def csHalted : Nat := 7
def csLost : Nat := 8
def csTimeout : Nat := 9

/-- Word `i` of a descriptor. -/
def Desc.word (d : Desc) (i : Nat) : Nat := (d.words.getD i 0).toNat

/-- A 64-bit item pair of a descriptor (R477). -/
def Desc.pair (d : Desc) (i : Nat) : Nat := d.word i + d.word (i + 1) * 2 ^ 32

/-- The bits of each word that kind `k` defines (R476, R477); none where the kind is reserved. -/
def kindMasks (k : Nat) : Option (List Nat) :=
  let all := 0xFFFFFFFF
  let dev := 0xFFFF
  match k with
  | 0x00 => some []
  | 0x01 => some [0x1FF7F, all, dev]
  | 0x02 => some [0x7F, all, all]
  | 0x03 => some [0x37F]
  | 0x04 => some [0, all, all, all]
  | 0x05 => some [0xFFF, all, dev, all]
  | 0x06 => some [0xFFF]
  | 0x07 => some [0x7, all, all, all, dev, all]
  | 0x08 => some [0x3, all, all]
  | 0x09 => some [0x1, all, all]
  | 0x0A => some [0x1, all, all, all, all]
  | 0x0B => some [0, all, all, all, all]
  | 0x0C => some [0xFFFF0000, all, all, all, all]
  | 0x0D => some [0, all, all, all, all, all, all]
  | 0x0E => some [0, all, dev]
  | _ => none

/-- The first word of a descriptor that holds a bit its kind does not define (R476). -/
def badWord (d : Desc) : Option Nat :=
  let masks := (kindMasks (d.word 0 % 256)).getD []
  (List.range 16).find? fun i =>
    let m := if i = 0 then 0xFFFF03FF else masks.getD (i - 1) 0
    d.word i != d.word i &&& m

/-- Whether a descriptor may start (R472, R483): in index order, after every earlier one has completed where it is SERIAL
or a REMAP. -/
def mayStartDesc (s : State) (c : CmdRef) (d : Desc) : Bool :=
  let before := (s.ring c.ring).out.takeWhile fun e => e.id != c.id
  let serial := (d.word 0).testBit 8 || d.word 0 % 256 == 0x0E
  !d.started && if serial then before.isEmpty else before.all fun e => e.started

/-- The descriptor at place `i` among those outstanding on ring `r`, in the order of fetching. -/
def nthDesc (s : State) (r : RingId) (i : BitVec 8) : CmdRef :=
  let x := s.ring r
  ⟨r, ((x.out[i.toNat]?).map Desc.id).getD x.serial⟩

/-- Replaces an outstanding descriptor. -/
def setDesc (c : CmdRef) (d : Desc) (s : State) : State :=
  let x := s.ring c.ring
  s.setRing c.ring { x with out := x.out.map fun e => if e.id = c.id then d else e }

/-- Starts the descriptor `c` if it is of kind `k` and may start, and runs `run` on it; a reserved bit completes it with
BADDESC (R476 to R478). -/
def startDesc (k : Nat) (c : CmdRef) (run : Desc → State → State) (s : State) : State :=
  match s.desc c with
  | none => s
  | some d =>
    if d.word 0 % 256 ≠ k ∨ mayStartDesc s c d = false then s
    else
      let s := setDesc c { d with started := true, since := s.ticks } s
      match badWord d with
      | some i => complete c csBadDesc 0 i [] s
      | none => run { d with started := true, since := s.ticks } s

end Sys2Proof.Machine
end

