-- ==== Sys2Proof/Machine/Num.lean ====
section
/-! DEFINITION. Number formats (R369 to R383): decoding to exact values, the one rounding rule, block scaling, exact
arithmetic, the total order (R257), the fixed tree (R250), and the generator of stochastic rounding (R384). -/

namespace Sys2Proof.Machine

/-- Operand format codes (R320). -/
def fFP32 : Nat := 0
def fBF16 : Nat := 1
def fFP16 : Nat := 2
def fE4M3 : Nat := 3
def fE5M2 : Nat := 4
def fF4n : Nat := 5
def fMXFP8 : Nat := 6
def fBF4n : Nat := 7
def fINT32 : Nat := 8
def fINT8 : Nat := 9
def fUINT32 : Nat := 10
def fGF8 : Nat := 11

/-- Parameters of a floating-point format (R369): field widths, bias, canonical NaN, largest finite magnitude code, and
the infinity's magnitude code where it has one. -/
structure FltFmt where
  ew : Nat
  fb : Nat
  bias : Nat
  nan : Nat
  maxFin : Nat
  inf : Option Nat
  deriving DecidableEq, Repr

/-- The table of R369; a block-scaled format's elements are those of E4M3 or F4n (R375). -/
def fltFmt (fmt : Nat) : FltFmt :=
  match fmt with
  | 0 => ⟨8, 23, 127, 0x7FC00000, 0x7F7FFFFF, some 0x7F800000⟩
  | 1 => ⟨8, 7, 127, 0x7FC0, 0x7F7F, some 0x7F80⟩
  | 2 => ⟨5, 10, 15, 0x7E00, 0x7BFF, some 0x7C00⟩
  | 3 | 6 => ⟨4, 3, 7, 0x7F, 0x7E, none⟩
  | 4 => ⟨5, 2, 15, 0x7E, 0x7B, some 0x7C⟩
  | _ => ⟨2, 1, 1, 0x8, 0x7, none⟩

def isFloat (fmt : Nat) : Bool := fmt ≤ 7
def isBlock (fmt : Nat) : Bool := fmt == 6 || fmt == 7
def isF4 (fmt : Nat) : Bool := fmt == 5 || fmt == 7

/-- Bits of one element, scales left out (R320, R371). -/
def elemBits (fmt : Nat) : Nat :=
  match fmt with
  | 0 | 8 | 10 => 32
  | 1 | 2 => 16
  | 5 | 7 => 4
  | _ => 8

/-- Bytes of a row (R320, R376). -/
def rowBytes (fmt cols : Nat) : Nat := ceilDiv (cols * elemBits fmt) 8 + (if isBlock fmt then cols / 32 else 0)

/-! Codes and exact values. -/

/-- The exact value of a floating-point code (R369, R370). -/
def decodeFlt (fmt code : Nat) : Num :=
  let p := fltFmt fmt
  let neg := code.testBit (p.ew + p.fb)
  let mag := code % 2 ^ (p.ew + p.fb)
  if isF4 fmt && code % 16 == 8 then .nan
  else if p.inf = some mag then .inf neg
  else if p.maxFin < mag then .nan
  else
    let e := mag / 2 ^ p.fb
    let f := mag % 2 ^ p.fb
    if e = 0 then .fin neg f (1 - (p.bias : Int) - p.fb)
    else .fin neg (2 ^ p.fb + f) ((e : Int) - p.bias - p.fb)

/-- Floor of log2 of a magnitude. -/
def msb (n : Nat) : Nat := n.log2

/-- The code of a magnitude with a sign. -/
def signedCode (p : FltFmt) (neg : Bool) (mag : Nat) : Nat := mag + b2n neg <<< (p.ew + p.fb)

/-- The overflow code (R254, R378). -/
def overflowCode (fmt rmode : Nat) (neg : Bool) : Nat :=
  let p := fltFmt fmt
  let mag := match p.inf with
    | some m => if rmode = 1 then p.maxFin else m
    | none => p.maxFin
  signedCode p neg mag

/-- A zero with a sign; F4n has only +0 (R379). -/
def zeroCode (fmt : Nat) (neg : Bool) : Nat := if isF4 fmt then 0 else signedCode (fltFmt fmt) neg 0

/-- Whether the last kept place is raised (R377): `rem` is what lies below it, of `k` bits. -/
def roundUp (rmode r q rem k : Nat) : Bool :=
  match rmode with
  | 0 => decide (2 ^ k < 2 * rem) || (decide (2 * rem = 2 ^ k) && q % 2 == 1 && k != 0)
  | 2 => decide (r < (if 32 ≤ k then rem >>> (k - 32) else rem <<< (32 - k)))
  | _ => false

/-- The rounding rule (R377 to R379): an exact value as a code of a format, with the draw `r` for RMODE 2. -/
def roundNum (fmt rmode r : Nat) (x : Num) : Nat :=
  let p := fltFmt fmt
  match x with
  | .nan => p.nan
  | .inf neg =>
    match p.inf with
    | some m => signedCode p neg m
    | none => overflowCode fmt rmode neg
  | .fin neg m e =>
    if m = 0 then zeroCode fmt neg
    else
      let top := max ((msb m : Int) + e) (1 - (p.bias : Int))
      let ulp := top - p.fb
      let k := (ulp - e).toNat
      let q := if ulp ≤ e then m <<< (e - ulp).toNat else m >>> k
      let rem := if ulp ≤ e then 0 else m % 2 ^ k
      let q := q + b2n (roundUp rmode r q rem k)
      let mag := (top + p.bias - 1).toNat * 2 ^ p.fb + q
      if q = 0 then zeroCode fmt neg
      else if p.maxFin < mag then overflowCode fmt rmode neg
      else signedCode p neg mag

/-- An integer element's value (R373). -/
def intOf (fmt code : Nat) : Int :=
  match fmt with
  | 8 => signed 32 code
  | 9 => signed 8 code
  | _ => (code : Int)

/-! Exact arithmetic. -/

def Num.isNan : Num → Bool
  | .nan => true
  | _ => false

/-- Negation. -/
def Num.neg : Num → Num
  | .nan => .nan
  | .inf n => .inf !n
  | .fin n m e => .fin (!n) m e

def Num.abs : Num → Num
  | .nan => .nan
  | .inf _ => .inf false
  | .fin _ m e => .fin false m e

/-- Times a power of two. -/
def Num.scale (k : Int) : Num → Num
  | .fin n m e => .fin n m (e + k)
  | x => x

/-- The exact sum (R253): −0 only where both are −0. -/
def Num.add (a b : Num) : Num :=
  match a, b with
  | .nan, _ | _, .nan => .nan
  | .inf n, .inf m => if n = m then .inf n else .nan
  | .inf n, _ | _, .inf n => .inf n
  | .fin n m e, .fin n' m' e' =>
    let lo := min e e'
    let v : Int := ((m <<< (e - lo).toNat : Nat) : Int)
    let v' : Int := ((m' <<< (e' - lo).toNat : Nat) : Int)
    let z := (if n then -v else v) + (if n' then -v' else v')
    if z = 0 then .fin (n && n' && m == 0 && m' == 0) 0 0 else .fin (decide (z < 0)) z.natAbs lo

/-- The exact product (R353). -/
def Num.mul (a b : Num) : Num :=
  match a, b with
  | .nan, _ | _, .nan => .nan
  | .inf n, .inf m => .inf (n != m)
  | .inf n, .fin m k _ | .fin m k _, .inf n => if k = 0 then .nan else .inf (n != m)
  | .fin n m e, .fin n' m' e' => .fin (n != n') (m * m') (e + e')

/-- A zero becomes +0 (R353). -/
def Num.plusZero : Num → Num
  | .fin _ 0 _ => .fin false 0 0
  | x => x

/-- Whether an element is a zero of its format (R393). -/
def isZeroCode (fmt code : Nat) : Bool :=
  if isF4 fmt then code % 16 == 0
  else if isFloat fmt then code % 2 ^ (elemBits fmt - 1) == 0
  else code == 0

/-- A rank in the total order of R257 and R401. -/
def orderKey (fmt code : Nat) : Int :=
  if isFloat fmt then
    match decodeFlt fmt code with
    | .nan => 2 ^ 40
    | _ =>
      let w := (fltFmt fmt).ew + (fltFmt fmt).fb
      if code.testBit w then -((code % 2 ^ w : Nat) : Int) - 1 else ((code % 2 ^ w : Nat) : Int)
  else intOf fmt code

/-- NaN made canonical (R257). -/
def canonCode (fmt code : Nat) : Nat :=
  if isFloat fmt && (decodeFlt fmt code).isNan then (fltFmt fmt).nan else code

/-- MAX or MIN of two codes (R257). -/
def pickCode (fmt : Nat) (greatest : Bool) (a b : Nat) : Nat :=
  let x := orderKey fmt a
  let y := orderKey fmt b
  canonCode fmt (if greatest then (if x < y then b else a) else (if y < x then b else a))

/-! FP32 and integer arithmetic of the vector unit (R328) and of tree nodes (R253, R256). -/

def fp32Add (a b : Nat) : Nat := roundNum 0 0 0 ((decodeFlt 0 a).add (decodeFlt 0 b))
def fp32Mul (a b : Nat) : Nat := roundNum 0 0 0 ((decodeFlt 0 a).mul (decodeFlt 0 b))
def fp32Fma (a b c : Nat) : Nat := roundNum 0 0 0 (((decodeFlt 0 a).mul (decodeFlt 0 b)).add (decodeFlt 0 c))

/-- Combines neighbours of one level, the lower leaf on the left; an odd one passes up (R250). `node` takes the node's
index in its level. -/
def treeLevel {α : Type} (node : Nat → α → α → α) : Nat → List α → List α
  | _, [] => []
  | _, [x] => [x]
  | j, x :: y :: rest => node j x y :: treeLevel node (j + 1) rest

/-- The fixed binary tree (R250): `node` takes level and index. -/
def treeFrom {α : Type} (node : Nat → Nat → α → α → α) : Nat → Nat → List α → List α
  | 0, _, l => l
  | fuel + 1, lvl, l => if l.length ≤ 1 then l else treeFrom node fuel (lvl + 1) (treeLevel (node lvl) 0 l)

/-- The root of the tree over `l`, `d` where it has no leaf. -/
def treeRoot {α : Type} (node : Nat → Nat → α → α → α) (d : α) (l : List α) : α :=
  ((treeFrom node l.length 1 l).head?).getD d

/-! The generator (R384). -/

def rotl32 (x k : Nat) : Nat := (x % 2 ^ 32) <<< k % 2 ^ 32 + (x % 2 ^ 32) >>> (32 - k)

def srK : List Nat := [0x9E3779B9, 0x3C6EF372, 0xDAA66D2B, 0x78DDE6E4]
def srP : List Nat := [13, 17, 7, 24]
def srQ : List Nat := [11, 5, 19, 9]

/-- One round on a, b, c, d. -/
def srRound (k0 k1 i : Nat) (v : Nat × Nat × Nat × Nat) : Nat × Nat × Nat × Nat :=
  let (a, b, c, d) := v
  let a := (a + (k0 ^^^ srK.getD i 0)) % 2 ^ 32
  let c := (c + (k1 ^^^ srK.getD i 0)) % 2 ^ 32
  let a := (a + b) % 2 ^ 32
  let d := rotl32 (d ^^^ a) (srP.getD i 0)
  let c := (c + d) % 2 ^ 32
  let b := rotl32 (b ^^^ c) (srQ.getD i 0)
  (a, b, c, d)

/-- A draw (R384). -/
def srgen (seed step stream index : Nat) : Nat :=
  let v := iterate 4 (srRound (seed % 2 ^ 32) (seed / 2 ^ 32 % 2 ^ 32))
    (index % 2 ^ 32, stream % 2 ^ 32, step % 2 ^ 32, step / 2 ^ 32 % 2 ^ 32)
  let (a, b, c, d) := v
  a ^^^ b ^^^ c ^^^ d

/-! Rows. -/

/-- Element codes of a row's bytes, low nibble first for 4-bit forms (R371). -/
def rowCodes (fmt cols : Nat) (bs : List Byte) : List Nat :=
  match elemBits fmt with
  | 4 => (List.range cols).map fun i => (bs.getD (i / 2) 0).toNat / 16 ^ (i % 2) % 16
  | w => (List.range cols).map fun i => ofBytes ((bs.drop (i * (w / 8))).take (w / 8))

/-- Bytes of element codes; an odd 4-bit element leaves the high nibble 0 (R394). -/
def codeBytes (fmt : Nat) (codes : List Nat) : List Byte :=
  match elemBits fmt with
  | 4 => (List.range (ceilDiv codes.length 2)).map fun i =>
      BitVec.ofNat 8 (codes.getD (2 * i) 0 % 16 + codes.getD (2 * i + 1) 0 % 16 * 16)
  | w => codes.flatMap fun c => toBytes (w / 8) c

/-- Bytes of a row's element data, scales left out. -/
def dataBytes (fmt cols : Nat) : Nat := ceilDiv (cols * elemBits fmt) 8

/-- The exact values of a row, block scales applied (R374, R375). -/
def rowNums (fmt cols : Nat) (bs : List Byte) : List Num :=
  let codes := rowCodes fmt cols bs
  if isBlock fmt then
    (List.range cols).map fun i =>
      let sc := (bs.getD (dataBytes fmt cols + i / 32) 0).toNat
      if sc = 255 then .nan else (decodeFlt fmt (codes.getD i 0)).scale ((sc : Int) - 127)
  else codes.map (decodeFlt fmt)

/-- The scale code of a block (R383). -/
def blockScale (fmt : Nat) (xs : List Num) : Nat :=
  let emax : Int := if fmt = 6 then 8 else 2
  let tops := xs.filterMap fun x => match x with
    | .fin _ m e => if m = 0 then none else some ((msb m : Int) + e)
    | _ => none
  match tops with
  | [] => 127
  | t :: ts => (max 0 (min 254 (ts.foldl max t - emax + 127))).toNat

/-- A row of exact values as bytes of a floating-point format (R380, R383); `r` gives the draw of each element. -/
def encodeRow (fmt rmode : Nat) (r : Nat → Nat) (xs : List Num) : List Byte :=
  if isBlock fmt then
    let blocks := (List.range (ceilDiv xs.length 32)).map fun b => (xs.drop (32 * b)).take 32
    let scales := blocks.map (blockScale fmt)
    let codes := (List.range xs.length).map fun i =>
      roundNum fmt rmode (r i) ((xs.getD i .nan).scale (127 - (scales.getD (i / 32) 127 : Int)))
    codeBytes fmt codes ++ scales.map fun k => BitVec.ofNat 8 k
  else codeBytes fmt ((List.range xs.length).map fun i => roundNum fmt rmode (r i) (xs.getD i .nan))

/-- INT32 saturated to INT8 (R382). -/
def satInt8 (z : Int) : Nat := unsigned 8 (max (-128) (min 127 z))

/-- Whether a pair widens exactly (R275). -/
def pairExact (a b : Nat) : Bool :=
  (b == 0 && 1 ≤ a && a ≤ 7) || ((b == 1 || b == 2) && 3 ≤ a && a ≤ 5) || (a == 9 && b == 8)

/-- The conversion pairs of R275. -/
def pairListed (a b : Nat) : Bool :=
  a == b || pairExact a b || (a == 0 && 1 ≤ b && b ≤ 7) || ((a == 1 || a == 2) && 3 ≤ b && b ≤ 7) || (a == 8 && b == 9)

/-- A row converted between formats of a listed pair (R275, R380 to R383). -/
def convertRow (a b rmode : Nat) (r : Nat → Nat) (cols : Nat) (bs : List Byte) : List Byte :=
  if a = b then bs.take (rowBytes a cols)
  else if isFloat a && isFloat b then encodeRow b (if pairExact a b then 0 else rmode) r (rowNums a cols bs)
  else if b = 9 then codeBytes 9 ((rowCodes a cols bs).map fun c => satInt8 (intOf a c))
  else codeBytes b ((rowCodes a cols bs).map fun c => unsigned 32 (intOf a c))

/-! EXP, RECIP and RSQRT (R328). -/

/-- Fixed-point working precision. -/
def fixBits : Nat := 200

/-- The Taylor sum of e^x in fixed point, 0 ≤ x < 1. -/
def expFix (x : Nat) : Nat → Nat → Nat → Nat
  | 0, _, acc => acc
  | fuel + 1, term, acc =>
    let n := 64 - fuel
    let t := term * x / 2 ^ fixBits / n
    expFix x fuel t (acc + t)

/-- ln 2 in fixed point: the sum of 1 / (k 2^k). -/
def ln2Fix : Nat := (List.range 220).foldl (fun a k => a + 2 ^ fixBits / ((k + 1) * 2 ^ (k + 1))) 0

/-- e^x as an exact-looking value of `fixBits` places, for a finite FP32 value. -/
def expNum (neg : Bool) (m : Nat) (e : Int) : Num :=
  if m = 0 then .fin false 1 0
  else if 8 < (msb m : Int) + e then (if neg then .fin false 1 (-400) else .fin false 1 400)
  else
    let fx := if 0 ≤ e + fixBits then m <<< (e + fixBits).toNat else m >>> (-(e + fixBits)).toNat
    let x : Int := if neg then -(fx : Int) else (fx : Int)
    let k := x / (ln2Fix : Int)
    let r := (x - k * (ln2Fix : Int)).toNat
    let one := 2 ^ fixBits
    .fin false (2 * expFix r 63 one one + 1) (k - fixBits - 1)

/-- Largest n with n² ≤ x, by digits. -/
def isqrt (x : Nat) : Nat → Nat → Nat
  | 0, acc => acc
  | b + 1, acc => if (acc + 2 ^ b) * (acc + 2 ^ b) ≤ x then isqrt x b (acc + 2 ^ b) else isqrt x b acc

/-- The FP32 result of a function code (11 EXP, 12 RECIP, 13 RSQRT) before its last-place difference; none where the real
function has no value. -/
def vecFunExact (op code : Nat) : Option Nat :=
  match op, decodeFlt 0 code with
  | _, .nan => some (fltFmt 0).nan
  | 11, .inf neg => some (if neg then 0 else 0x7F800000)
  | 11, .fin neg m e => some (roundNum 0 0 0 (expNum neg m e))
  | 12, .inf neg => some (zeroCode 0 neg)
  | 12, .fin neg m e => if m = 0 then none else some (roundNum 0 0 0 (.fin neg (2 * (2 ^ 100 / m) + b2n (2 ^ 100 % m != 0)) (-e - 101)))
  | _, .inf neg => if neg then none else some 0
  | _, .fin neg m e =>
    if m = 0 || neg then none
    else
      let odd := e % 2 != 0
      let m := if odd then 2 * m else m
      let e := if odd then e - 1 else e
      some (roundNum 0 0 0 (.fin false (2 * isqrt (2 ^ 160 / m) 90 0 + 1) (-e / 2 - 81)))

/-- EXP, RECIP or RSQRT of an FP32 code: the rounded result, at most one last place away (R328). -/
def vecFun (op code : Nat) : Nat :=
  match vecFunExact op code with
  | none => (Config.vecCorner op (BitVec.ofNat 32 code)).toNat
  | some v =>
    let d := (Config.vecDelta op (BitVec.ofNat 32 code)).toNat
    let mag := v % 2 ^ 31
    if (decodeFlt 0 v).isNan ∨ d = 0 ∨ d = 3 then v
    else if d = 1 then (if mag = 0x7F800000 then v else v + 1)
    else if mag = 0 then v else v - 1

end Sys2Proof.Machine
end

