-- ==== Sys2Proof/Machine/MopWord.lean ====
section
/-! DEFINITION. The macro-op word (R319): operand descriptors (R320, R321), parameters and repetition (R322, R323), the
queue of each family (R271), and the checks of rehearsal and start (R338, R339). -/

namespace Sys2Proof.Machine

/-- An operand descriptor (R319). -/
structure Opd where
  base : Nat
  fmt : Nat
  hint : Nat
  idx : Bool
  hold : Bool
  bitmap : Bool
  loc : Bool
  rsv : Nat
  rows : Nat
  cols : Nat
  stride : Nat
  absent : Bool
  deriving DecidableEq, Repr

/-- Operand `j` (0 A, 1 B, 2 C) of a word. -/
def opdOf (w : List Word) (j : Nat) : Opd :=
  let f := fun i lo width => mopField w (4 + 4 * j + i) lo width
  { base := f 0 0 32 + f 1 0 16 <<< 32, fmt := f 1 16 4, hint := f 1 20 2, idx := f 1 22 1 == 1, hold := f 1 23 1 == 1
    bitmap := f 1 24 1 == 1, loc := f 1 25 1 == 1, rsv := f 1 26 6, rows := f 2 0 32, cols := f 3 0 16
    stride := f 3 16 16, absent := f 0 0 32 == 0 && f 1 0 32 == 0 && f 2 0 32 == 0 && f 3 0 32 == 0 }

/-- Row pitch in bytes (R321). -/
def Opd.pitch (o : Opd) : Nat := if o.stride = 0 then rowBytes o.fmt o.cols else 16 * o.stride

/-- Densest bitmap row (R395). -/
def densestRow (fmt cols : Nat) : Nat :=
  (List.range (ceilDiv cols 64)).foldl (fun n g => n + 8 + ceilDiv (ceilDiv (min 64 (cols - 64 * g) * elemBits fmt) 8) 8 * 8) 0

/-- Base of an operand in repetition `k` (R323). -/
def Opd.baseAt (o : Opd) (k : Nat) : Nat :=
  if o.hold || o.idx then o.base else (o.base + k * o.rows * o.pitch) % 2 ^ 48

/-- Device address of offset 0 of cluster `c`'s scratch (R35). -/
def scratchBase (c : Nat) : Nat := 0x040000000000 + c * 0x1000000

/-- Device address of row `r` in repetition `k` (R321, R323). -/
def Opd.rowAddr (o : Opd) (c k r : Nat) : Nat :=
  (if o.loc then scratchBase c else 0) + (o.baseAt k + r * o.pitch) % 2 ^ 48

/-- Header fields (R319). -/
def mopRepeat (w : List Word) : Nat := mopField w 1 0 16
def mopDflag (w : List Word) : Nat := mopField w 1 16 8
def mopDfen (w : List Word) : Bool := mopField w 1 24 1 == 1
def mopRmode (w : List Word) : Nat := mopField w 1 25 2
def mopTag (w : List Word) : Nat := mopField w 0 16 16
def mopHaltErr (w : List Word) : Bool := mopField w 0 14 1 == 1
def mopStrict (w : List Word) : Bool := mopField w 0 15 1 == 1
def mopPar (w : List Word) (i : Nat) : Nat := mopField w 2 (8 * i) 8
def mopFspec (w : List Word) : Nat := mopField w 3 0 32

/-! Parameters (R322). -/

/-- A word replaced by a number. -/
def setW (w : List Word) (i v : Nat) : List Word := w.set i (BitVec.ofNat 32 v)

/-- Adds `p` rows to the base of operand `j`, modulo 2^48. -/
def addRows (w : List Word) (j : Nat) (p : Int) : List Word :=
  let o := opdOf w j
  let b := unsigned 48 ((o.base : Int) + p * (o.pitch : Int))
  setW (setW w (4 + 4 * j) b) (5 + 4 * j) (withField (mopField w (5 + 4 * j) 0 32) 0 16 (b / 2 ^ 32))

/-- One parameter control acts on its value (R322). -/
def applyPar (ctl p : Nat) (w : List Word) : List Word :=
  let w := iterate 3 (fun j w => if ctl.testBit j then addRows w j (signed 32 p) else w) w
  match fieldOf ctl 3 3 with
  | 1 => setW w 6 p
  | 2 => setW w 1 (withField (mopField w 1 0 32) 0 16 (p % 65536))
  | 3 => setW w 3 p
  | 4 => setW w 14 p
  | _ => w

/-- The started copy (R322). -/
def mopCopy (w : List Word) (params : List Word) : List Word :=
  iterate 4 (fun i x => applyPar (mopPar w i) (params.getD i 0).toNat x) w

/-! Families (R325). -/

/-- A WAITF, SETF or CUE. -/
def isFlagMop (w : List Word) : Bool := 0x20 ≤ mopFamily w && mopFamily w ≤ 0x22

/-- Queue of a word (R271): 0 ARRAY, 1 VECTOR, 2 MOVE, 3 SORTHASH. -/
def mopQueue (w : List Word) : Nat :=
  let f := mopFamily w
  if isFlagMop w then mopField w 0 12 2
  else if f < 0x08 then 0
  else if f < 0x10 then 1
  else if f < 0x18 then 2
  else 3

/-- Defined SUB values of a family (R325, R328). -/
def subOk (f sub : Nat) : Bool :=
  match f with
  | 0x08 => sub ≤ 13 || (16 ≤ sub && sub ≤ 18)
  | 0x09 | 0x1C | 0x21 => sub ≤ 3
  | 0x11 | 0x22 => sub ≤ 1
  | 0x01 | 0x02 | 0x0A | 0x0B | 0x10 | 0x12 | 0x18 | 0x19 | 0x1A | 0x1B | 0x1D | 0x20 => sub == 0
  | _ => false

/-- Defined FSPEC bits of a family (R325). -/
def fspecMask (f sub : Nat) : Nat :=
  match f with
  | 0x01 => 0x7
  | 0x02 => 0x7
  | 0x08 => 0xFFFFFFFF
  | 0x09 | 0x0B => 0x1
  | 0x11 => if sub = 0 then 0xFFFFFF else 0xFFFFFFF
  | 0x12 => 0xFFFFFF
  | 0x18 => 0x3FF
  | 0x19 => 0x3FFFF
  | 0x1A => 0x7FF
  | 0x1C => match sub with | 0 => 0x3F | 1 => 0x3 | 2 => 0x3F | _ => 0
  | 0x1D => 0x7F
  | 0x20 => 0xFFFF01FF
  | 0x21 => match sub with | 2 => 0x7F00FF | 3 => 0x1F | _ => 0xFF
  | 0x22 => if sub = 0 then 0xFFFF0000 else 0
  | _ => 0

def floats : List Nat := [0, 1, 2, 3, 4, 5, 6, 7]
def arrayIn : List Nat := [1, 2, 3, 4, 5, 6, 7]
def allFmts : List Nat := [0, 1, 2, 3, 4, 5, 6, 7, 8, 9, 10, 11]
def keyFmts : List Nat := [0, 1, 2, 3, 4, 8, 9, 10, 11]
def plainFmts : List Nat := [0, 1, 2, 3, 4, 5, 8, 9, 10, 11]

/-- Formats that go together with A's in the vector unit (R328, R329): all floats or all integers. -/
def vecClass (fmt : Nat) : List Nat := if isFloat fmt then floats else if 8 ≤ fmt ∧ fmt ≤ 10 then [8, 9, 10] else []

/-- Formats that A may be converted to (R275). -/
def listedFrom (a : Nat) : List Nat := allFmts.filter (pairListed a)

/-- Whether a VEC operation has a second input. -/
def vecTwo (sub : Nat) : Bool := sub ≤ 5 || 16 ≤ sub

/-- Value type of the hash accumulator for A's format (R406). -/
def hashType (fmt : Nat) : Nat := if isFloat fmt then 0 else if fmt = 10 then 10 else 8

/-- Formats permitted to each operand; an empty list for an absent one (R325 to R331, R401 to R406). -/
def mopRoles (w : List Word) : List (List Nat) :=
  let a := (opdOf w 0).fmt
  let sub := mopSub w
  let fs := mopFspec w
  match mopFamily w with
  | 0x01 => [arrayIn, [], []]
  | 0x02 => [arrayIn, [0, 1, 2, 3, 4], if fs.testBit 2 then [0] else []]
  | 0x08 =>
    let ins := if 16 ≤ sub then [8, 9, 10] else if 11 ≤ sub then floats else floats ++ [8, 9, 10]
    [ins, if vecTwo sub then vecClass a else [], vecClass a]
  | 0x09 => [floats ++ [8, 9, 10], vecClass a, []]
  | 0x0A => [allFmts, listedFrom a, []]
  | 0x0B => [floats, floats, [11]]
  | 0x10 => [allFmts, listedFrom a, if (opdOf w 0).idx || (opdOf w 1).idx then [8, 10] else []]
  | 0x11 => [allFmts, if sub = 0 then listedFrom a else allFmts, []]
  | 0x12 => [allFmts, listedFrom a, []]
  | 0x18 => [keyFmts, [a], if fs.testBit 9 then [8] else []]
  | 0x19 => [keyFmts, [a], [8]]
  | 0x1A => [keyFmts, [a], [10]]
  | 0x1B => [plainFmts, [a], [10]]
  | 0x1C =>
    match sub with
    | 0 => [[0, 1, 2, 3, 4, 8, 9, 10], [], [10]]
    | 1 => [[0, 1, 2, 3, 4, 8, 9, 10], [hashType a], [8, 10]]
    | 2 => [[], [], [10]]
    | _ => [[], [10], [10]]
  | 0x1D => [floats, allFmts, [11]]
  | _ => [[], [], []]

/-- Operands whose BASE is an address at an endpoint or a contribution offset (R321, R326). -/
def isRemote (w : List Word) (j : Nat) : Bool :=
  (mopFamily w == 0x11 && j == 1) || (mopFamily w == 0x12 && j == 0)

/-- Whether an operand must be LOCAL (R326). -/
def mustLocal (w : List Word) : Bool :=
  !(mopFamily w == 0x01) && mopQueue w != 2

/-- Where BITMAP may stand, and must on COMPRESS's B (R397). -/
def bitmapOk (w : List Word) (j : Nat) (o : Opd) : Bool :=
  let f := mopFamily w
  if f == 0x1B && j == 1 then o.bitmap
  else if o.bitmap then
    plainFmts.contains o.fmt && j == 0 &&
      (f == 0x01 || (f == 0x10 && !(opdOf w 0).idx && !(opdOf w 1).idx))
  else true

/-- End of an operand's extent over all repetitions (R338). -/
def Opd.extent (o : Opd) (reps : Nat) : Nat :=
  let n := if o.hold || o.idx then o.rows else reps * o.rows
  if n = 0 ∨ reps = 0 then o.base
  else o.base + (n - 1) * o.pitch + (if o.bitmap then densestRow o.fmt o.cols else rowBytes o.fmt o.cols)

/-- The checks of R338 on one present operand; `limit` bounds LOCAL extents. -/
def opdOk (w : List Word) (limit j : Nat) (fmts : List Nat) : Bool :=
  let o := opdOf w j
  let shape := (o.fmt != 5 || o.cols % 2 == 0) && (!isBlock o.fmt || o.cols % 32 == 0)
  let pitch := if o.bitmap then densestRow o.fmt o.cols ≤ 16 * o.stride
    else o.stride == 0 || rowBytes o.fmt o.cols ≤ 16 * o.stride
  o.rsv == 0 && fmts.contains o.fmt && o.cols != 0 && shape && pitch && bitmapOk w j o &&
    (!o.idx || (mopFamily w == 0x10 && j < 2)) &&
    (if isRemote w j then !o.loc else (o.loc || !mustLocal w) && o.base % 16 == 0) &&
    (!o.loc || o.extent (mopRepeat w) ≤ limit)

/-- The shapes and limits of each family (R324 to R330, R346, R356, R402 to R406). -/
def familyOk (w : List Word) (minwidth : Nat) : Bool :=
  let a := opdOf w 0
  let b := opdOf w 1
  let c := opdOf w 2
  let fs := mopFspec w
  match mopFamily w with
  | 0x01 =>
    let trans := fs.testBit 0
    let k := if trans then a.cols else a.rows
    let n := if trans then a.rows else a.cols
    let m := match fieldOf fs 1 2 with | 0 => 1 | 3 => 8 | _ => 4
    1 ≤ k && k ≤ 256 && 1 ≤ n && n ≤ minwidth && a.cols % m == 0 && (!isBlock a.fmt || (trans && k % 32 == 0))
  | 0x02 =>
    fieldOf fs 0 2 != 3 && a.cols ≤ 256 && b.cols ≤ minwidth
  | 0x08 => a.rows == c.rows && a.cols == c.cols && (b.absent || (b.rows == a.rows && b.cols == a.cols))
  | 0x09 => if fs.testBit 0 then b.rows == a.rows && b.cols == 1 else b.rows == 1 && b.cols == a.cols
  | 0x0A => a.rows == b.rows && a.cols == b.cols
  | 0x0B => a.cols == b.cols
  | 0x10 =>
    if a.idx && b.idx then false
    else if a.idx then b.rows == c.rows && a.cols == b.cols && c.cols == 1
    else if b.idx then a.rows == c.rows && a.cols == b.cols && c.cols == 1
    else a.rows * a.cols == b.rows * b.cols
  | 0x12 => a.rows * a.cols == b.rows * b.cols
  | 0x18 =>
    1 ≤ a.rows && a.rows ≤ 2 ^ 20 && rowBytes a.fmt a.cols ≤ 256 && fs % 256 < a.cols && b.cols == a.cols &&
      b.rows == 2 * a.rows && (c.absent || (c.cols == 1 && c.rows == a.rows))
  | 0x19 =>
    let k := fs % 65536
    1 ≤ k && k ≤ 256 && k ≤ a.cols && b.rows == a.rows && b.cols == k && c.rows == a.rows && c.cols == k
  | 0x1A =>
    fs % 256 < a.cols && fieldOf fs 8 3 ≤ 5 && b.cols == a.cols && b.rows == a.rows && c.rows == 1 && c.cols == 2
  | 0x1B => b.rows == a.rows && b.cols == a.cols && c.rows == 1 && c.cols == 1
  | 0x1C =>
    let op := fs % 4 != 3
    let pool := fieldOf fs 2 4 ≤ 16
    match mopSub w with
    | 0 => op && pool && c.cols == 1 && c.rows == a.rows
    | 1 => op && b.cols == a.cols && c.cols == 1 && c.rows == a.rows
    | 2 => op && pool && c.rows == 1 && c.cols == 4
    | _ => b.cols == 2 && c.rows == 1 && c.cols == 4
  | 0x1D =>
    1 ≤ fs % 16 && fs % 16 ≤ 8 && fieldOf fs 4 2 != 3 && a.rows == b.rows
  | _ => true

/-- The checks of R338 on a word, with the image's MINWIDTH and the bound of LOCAL extents. -/
def mopOk (w : List Word) (minwidth limit : Nat) : Bool :=
  let f := mopFamily w
  let sub := mopSub w
  let roles := mopRoles w
  let timed := f == 0x22 && sub == 1
  let present := fun j => !(roles.getD j []).isEmpty
  subOk f sub && (isFlagMop w || mopField w 0 12 2 == 0) && mopField w 1 27 5 == 0 && mopRmode w != 3 &&
    mopFspec w &&& fspecMask f sub == mopFspec w &&
    ((List.range 4).all fun i =>
      let ctl := mopPar w i
      fieldOf ctl 6 2 == 0 && fieldOf ctl 3 3 ≤ 4 && (List.range 3).all fun j => !ctl.testBit j || present j) &&
    (if timed then (List.range 10).all fun i => mopField w (6 + i) 0 32 == 0
     else (List.range 3).all fun j => if present j then opdOk w limit j (roles.getD j []) else (opdOf w j).absent) &&
    familyOk w minwidth

/-- A slot's uses of its own flags, in node order (R283): set or wait, and the flag. -/
def flagUses (w : List Word) : List (Bool × Nat) :=
  (if mopFamily w = 0x20 then [(false, mopSpec w 0 8)] else []) ++
  (if mopFamily w = 0x21 ∧ mopSub w = 0 then [(true, mopSpec w 0 8)] else []) ++
  (if mopDfen w then [(true, mopDflag w)] else [])

/-- Bytes at equal distances: `n` pieces of `len` bytes, the first at `base`, each `pitch` after the one before. -/
structure Strip where
  base : Nat
  pitch : Nat
  n : Nat
  len : Nat
  deriving DecidableEq, Repr

/-- Whether a byte of `len` at `a` lies in a strip: the first piece that ends behind `a` decides. -/
def Strip.meets (x : Strip) (a len : Nat) : Bool :=
  let i := if x.base + x.len ≤ a then if x.pitch = 0 then x.n else (a - x.base - x.len) / x.pitch + 1 else 0
  decide (i < x.n ∧ x.base + i * x.pitch < a + len)

/-- Whether two strips share a byte. -/
def Strip.overlaps (x y : Strip) : Bool := (List.range x.n).any fun i => y.meets (x.base + i * x.pitch) x.len

/-- The bytes of operand `j` over all repetitions, on cluster `c` (R321, R323). -/
def opdStrip (c : Nat) (w : List Word) (j : Nat) : Strip :=
  let o := opdOf w j
  let n := if o.absent then 0 else if o.hold || o.idx then o.rows else mopRepeat w * o.rows
  ⟨o.rowAddr c 0 0, o.pitch, n, if o.bitmap then densestRow o.fmt o.cols else rowBytes o.fmt o.cols⟩

/-- Whether an operand that a macro-op writes shares a byte with one of those that it reads (R344). -/
def overlapping (c : Nat) (w : List Word) (out : Nat) (ins : List Nat) : Bool :=
  ins.any fun j => (opdStrip c w out).overlaps (opdStrip c w j)

/-- The repeatable class of a started copy on cluster `c` (R344). -/
def repeatable (c : Nat) (w : List Word) : Bool :=
  let b := opdOf w 1
  let own := b.loc || (scratchBase c ≤ b.base && b.base < scratchBase c + 0x800000)
  match mopFamily w with
  | 0x11 | 0x1C | 0x1D => false
  | 0x0B => !(mopFspec w).testBit 0 && own && !overlapping c w 1 [0, 2]
  | 0x02 => !overlapping c w 1 [0, 2]
  | 0x08 => mopSub w != 3 && !overlapping c w 2 [0, 1]
  | 0x09 | 0x0A => !overlapping c w 1 [0]
  | 0x1B => !overlapping c w 1 [0] && !overlapping c w 2 [0]
  | 0x10 => !overlapping c w 1 [0, 2]
  | 0x18 | 0x19 => !overlapping c w 1 [0] && !overlapping c w 2 [0]
  | 0x1A =>
    let control := opdStrip c w 2
    let threshold := { control with len := 4 }
    let count := { control with base := control.base + 4, len := 4 }
    !overlapping c w 1 [0] && !(opdStrip c w 1).overlaps threshold && !count.overlaps (opdStrip c w 0)
  | _ => true

end Sys2Proof.Machine
end

