-- ==== Sys2Proof/Machine/Respond.lean ====
section
/-! DEFINITION. How an access ends for the master that made it (R57, R105), the responses that the device sends (R104), and
accesses that wait for a cluster (R290, R496). -/

namespace Sys2Proof.Machine

/-- Endpoint ID of this device. -/
def selfId (s : State) : Nat := s.get F.FWD_SELF_ID

/-- Queues a response to `h` for job `job`: responses of one destination and class leave in order (R104, R115, R117). -/
def respond (bad : Bool) (h : Header) (job kind addr : Nat) (payload : List Byte) (s : State) : State :=
  let r := responseHeader h (selfId s) kind payload.length addr
  let xfer := h.src.toNat * 16 + h.cls.toNat
  if bad then injectBad responder xfer job r payload s else inject responder xfer job r payload s

/-- Status codes of R103. -/
def statusOk : Nat := 0
def statusDenied : Nat := 1
def statusMalformed : Nat := 2
def statusError : Nat := 3

/-- Answers a request with ACK (R103, R104). -/
def ackWith (status : Nat) (h : Header) (job : Nat) (s : State) : State :=
  respond false h job 0x04 h.addr.toNat (statusRecord status 0) s

/-- The outcome of a packet's access (R105). -/
def packetOutcome (x : HeldAccess) (h : Header) (r : AccRes) (s : State) : State :=
  match r with
  | .wait => s
  | .data bs =>
    if x.write then (if kindOf h = .putAck then ackWith statusOk h x.job s else s)
    else respond false h x.job 0x03 x.raddr bs s
  | .refused _ => if kindOf h = .put then s else ackWith statusDenied h x.job s
  | .bad =>
    if x.write then (if kindOf h = .putAck then ackWith statusError h x.job s else s)
    else ackWith statusError h x.job (respond true h x.job 0x03 x.raddr (List.replicate x.len 0) s)

/-- The prompter that a master is. -/
def prompterMaster (mid : Nat) : Option Nat := if 0x010 ≤ mid ∧ mid < 0x060 then some (mid - 0x010) else none

/-- An access of a master without a packet that is refused, or that meets an uncorrectable word (R57, R466): a prompter traps; the host
gets an error for a read and nothing for a write, and any other master an error. -/
def masterError (x : HeldAccess) (cause : Nat) (s : State) : State :=
  match prompterMaster x.mid with
  | some c => { s with posts := s.posts ++ [.trap c x.addr] }
  | none => if x.write ∧ x.mid = 0 then s else s.emit (.refusal x.mid cause x.write)

/-- The outcome of an access by the host or another master without a packet (R57). -/
def masterOutcome (x : HeldAccess) (r : AccRes) (s : State) : State :=
  match r with
  | .wait => s
  | .data bs => if x.write then s else s.emit (.readData x.mid bs)
  | .refused c => masterError x c s
  | .bad => masterError x 0 s

/-- Whether a packet's write has to wait for an earlier one: ORD writes of one source and class are applied in order (R117). -/
def ordWaits (x : HeldAccess) (s : State) : Bool :=
  match x.reply with
  | none => false
  | some h => x.write && h.ord && s.held.any fun y =>
      y.write && (y.reply.map fun g => g.ord && g.src == h.src && g.cls == h.cls).getD false

/-- Carries out an access and reports its outcome; one that must wait joins the waiting accesses. `rd` and `wr` are the
register accesses. -/
def settleAccess (rd : Nat → Nat → Nat → State → List Byte × State) (wr : Nat → Nat → List Byte → State → State)
    (x : HeldAccess) (s : State) : State :=
  let parts := accParts s x.addr x.len false
  if ordWaits x s then { s with held := s.held ++ [x] }
  else
    let (r, s') := if x.write then writeParts wr x.mid 0 parts x.data s else readParts rd x.mid 0 parts s
    if r = .wait then { s with held := s.held ++ [x] }
    else match x.reply with
      | some h => packetOutcome x h r s'
      | none => masterOutcome x r s'

/-- A write of a unit of the device at a register place is on its way to the register's block. -/
def postPut (mid off : Nat) (bs : List Byte) (s : State) : State := { s with posts := s.posts ++ [.put mid off bs] }

/-- Waiting accesses are tried again in order of arrival. Only a write that waits for another's order may name a register. -/
def retryHeld (s : State) : State :=
  s.held.foldl (fun t x => settleAccess (fun _ _ n t => (List.replicate n 0, t)) postPut x t) { s with held := [] }

end Sys2Proof.Machine
end

