-- ==== Sys2Proof/Machine/Clusters.lean ====
section
/-! DEFINITION. The lifecycle of a cluster (R277 to R291): loading and rehearsal of a program, start, end, halt, resume and
stop, sleep and wake, clearing, and the entry of a failed cluster to FENCED or MISSING (R495 to R497). -/

namespace Sys2Proof.Machine

/-! Completions of START and STOP (R478, R479). -/

/-- Macro-ops of a queue that have completed since START. -/
def IssueQ.completed (q : IssueQ) : Nat := q.retired + q.early.length

/-- RESULT words of a START completion. -/
def startResult (k : Clu) : List Nat :=
  [k.startedNs % 2 ^ 32, k.startedNs / 2 ^ 32, k.mopcnt, k.queues.foldl (fun n q => n + q.completed) 0]

/-- Completes the outstanding START of a cluster (R479). -/
def completeStart (c status reason : Nat) (s : State) : State :=
  match (s.clu c).startCmd with
  | none => s
  | some cmd => complete cmd status reason 0 (startResult (s.clu c)) (s.setClu c { s.clu c with startCmd := none, startAt := none })

/-- Completes the STOP descriptors that wait on a cluster. -/
def completeStops (c : Nat) (s : State) : State :=
  let k := s.clu c
  k.stops.foldl (fun t d => complete d.1 csOk 0 0 [] t) (s.setClu c { k with stops := [] })

/-! Halt and resume. -/

/-- A RUNNING cluster halts with a cause (R280): recorded, reported, and START completes. -/
def haltCluster (cause c : Nat) (s : State) : State :=
  if cluState s c ≠ stRunning then s
  else
    let s := (enterCluster stHalted c s).set F.CLU_STATUS_HALTCAUSE cause c
    let s := s.event 0x08 1 (cluJob s c) c [cause, (s.clu c).pc]
    completeStart c csHalted cause s

/-- HALT of a RUNNING, DOZE or RETAIN cluster (R280, R290). -/
def haltStop (c : Nat) (s : State) : State := haltCluster 1 c (wakeCluster c s)

def execHalt (c : ClusterId) (s : State) : Res := ok (haltStop c s)

/-- A wait that begins a full timeout afresh (R427). -/
def PWait.restart (now : Nat) : PWait → PWait
  | .flag f cl us _ => .flag f cl us now
  | .ticket q seq us _ => .ticket q seq us now
  | .time t => .time t

/-- Every pending wait begins a full timeout afresh at fabric time `fab`, that for a response at tick `now` (R427, R502). -/
def Clu.restartWaits (now fab : Nat) (k : Clu) : Clu :=
  { k with
    wait := k.wait.map (PWait.restart fab)
    xfers := k.xfers.map fun x => { x with reqs := x.reqs.map fun r => { r with sentAt := now } }
    queues := k.queues.map fun q => { q with mops := q.mops.map fun m =>
      match m.phase with
      | .waiting _ => { m with phase := .waiting fab }
      | _ => m } }

/-- The debug block as it stands in data memory, empty where it is not accepted (R316). -/
def debugBlock (c : Nat) (s : State) : List Word :=
  let b := privRead s c (dmemOff + 0x3FFF0) 16
  let w := (List.range 4).map fun i => BitVec.ofNat 32 (ofBytes ((b.drop (4 * i)).take 4))
  if fieldOf (w.getD 0 0).toNat 16 16 = 0xD3B6 then w else []

/-- RESUME (R282, R316): only after STOP or DEBUG. -/
def resumeCluster (mid c : Nat) (s : State) : State :=
  let cause := s.get F.CLU_STATUS_HALTCAUSE c
  if cluState s c = stHalted ∧ (cause = 1 ∨ cause = 5) then
    let s := enterCluster stRunning c s
    settleWaits c (s.setClu c { (s.clu c).restartWaits s.ticks s.fabTime with dbg := debugBlock c s })
  else s.reject mid (R.CLU_CTL.addr c 0)

def execResume (m : MasterId) (c : ClusterId) (s : State) : Res := ok (resumeCluster m.toNat c s)

/-! Transfers of a stevedore. -/

/-- Master ID of a cluster's stevedore, and of its prompter (R43). -/
def stevedoreId (c : Nat) : Nat := 0x060 + c
def prompterId (c : Nat) : Nat := 0x010 + c

/-- The macro-op that a transfer serves. -/
def Clu.mopOf (k : Clu) (q seq : Nat) : Option Mop := (k.queues.getD q IssueQ.empty).mops.find? fun m => m.seq == seq

/-- Changes a macro-op of a queue. -/
def Clu.mapMop (k : Clu) (q seq : Nat) (f : Mop → Mop) : Clu :=
  let iq := k.queues.getD q IssueQ.empty
  { k with queues := k.queues.set q { iq with mops := iq.mops.map fun m => if m.seq = seq then f m else m } }

/-- A macro-op's first error stands (R341). -/
def Mop.fail (status : Nat) (m : Mop) : Mop := if m.status = 0 then { m with status := status } else m

/-- A transfer ends with an error (R332): its macro-op takes the status, and packets that have not started are not sent. -/
def xferFail (c status : Nat) (x : Xfer) (s : State) : State :=
  let mid := stevedoreId c
  let held := (lookup s.net.injq mid).getD []
  let k := s.clu c
  let mine := fun (id : Nat) => k.xfers.any fun (y : Xfer) => y.id == id && y.q == x.q && y.seq == x.seq
  let unsent := held.filter fun p => mine p.xfer
  let k := { k with xfers := k.xfers.map fun (y : Xfer) =>
    if y.q = x.q ∧ y.seq = x.seq then
      { y with reqs := y.reqs.filter fun r => !unsent.any fun p => p.xfer == y.id && p.hdr.seq.toNat == r.seq }
    else y }
  { s.setClu c (k.mapMop x.q x.seq (Mop.fail status)) with
    net.injq := put s.net.injq mid (held.filter fun p => !mine p.xfer) [] }

/-- The request `seq` of transfer `id` is no longer awaited. -/
def reqDone (c id seq : Nat) (s : State) : State :=
  let k := s.clu c
  s.setClu c { k with xfers := k.xfers.map fun x => if x.id = id then { x with reqs := x.reqs.filter fun r => r.seq != seq } else x }

/-! Clearing (R290). -/

/-- Packets of a stevedore that its injector has not started are discarded, and their requests with them. -/
def dropUnsent (c : Nat) (s : State) : State :=
  let mid := 0x060 + c
  let left := (lookup s.net.injq mid).getD []
  let unsent := fun (x : Xfer) (r : RemoteReq) => left.any fun p => p.xfer == x.id && p.hdr.seq.toNat == r.seq
  let k := s.clu c
  let k := { k with xfers := k.xfers.map fun x => { x with reqs := x.reqs.filter fun r => !unsent x r } }
  { s.setClu c k with net.injq := erase s.net.injq mid }

/-- What a queue keeps when clearing begins: the macro-ops that run (R290 step 1). -/
def IssueQ.runningOnly (q : IssueQ) : IssueQ :=
  { q with
    mops := q.mops.filter fun m => match m.phase with | .running _ => true | _ => false
    startPending := false }

/-- Clearing begins: nothing further starts, and what has not been issued is discarded; what runs goes on. -/
def beginClearing (c : Nat) (toOff : Bool) (reload : Option LoadSt) (s : State) : State :=
  let s := dropUnsent c s
  let k := s.clu c
  let s := s.setClu c { k with
    queues := k.queues.map IssueQ.runningOnly, wait := none, loads := [], ended := false, startAt := none, diag := none, recov := none
    toOff := toOff, reload := reload, load := none }
  enterCluster stClearing c s

/-- The buffers of pool `k` that a unit holds: those on its list (R148), and those that another unit has passed to it. -/
def buffersOf (k owner : Nat) (s : State) : List Nat :=
  let p := s.pool k
  let listed := (p.granted.filter fun g => g.1 == owner).map Prod.snd
  listed ++ (p.words.filter fun w => w.2.alloc && w.2.owner == owner && !listed.contains w.1).map Prod.fst

/-- Every pool buffer that an owner holds is released under its code, and its waiting requests end (R140). -/
def releaseOwner (owner : Nat) (s : State) : State :=
  iterate 17 (fun k s =>
    let s := releaseAll k owner (buffersOf k owner s) s
    let p := s.pool k
    if p.waiting.any (fun w => w.owner == owner) ∨ p.granted.any (fun g => g.1 == owner) then
      s.setPool k { p with
        waiting := p.waiting.filter (fun w => w.owner != owner), granted := p.granted.filter (fun g => g.1 != owner) }
    else s) s

/-- The sheet of a cue engine is filled with END and the engine is stopped at its start (R197, R584). -/
def cueClear (e : Nat) (s : State) : State :=
  let s := iterate 256 (fun i s => (((s.wr R.CUE_ENT_TIME_LO e i 0).wr R.CUE_ENT_TIME_HI e i 0).wr R.CUE_ENT_ACT e i 0).wr R.CUE_ENT_ARG e i 0) s
  let s := (((s.set F.CUE_CTL_EN 0 e).set F.CUE_STATUS_NEXT 0 e).set F.CUE_STATUS_REP 0 e).set F.CUE_STATUS_DONE 0 e
  { s with tm.cues := erase s.tm.cues e }

/-- Begins a load: the cluster takes the job tag and reads the image (R284). -/
def beginLoad (c : Nat) (l : LoadSt) (s : State) : State :=
  let s := (enterCluster 2 c s).set F.CLU_STATUS_JOB l.job c
  s.setClu c { s.clu c with load := some l, since := s.ticks }

/-- A flag set or push that waited for clearing (R436). -/
def lateApply (c : Nat) (s : State) : LateOp → State
  | .flag f => setFlag c f s
  | .push m v => mailPush c m v s

/-- Storage of a slot's units beside its memories: mailboxes, issue queues and registers, the hash accumulator, panels (R489). -/
def unitSpot (slot : Nat) : Spot → Bool
  | .item k _ _ | .queues k | .hash k _ | .panel k _ => k == slot
  | _ => false

/-- Steps 3 to 5 of R290: buffers released, memories and units zeroed, registers cleared; accesses and flag sets that
waited are applied to the cleared cluster. -/
def finishClearing (c : Nat) (s : State) : State :=
  let k := s.clu c
  let slot := slotOf s c
  let s := releaseOwner (0x060 + c) (releaseOwner (0x010 + c) s)
  let s := keyClear (privateKey slot) 0x100000 (keyClear (scratchKey slot) 0x800000 (s.heal (unitSpot slot)))
  let s := cueClear c s
  let s := s.setClu c { Clu.initial with stops := k.stops, started := k.started, nextXfer := k.nextXfer, startedNs := k.startedNs, since := s.ticks }
  let s := ((s.set F.CLU_STATUS_JOB 0 c).zero R.CLU_PROG_LO c).zero R.CLU_PROG_HI c
  let s := (s.zero R.CLU_PROG_CRC c).set F.CLU_STATUS_HALTCAUSE 0 c
  let s := enterCluster (if k.toOff then 0 else 1) c s
  let s := completeStops c s
  let s := if k.toOff then s else k.late.foldl (lateApply c) s
  let s := retryHeld s
  match k.reload with
  | some l => beginLoad c l s
  | none => s

/-- Whether every macro-op has completed and every issued segment with it (R290 steps 1 and 2). -/
def Clu.quiet (k : Clu) : Bool := k.queues.all (fun q => q.mops.isEmpty) && k.xfers.all fun x => x.reqs.isEmpty

/-- Clearing has zeroed the cluster (R290): once nothing in it runs. -/
def execClearingDone (c : ClusterId) (s : State) : Res :=
  if cluState s c = stClearing ∧ (s.clu c).quiet then ok (finishClearing c s) else ok s

/-! LOAD_PROGRAM (R284). -/

/-- LOAD_PROGRAM of an accepted descriptor: from OFF after power-up, from EMPTY at once, from LOADED and HALTED through
CLEARING; STATE otherwise (R277). -/
def loadProgram (cmd : CmdRef) (d : Desc) (s : State) : State :=
  let c := d.word 1 % 128
  if 80 ≤ c then complete cmd csBadDesc 0 1 [] s
  else
    let l : LoadSt := ⟨d.pair 2 % 2 ^ 48, fieldOf (d.word 1) 8 8, (d.word 1).testBit 16, [], cmd⟩
    let st := cluState s c
    if st = 1 then beginLoad c l s
    else if st = 0 ∧ (s.clu c).load = none then s.setClu c { s.clu c with load := some l, since := s.ticks }
    else if st = 4 ∨ st = stHalted then beginClearing c false (some l) (completeStart c csState 0 s)
    else complete cmd csState 0 0 [] s

def execLoadProgram (r : RingId) (i : BitVec 8) (s : State) : Res :=
  let cmd := nthDesc s r i
  ok (startDesc 0x01 cmd (loadProgram cmd) s)

/-- 2 µs after an accepted LOAD_PROGRAM the domain of an OFF cluster is on (R277). -/
def execClusterPowerUpDone (c : ClusterId) (s : State) : Res :=
  match (s.clu c).load with
  | some l => if cluState s c = 0 ∧ s.passedUs (s.clu c).since 2 then ok (beginLoad c l (enterCluster 1 c s)) else ok s
  | none => ok s

/-! The image (R283). -/

/-- Word `i` of an image. -/
def imgWord (img : List Byte) (i : Nat) : Nat := ofBytes ((img.drop (4 * i)).take 4)

def up64 (n : Nat) : Nat := ceilDiv n 64 * 64

/-- Start of each section: roles, contexts, instructions, data, macro-ops, nodes, edges, and the end. -/
structure Layout where
  ctxs : Nat
  instr : Nat
  data : Nat
  mops : Nat
  nodes : Nat
  edges : Nat
  fin : Nat
  deriving DecidableEq, Repr

/-- Header lengths of an image. -/
def imgNctx (img : List Byte) : Nat := fieldOf (imgWord img 8) 0 7
def imgNodes (img : List Byte) : Nat := fieldOf (imgWord img 8) 16 13
def imgEdges (img : List Byte) : Nat := fieldOf (imgWord img 9) 0 14
def imgMops (img : List Byte) : Nat := fieldOf (imgWord img 4) 0 12

def imgLayout (img : List Byte) : Layout :=
  let instr := up64 (320 + 4 * imgNctx img)
  let data := up64 (instr + imgWord img 2)
  let mops := up64 (data + imgWord img 3)
  let nodes := up64 (mops + 64 * imgMops img)
  let edges := up64 (nodes + 8 * imgNodes img)
  ⟨320, instr, data, mops, nodes, edges, up64 (edges + 4 * imgEdges img)⟩

/-- Bytes that a load reads: TOTAL where it matches the header lengths, else the header alone, which FORMAT refuses. -/
def imageLength (header : List Byte) : Nat :=
  if imgWord header 10 = (imgLayout header).fin then imgWord header 10 else 64

/-- Context `i` of the image's list. -/
def imgCtx (img : List Byte) (i : Nat) : Nat := ofBytes ((img.drop (320 + 4 * i)).take 4)

/-- Macro-op word of slot `k`, as 16 words. -/
def imgMop (img : List Byte) (k : Nat) : List Word :=
  let b := (imgLayout img).mops + 64 * k
  (List.range 16).map fun i => BitVec.ofNat 32 (ofBytes ((img.drop (b + 4 * i)).take 4))

/-- Role of a flag. -/
def imgRole (img : List Byte) (f : Nat) : Nat := (img.getD (64 + f) 0).toNat

/-- Wait-graph node and edge words. -/
def imgNode (img : List Byte) (n : Nat) : Nat := ofBytes ((img.drop ((imgLayout img).nodes + 8 * n)).take 8)
def imgEdge (img : List Byte) (e : Nat) : Nat := ofBytes ((img.drop ((imgLayout img).edges + 4 * e)).take 4)

/-! Rehearsal (R286, R287). -/

/-- Reserved bits of each header word. -/
def headerReserved : List Nat :=
  [0, 0xFFFF0000, 0, 0, 0xFFFFF000, 0, 0xFFFFFF80, 0xFFFF0000, 0xE000FF80, 0xFFFFC000, 0, 0xFFFFFFFF, 0xFFFFFFFF,
    0xFFFFFFFF, 0xFFFFFFFF, 0]

/-- CRC-32C of an image with its CRC word taken as 0 (R283). -/
def imageCrc (img : List Byte) : Nat := crc32c (img.take 60 ++ [0, 0, 0, 0] ++ img.drop 64)

/-- The first word that fails FORMAT. -/
def formatFault (img : List Byte) : Option Nat :=
  if imgWord img 0 ≠ 0x4750564F then some 0
  else if imgWord img 1 % 65536 ≠ 1 then some 1
  else if imgWord img 10 ≠ (imgLayout img).fin ∨ img.length ≠ imgWord img 10 then some 10
  else if imageCrc img ≠ imgWord img 15 then some 15
  else
    let hdr := (List.range 16).find? fun i => imgWord img i &&& headerReserved.getD i 0 != 0
    let sizes := if 64 < imgNctx img ∨ 4096 < imgNodes img then some 8 else if 8192 < imgEdges img then some 9 else none
    let roles := ((List.range 256).find? fun f => 3 < imgRole img f).map fun f => 16 + f / 4
    let ctxs := ((List.range (imgNctx img)).find? fun i => 4096 ≤ imgCtx img i).map fun i => 80 + i
    hdr <|> sizes <|> roles <|> ctxs

/-- The entry of cluster `c` in a context's group (R212), as four words, if it has one. -/
def cluEntry (s : State) (ctx c : Nat) : Option (List Word) :=
  match lookup s.colls ctx with
  | none => none
  | some g => g.entries.find? fun e =>
      fieldOf (e.getD 0 0).toNat 20 2 == 1 && fieldOf (e.getD 0 0).toNat 0 7 == c

/-- State of a context (R221). -/
def collState (s : State) (ctx : Nat) : Nat := s.get F.COLL_STATE_STATE ctx

/-- Element format of a group's TYPE (R211, R320). -/
def typeFmt (t : Nat) : Nat := if t < 5 then t else t + 3

/-- Whether an OPER reduces with ROP (R215, R248). -/
def usesRop (oper : Nat) : Bool := oper ≤ 2 || oper == 6

/-- E, the element size of a group (R247, R248). -/
def elemBytes (oper type rop : Nat) : Nat :=
  if usesRop oper && (rop == 3 || rop == 4) then 8 else elemBits (typeFmt type) / 8

/-- A SEND SUB 1 slot's context. -/
def slotContext (w : List Word) : Option Nat :=
  if mopFamily w = 0x11 ∧ mopSub w = 1 then some (mopFspec w % 4096) else none

/-- MOPWORD of a slot at rehearsal (R338); a SEND SUB 1 is held against its group's element size where it has one. -/
def slotOk (s : State) (img : List Byte) (w : List Word) : Bool :=
  mopOk w (imgWord img 6 % 128) (imgWord img 5) &&
    match slotContext w with
    | some ctx =>
      match lookup s.colls ctx with
      | some g =>
        let w0 := (g.header.getD 0 0).toNat
        collState s ctx < 2 || collState s ctx == 6 || (pairListed (opdOf w 0).fmt (typeFmt (fieldOf w0 20 4)) &&
          (opdOf w 1).base % elemBytes (fieldOf w0 12 4) (fieldOf w0 20 4) (fieldOf w0 16 4) == 0)
      | none => true
    | none => true

/-- CONTEXT: the first context that fails. -/
def contextFault (s : State) (c job : Nat) (img : List Byte) : Option Nat :=
  let listed := (List.range (imgNctx img)).map (imgCtx img)
  let bad := fun ctx => collState s ctx == 0 || s.get F.COLL_STATE_JOB ctx != job || (cluEntry s ctx c).isNone
  listed.find? bad <|>
    ((List.range (imgMops img)).findSome? fun k =>
      match slotContext (imgMop img k) with
      | some ctx => if listed.contains ctx then none else some ctx
      | none => none)

/-- FLAGS: the first flag that fails; a release flag or member flag must have role 3. -/
def flagsFault (s : State) (c : Nat) (img : List Byte) : Option Nat :=
  let uses := (List.range (imgMops img)).flatMap fun k => (flagUses (imgMop img k)).map Prod.snd
  let lines := (List.range 32).filterMap fun l =>
    if (s.rd R.CURT_MEM l (c / 32)).testBit (c % 32) then some (s.get F.CURT_CFG_FLAG l) else none
  let ctxs := (List.range (imgNctx img)).filterMap fun i =>
    (cluEntry s (imgCtx img i) c).map fun e => fieldOf (e.getD 1 0).toNat 16 8
  uses.find? (fun f => imgRole img f == 0) <|> (lines ++ ctxs).find? (fun f => imgRole img f != 3)

/-- Fields of a node: slot, queue, whether it sets, flag. -/
def nodeSlot (n : Nat) : Nat := fieldOf n 0 11
def nodeQueue (n : Nat) : Nat := fieldOf n 11 2
def nodeSets (n : Nat) : Bool := n.testBit 13
def nodeFlag (n : Nat) : Nat := fieldOf n 14 8

/-- Kahn's method by rounds: nodes without an edge from a remaining node are taken until none is left to take. -/
def kahn (edges : List (Nat × Nat)) : Nat → List Nat → List Nat
  | 0, left => left
  | fuel + 1, left =>
    let stay := left.filter fun n => edges.any fun e => e.2 == n && left.contains e.1
    if stay.length = left.length then left else kahn edges fuel stay

/-- The wait-graph check (R287): the first node that fails. -/
def graphFault (img : List Byte) : Option Nat :=
  let nodes := (List.range (imgNodes img)).map (imgNode img)
  let indexed := (List.range nodes.length).zip nodes
  let mops := imgMops img
  let slotBad := (List.range mops).findSome? fun k =>
    let w := imgMop img k
    let mine := indexed.filter fun e => nodeSlot e.2 == k
    let first := (mine.map Prod.fst).headD 0
    let shape := mine.map fun e => (nodeSets e.2, nodeFlag e.2)
    let together := mine.map Prod.fst == (List.range mine.length).map (· + first)
    if shape = flagUses w ∧ together ∧ mine.all (fun e => nodeQueue e.2 == mopQueue w) then none else some first
  let stray := (indexed.find? fun e => mops ≤ nodeSlot e.2 || e.2 / 2 ^ 22 != 0).map Prod.fst
  let decl := (List.range (imgEdges img)).map fun e => (fieldOf (imgEdge img e) 0 12, fieldOf (imgEdge img e) 12 12, imgEdge img e / 2 ^ 24)
  let edgeBad := decl.findSome? fun e =>
    let a := nodes.getD e.1 0
    let b := nodes.getD e.2.1 0
    if e.1 < nodes.length ∧ e.2.1 < nodes.length ∧ e.2.2 = 0 ∧ nodeSets a ∧ nodeSets b = false ∧ nodeFlag a = nodeFlag b
    then none else some e.2.1
  let unset := (indexed.find? fun e => !nodeSets e.2 && imgRole img (nodeFlag e.2) != 3 &&
    decl.all fun d => d.2.1 != e.1).map Prod.fst
  let order := (List.range 4).flatMap fun q =>
    let mine := (indexed.filter fun e => nodeQueue e.2 == q).map Prod.fst
    mine.zip mine.tail
  let edges := decl.map (fun d => (d.1, d.2.1)) ++ order
  let cycle := (kahn edges nodes.length (List.range nodes.length)).head?
  slotBad <|> stray <|> edgeBad <|> unset <|> cycle

/-- Rehearsal: the first failing check's code and DETAIL (R286). -/
def rehearse (s : State) (c job : Nat) (img : List Byte) : Option (Nat × Nat) :=
  let imem := imgWord img 2
  let entry := imgWord img 7 % 65536
  let minw := imgWord img 6 % 128
  match formatFault img with
  | some w => some (1, w)
  | none =>
    if 65536 < imem ∨ imem % 4 ≠ 0 ∨ entry % 4 ≠ 0 ∨ imem ≤ entry then some (2, 0)
    else if 262144 < imgWord img 3 then some (3, 0)
    else if 2048 < imgMops img then some (4, 0)
    else match (List.range (imgMops img)).find? fun k => !slotOk s img (imgMop img k) with
      | some k => some (5, k)
      | none =>
        if 8192 * 1024 < imgWord img 5 then some (6, 0)
        else if 64 < minw ∨ arrayWidth s c < minw then some (7, arrayWidth s c)
        else match contextFault s c job img with
          | some x => some (8, x)
          | none =>
            match flagsFault s c img with
            | some f => some (9, f)
            | none => (graphFault img).map fun n => (10, n)

/-- A load ends without a program: the cluster returns to EMPTY. -/
def endLoad (c : Nat) (l : LoadSt) (status detail : Nat) (s : State) : State :=
  let s := (enterCluster 1 c s).set F.CLU_STATUS_JOB 0 c
  complete l.cmd status 0 detail [] (s.setClu c { s.clu c with load := none })

/-- A section of the image fills the start of a memory of `size` bytes, and zeros the rest (R283). -/
def placeSection (c off size at_ n : Nat) (img : List Byte) (s : State) : State :=
  let bs := (img.drop at_).take (min n size)
  privWrite c off bs (keyClear (privateKey (slotOf s c) + off) size s)

def placeInstr (c : Nat) (img : List Byte) (s : State) : State := placeSection c imemOff 65536 (imgLayout img).instr (imgWord img 2) img s

def placeData (c : Nat) (img : List Byte) (s : State) : State := placeSection c dmemOff 262144 (imgLayout img).data (imgWord img 3) img s

def placeMops (c : Nat) (img : List Byte) (s : State) : State := placeSection c mopOff 131072 (imgLayout img).mops (64 * imgMops img) img s

/-- The image has been read and written into the cluster's memories (R284, R285). -/
def imageLoaded (c : Nat) (s : State) : State :=
  match (s.clu c).load with
  | none => s
  | some l =>
    if cluState s c ≠ 2 then s
    else match memRead 0 l.addr 64 0 s with
      | (.refused cause, s) => endLoad c l csAccess cause s
      | (.bad, s) => endLoad c l csError 0 s
      | (.wait, _) => s
      | (.data hdr, s1) =>
        match memRead 0 l.addr (imageLength hdr) 0 s1 with
        | (.refused cause, s) => endLoad c l csAccess cause s
        | (.bad, s) => endLoad c l csError 0 s
        | (.wait, _) => s
        | (.data img, s) =>
          let s := placeMops c img (placeData c img (placeInstr c img s))
          let s := ((s.wr R.CLU_PROG_LO c 0 l.addr).wr R.CLU_PROG_HI c 0 (l.addr / 2 ^ 32)).wr R.CLU_PROG_CRC c 0 (imgWord img 15)
          enterCluster 3 c (s.setClu c { s.clu c with load := some { l with image := img } })

def execImageLoaded (c : ClusterId) (s : State) : Res := ok (imageLoaded c s)

/-- Rehearsal ends (R286, R288). -/
def rehearsalDone (c : Nat) (s : State) : State :=
  match (s.clu c).load with
  | none => s
  | some l =>
    if cluState s c ≠ 3 then s
    else
      let img := l.image
      match rehearse s c l.job img with
      | some (code, detail) =>
        let s := ((s.set F.CLU_REH_REASON code c).set F.CLU_REH_DETAIL detail c).bump F.CLU_CNT_REHFAIL_COUNT 1 c
        beginClearing c false none (complete l.cmd csRefused code detail [] s)
      | none =>
        let p : Prog := ⟨l.addr, imgWord img 15, imgWord img 7 % 65536, imgMops img, imgWord img 6 % 128, imgWord img 10,
          l.retain, (List.range (imgNctx img)).map (imgCtx img)⟩
        let s := s.zero R.CLU_REH c
        let s := s.setClu c { s.clu c with load := none, prog := some p }
        complete l.cmd csOk 0 0 [imgWord img 15, imgWord img 10] (enterCluster 4 c s)

def execRehearsalDone (c : ClusterId) (s : State) : Res := ok (rehearsalDone c s)

/-! START and STOP (R289, R290). -/

/-- START arms a LOADED cluster (R289); one that is armed already, or in another state, gives STATE. -/
def startProgram (cmd : CmdRef) (d : Desc) (s : State) : State :=
  let c := d.word 1 % 128
  if 80 ≤ c then complete cmd csBadDesc 0 1 [] s
  else if cluState s c = 4 ∧ (s.clu c).startCmd = none then
    s.setClu c { s.clu c with startAt := some (d.pair 2), startCmd := some cmd }
  else complete cmd csState 0 0 [] s

def execStart (r : RingId) (i : BitVec 8) (s : State) : Res :=
  let cmd := nthDesc s r i
  ok (startDesc 0x02 cmd (startProgram cmd) s)

/-- The prompter at START: registers 0, CSRs at reset, sequence numbers from 0 (R289, R309, R313), and the debug block
read (R316). -/
def Clu.begin (k : Clu) (entry ns : Nat) (dbg : List Word) : Clu :=
  { k with
    regs := List.replicate 32 0, pc := entry, loop0 := LoopSt.off, loop1 := LoopSt.off, lcwarn := false, dbg := dbg
    mopcnt := 0, cycles := 0, cycHi := 0, wait := none, loads := [], stores := [], ended := false, startAt := none, startedNs := ns
    queues := k.queues.map fun q => { q with seq := 0, retired := 0, early := [] } }

/-- Fabric time has reached T (R289, R175). -/
def startReached (c : Nat) (s : State) : State :=
  let k := s.clu c
  match k.startAt, k.prog with
  | some t, some p =>
    if cluState s c = 4 ∧ t ≤ s.nowNs then
      enterCluster stRunning c (s.setClu c (k.begin p.entry s.nowNs (debugBlock c s)))
    else s
  | _, _ => s

def execStartTimeReached (c : ClusterId) (s : State) : Res := ok (startReached c s)

/-- STOP that applies to a cluster now (R290, R503). -/
def stopNow (cmd : CmdRef) (c : Nat) (clear off : Bool) (s : State) : State :=
  let s := wakeCluster c s
  let st := cluState s c
  if st = stRunning then
    if clear || off then
      let s := completeStart c csState 0 s
      beginClearing c off none (s.setClu c { s.clu c with stops := (s.clu c).stops ++ [(cmd, clear, off)] })
    else complete cmd csOk 0 0 [] (haltCluster 1 c s)
  else if st = stHalted ∧ (clear || off) then
    beginClearing c off none (s.setClu c { s.clu c with stops := (s.clu c).stops ++ [(cmd, clear, off)] })
  else complete cmd csState 0 0 [] s

/-- STOP (R277, R290): one that meets a FENCED cluster waits (R503). -/
def stopProgram (cmd : CmdRef) (d : Desc) (s : State) : State :=
  let c := d.word 1 % 128
  if 80 ≤ c then complete cmd csBadDesc 0 1 [] s
  else if cluState s c = stFenced then
    s.setClu c { s.clu c with stops := (s.clu c).stops ++ [(cmd, (d.word 1).testBit 8, (d.word 1).testBit 9)] }
  else stopNow cmd c ((d.word 1).testBit 8) ((d.word 1).testBit 9) s

def execStop (r : RingId) (i : BitVec 8) (s : State) : Res :=
  let cmd := nthDesc s r i
  ok (startDesc 0x03 cmd (stopProgram cmd) s)

/-! End, sleep and wake. -/

/-- Whether every queue and the stevedore are empty (R312). -/
def Clu.drained (k : Clu) : Bool := k.queues.all (fun q => q.mops.isEmpty) && k.xfers.isEmpty

/-- END has retired and all is drained: LOADED, and START completes OK (R289, R312). -/
def execProgramEnd (c : ClusterId) (s : State) : Res :=
  if cluState s c = stRunning ∧ (s.clu c).ended ∧ (s.clu c).drained then
    ok (completeStart c csOk 0 (enterCluster 4 c (s.setClu c { s.clu c with ended := false })))
  else ok s

/-- The conditions of R278: the prompter waits on a flag or a time, the queues are empty or headed by waiting WAITFs, and no
transfer is outstanding. -/
def Clu.idle (k : Clu) : Bool :=
  (match k.wait with | some (.flag ..) | some (.time _) => true | _ => false) && k.xfers.isEmpty && k.queues.all fun q =>
    match q.mops with
    | [] => true
    | m :: _ => m.waitsOn.isSome

/-- RETDLY µs in DOZE (R278). -/
def execRetainEntry (c : ClusterId) (s : State) : Res :=
  if cluState s c = stDoze ∧ s.get F.CLU_SLEEP_NORET c = 0 ∧ s.passedUs (s.clu c).since (s.get F.CLU_SLEEP_RETDLY c) then
    ok ((enterCluster stRetain c s).bump F.CLU_CNT_RETAIN_COUNT 1 c)
  else ok s

/-- A wake event (R279). -/
def execClusterWake (c : ClusterId) (s : State) : Res := ok (wakeCluster c s)

/-- A write of 1 to CLU_CNT_CLR (R291). -/
def cluCntClr (c : Nat) (s : State) : State :=
  s.zeroAll [R.CLU_CNT_MOPS, R.CLU_CNT_WAKE, R.CLU_CNT_RETAIN, R.CLU_CNT_REHFAIL] c

def execCluCntClr (c : ClusterId) (s : State) : Res := ok (cluCntClr c s)

/-! Failure (R495 to R497). -/

/-- Failure causes (R495). -/
def failChecksum : Nat := 1
def failProgress : Nat := 2
def failPrivate : Nat := 3
def failHost : Nat := 4

/-- Spares left in the device (R504). -/
def sparesLeft (s : State) : Nat := ((List.range 20).filter fun d => (understudy s d).isSome).length

/-- Reports a cluster missing (R497): the record, LOST for its START, STATE for waiting STOPs, and refusals for the accesses that
wait on it. -/
def missCluster (c cause reason : Nat) (s : State) : State :=
  let job := cluJob s c
  let old := ((s.clu c).switch.map SwitchSt.oldSlot).getD (s.get F.CLU_STATUS_SLOT c)
  let s := match (s.clu c).switch with
    | some w => s.set F.PWR_DOM_STATE 0 0 (5 * dieOf c + w.newSlot)
    | none => s
  let s := scaleChanged (enterCluster stMissing c s)
  let s := s.bump F.ERR_CNT_MISSING_COUNT
  let s := ((((s.set F.ERR_LASTUNIT_CLUSTER c).set F.ERR_LASTUNIT_OLDSLOT old).set F.ERR_LASTUNIT_NEWSLOT 7).set F.ERR_LASTUNIT_CAUSE cause).set F.ERR_LASTUNIT_REASON reason
  let s := s.setClu c { s.clu c with switch := none }
  let s := s.event 0x0B 2 job c [s.rd R.ERR_LASTUNIT 0 0, sparesLeft s]
  let s := completeStart c csLost 0 s
  let k := s.clu c
  let s := k.stops.foldl (fun t d => complete d.1 csState 0 0 [] t) s
  retryHeld ((dropUnsent c s).setClu c { Clu.initial with since := s.ticks })

/-- Marks a slot failed since reset (R499, R506). -/
def markSlot (slot : Nat) (s : State) : State :=
  let w := s.get F.ERR_SLOTFAIL_SLOTS 0 (slot / 32)
  s.set F.ERR_SLOTFAIL_SLOTS (w ||| 2 ^ (slot % 32)) 0 (slot / 32)

/-- Another cluster of the die is on its way through a switch-in (R503). -/
def switching (s : State) (d : Nat) : Bool :=
  (List.range 4).any fun i => ((s.clu (4 * d + i)).switch).isSome

/-- A cause is found in a RUNNING, DOZE or RETAIN cluster (R495, R496): FENCED, with a switch-in where the die has an
understudy and the program kept its copy; MISSING otherwise. `stuck` says that what cannot move was lost (reason STATE). -/
def failCluster (cause : Nat) (stuck : Bool) (c : Nat) (s : State) : State :=
  let s := wakeCluster c s
  if cluState s c ≠ stRunning then s
  else
    let s := enterCluster stFenced c (dropUnsent c s)
    let slot := slotOf s c
    let k := s.clu c
    let s := markSlot slot s
    match understudy s (dieOf c) with
    | none => missCluster c cause 1 s
    | some spare =>
      if switching s (dieOf c) then missCluster c cause 1 s
      else if (k.prog.map Prog.retain).getD false = false then missCluster c cause 2 s
      else if stuck then missCluster c cause 3 s
      else
        let sw : SwitchSt := ⟨cause, s.get F.CLU_STATUS_SLOT c, spare, 0, k.hash.ways.length, s.ticks⟩
        scaleChanged (s.setClu c { k with switch := some sw })

/-- A macro-op of queue `i` that has started, is not waiting on a flag or for responses, and has not completed after MOPTMO × 100 µs
(R281, R332). -/
def overdue (s : State) (c i : Nat) (m : Mop) : Bool :=
  match m.phase with
  | .running t =>
    s.passedUs t (100 * max 1 (s.get F.CLU_WDOG_MOPTMO c)) &&
      !((s.clu c).xfers.any fun x => x.q == i && x.seq == m.seq && x.kind < 2 && !x.reqs.isEmpty)
  | _ => false

def progressDue (s : State) (c : Nat) : Bool := (s.clu c).queues.zipIdx.any fun (q, i) => q.mops.any (overdue s c i)

/-- In CLEARING the watchdog bounds the wait for running macro-ops (R281, R290): those that are due are given up, since only a RUNNING
cluster fails (R495). -/
def giveUp (c : Nat) (s : State) : State :=
  let k := s.clu c
  let gone := fun (x : Xfer) => ((k.mopOf x.q x.seq).map (overdue s c x.q)).getD false
  s.setClu c { k with
    queues := k.queues.zipIdx.map fun (q, i) => { q with mops := q.mops.filter fun m => !overdue s c i m }
    xfers := k.xfers.filter fun x => !gone x }

def execProgressTimeout (c : ClusterId) (s : State) : Res :=
  if progressDue s c = false then ok s
  else if cluState s c = stRunning then ok (failCluster failProgress false c s)
  else if cluState s c = stClearing then ok (giveUp c s)
  else ok s

/-- A write of ERR_UFAIL with GO (R495, R506). -/
def uFail (mid c : Nat) (s : State) : State :=
  if c < 80 ∧ cluState s c = stRunning then failCluster failHost false c s
  else s.reject mid (R.ERR_UFAIL.addr 0 0)

def execUfail (m : MasterId) (c : BitVec 7) (s : State) : Res := ok (uFail m.toNat c.toNat s)

end Sys2Proof.Machine
end

