-- ==== Sys2Proof/Machine/Groups.lean ====
section
/-! DEFINITION. Group descriptors (R211 to R216, R234): their fields, the checks of GROUP_CREATE, and the shape of a group:
contributors, data chunks and the results of each destination. -/

namespace Sys2Proof.Machine

/-- The fields of a descriptor header (R211). -/
structure GroupHdr where
  ctx : Nat
  oper : Nat
  rop : Nat
  type : Nat
  mode : Nat
  path : Nat
  cued : Bool
  chunk : Nat
  entries : Nat
  maxinf : Nat
  pool : Nat
  engine : Nat
  count : Nat
  sig : Nat
  step0 : Nat
  job : Nat
  cclass : Nat
  rclass : Nat
  root : Nat
  rmode : Nat
  sat : Bool
  tmo : Nat
  lead : Nat
  parent : Nat
  hasParent : Bool
  pctx : Nat
  prank : Nat
  deriving DecidableEq, Repr

/-- A member entry (R212): KIND 0 ENDPOINT, 1 CLUSTER, 2 CHILD. -/
structure Member where
  id : Nat
  kind : Nat
  c : Bool
  r : Bool
  out : Nat
  coefa : Nat
  coefb : Nat
  flag : Nat
  addr : Nat
  cctx : Nat
  deriving DecidableEq, Repr

/-- Operations (R211). -/
def opAllReduce : Nat := 0
def opReduce : Nat := 1
def opReduceScatter : Nat := 2
def opAllGather : Nat := 3
def opBroadcast : Nat := 4
def opBarrier : Nat := 5
def opRsEncode : Nat := 6

/-- A header's words as fields (R211). -/
def groupHdr (h : List Word) : GroupHdr :=
  let f := fun (i lo width : Nat) => fieldOf (h.getD i 0).toNat lo width
  { ctx := f 0 0 12, oper := f 0 12 4, rop := f 0 16 4, type := f 0 20 4, mode := f 0 24 1, path := f 0 25 2
    cued := f 0 27 1 == 1, chunk := f 0 28 4, entries := f 1 0 10, maxinf := f 1 16 4, pool := f 1 20 4
    engine := f 1 24 5, count := f 2 0 32, sig := f 3 0 32, step0 := f 4 0 16, job := f 4 16 8, cclass := f 4 24 3
    rclass := f 4 28 3, root := f 5 0 10, rmode := f 5 16 2, sat := f 5 18 1 == 1, tmo := f 6 0 32, lead := f 7 0 32
    parent := f 8 0 20, hasParent := f 8 31 1 == 1, pctx := f 9 0 12, prank := f 9 12 10 }

/-- An entry's words as fields (R212). -/
def memberOf (e : List Word) : Member :=
  let f := fun (i lo width : Nat) => fieldOf (e.getD i 0).toNat lo width
  let kind := f 0 20 2
  { id := if kind = 1 then f 0 0 7 else f 0 0 20, kind := kind, c := f 0 22 1 == 1, r := f 0 23 1 == 1, out := f 0 24 1
    coefa := f 1 0 8, coefb := f 1 8 8, flag := f 1 16 8, addr := f 2 0 32 + f 3 0 16 * 2 ^ 32, cctx := f 3 16 12 }

def Coll.hdr (g : Coll) : GroupHdr := groupHdr g.header

def Coll.members (g : Coll) : List Member := g.entries.map memberOf

/-- Entry of a rank. -/
def memberAt (ms : List Member) (r : Nat) : Member := ms.getD r (memberOf [])

/-- Ranks that contribute, ascending (R250). -/
def contributors (ms : List Member) : List Nat := (List.range ms.length).filter fun r => (memberAt ms r).c

/-- Ranks that receive. -/
def receivers (ms : List Member) : List Nat := (List.range ms.length).filter fun r => (memberAt ms r).r

/-- E (R247). -/
def GroupHdr.esize (h : GroupHdr) : Nat := elemBytes h.oper h.type h.rop

/-- Bytes of each member's contribution. -/
def GroupHdr.bytes (h : GroupHdr) : Nat := h.count * h.esize

/-- D; an express instance is a single chunk (R211, R234). -/
def GroupHdr.dchunk (h : GroupHdr) (express : Bool) : Nat := if express then max 1 h.bytes else 4096 * 2 ^ h.chunk

/-- Number of data chunks (R231). -/
def GroupHdr.chunks (h : GroupHdr) (express : Bool) : Nat := max 1 (ceilDiv h.bytes (h.dchunk express))

/-- Bytes of chunk `k`. -/
def GroupHdr.chunkLen (h : GroupHdr) (express : Bool) (k : Nat) : Nat := min (h.dchunk express) (h.bytes - k * h.dchunk express)

/-- ceil(log2 n). -/
def log2Up (n : Nat) : Nat := if n ≤ 1 then 0 else Nat.log2 (n - 1) + 1

/-- Working state of a data chunk (R216). -/
def GroupHdr.working (h : GroupHdr) (express : Bool) (mc : Nat) : Nat :=
  let d := h.dchunk express
  let n := d / h.esize
  if express || h.oper == opBarrier then 0
  else if h.oper = opAllGather then d * mc
  else if h.oper = opBroadcast then d
  else if h.rop = 8 then d * 2
  else if h.mode = 1 then n * (if h.type ≤ 1 then 36 else if h.type = 2 then 8 else 6)
  else d * max 1 (log2Up mc)

/-! Checks (R215). -/

/-- Bits of each header word that are not reserved. -/
def headerMasks : List Nat :=
  [0xFFFFFFFF, 0x1FFF03FF, 0xFFFFFFFF, 0xFFFFFFFF, 0x77FFFFFF, 0x000703FF, 0xFFFFFFFF, 0xFFFFFFFF, 0x800FFFFF, 0x003FFFFF,
    0, 0, 0, 0, 0, 0]

/-- A reserved bit or value of an entry. -/
def entryBad (e : List Word) : Bool :=
  let w := fun i => (e.getD i 0).toNat
  let kind := fieldOf (w 0) 20 2
  w 0 / 2 ^ 25 != 0 || w 1 / 2 ^ 24 != 0 || w 3 / 2 ^ 28 != 0 || kind == 3 || (kind == 1 && fieldOf (w 0) 7 13 != 0)

/-- BADFIELD. -/
def fieldBad (ctx : Nat) (hw : List Word) (es : List (List Word)) : Bool :=
  let h := groupHdr hw
  ((List.range 16).any fun i => (hw.getD i 0).toNat &&& headerMasks.getD i 0 != (hw.getD i 0).toNat) || es.any entryBad ||
    h.ctx != ctx || 6 < h.oper || 8 < h.rop || 8 < h.type || h.path == 3 || 8 < h.chunk || h.entries == 0 ||
    592 < h.entries || h.maxinf == 0 || 8 < h.maxinf || 19 < h.engine || h.rmode == 3

/-- Whether ROP and TYPE pair (R247). -/
def ropPairs (rop type : Nat) : Bool :=
  match rop with
  | 0 | 1 | 2 => type ≤ 7
  | 3 | 4 => type == 0 || type == 5 || type == 7
  | 5 | 6 | 7 => 5 ≤ type
  | _ => type == 8

/-- Whether the express path may carry the group (R234). -/
def GroupHdr.small (h : GroupHdr) : Bool :=
  (h.oper == opAllReduce || h.oper == opReduce || h.oper == opBroadcast || h.oper == opBarrier) && h.bytes ≤ 256

/-- BADOP. -/
def opBad (h : GroupHdr) : Bool :=
  (usesRop h.oper && !ropPairs h.rop h.type) || (h.oper == opRsEncode && !(h.rop == 8 && h.type == 8)) ||
    (h.mode == 1 && !(h.rop == 0 && h.type ≤ 4)) || (h.path == 2 && !h.small)

/-- Whether C and R are as R214 fixes them. -/
def flagsOk (h : GroupHdr) (ms : List Member) : Bool :=
  let rank := fun p => (List.range ms.length).all fun r => p r (memberAt ms r)
  if h.oper = opReduce then rank fun r m => m.c && m.r == (r == h.root)
  else if h.oper = opBroadcast then rank fun r m => m.c == (r == h.root)
  else if h.oper = opRsEncode then
    let k := ms.length - 2
    decide (3 ≤ ms.length ∧ k ≤ 16) && (rank fun r m => m.c == decide (r < k) && m.r == !decide (r < k)) &&
      (memberAt ms k).out != (memberAt ms (k + 1)).out
  else ms.all fun m => m.c && m.r

/-- Whether two entries name one member. -/
def sameMember (a b : Member) : Bool := a.id == b.id && (a.kind == 1) == (b.kind == 1)

def noTwins : List Member → Bool
  | [] => true
  | m :: ms => !ms.any (sameMember m) && noTwins ms

/-- BADMEMBERS. -/
def membersBad (s : State) (h : GroupHdr) (ms : List Member) : Bool :=
  let mc := (contributors ms).length
  !flagsOk h ms || mc == 0 || decide (ms.length ≤ h.root) || (h.count == 0) != (h.oper == opBarrier) ||
    (h.oper == opReduceScatter && h.count % mc != 0) ||
    (ms.any fun m => m.kind == 1 && (decide (80 ≤ m.id) || cluState s m.id == stMissing)) || !noTwins ms

/-- Contexts bound to express reducer `n` (R234, R246). -/
def expressBound (s : State) (n : Nat) : Nat :=
  (s.colls.filter fun e => 2 ≤ collState s e.1 && e.2.express && (groupHdr e.2.header).engine / 5 == n).length

/-- Whether a group takes the express path (R234). -/
def takesExpress (s : State) (h : GroupHdr) : Bool :=
  h.path == 2 || (h.path == 0 && h.small && decide (expressBound s (h.engine / 5) < 256))

/-- The refusal code of R215 for a descriptor that could be read, 0 where every check passes. -/
def groupRefusal (s : State) (ctx : Nat) (hw : List Word) (es : List (List Word)) : Nat :=
  let h := groupHdr hw
  let ms := es.map memberOf
  let need := h.working (takesExpress s h) (contributors ms).length
  if fieldBad ctx hw es then 2
  else if opBad h then 3
  else if membersBad s h ms then 4
  else if (h.pool = 0 ∧ 0 < need) ∨ (h.pool ≠ 0 ∧ (s.flag F.POOL_CTL_EN h.pool = false ∨ chunkBytes s h.pool < need)) then 5
  else if h.path = 2 ∧ 256 ≤ expressBound s (h.engine / 5) then 6
  else if (h.hasParent || ms.any fun m => m.kind == 2) && !(h.oper == opAllReduce || h.oper == opBarrier) then 7
  else 0

/-! Results (R214, R226). -/

/-- A piece of result data: the ranks that receive it, its offset in their results, where it comes from (0 row A, 1 row B,
2 + r the contribution of rank r), and the bytes `[lo, lo + n)` of the chunk there. -/
structure Piece where
  ranks : List Nat
  off : Nat
  src : Nat
  lo : Nat
  n : Nat
  deriving DecidableEq, Repr

/-- The pieces of chunk `k`. -/
def chunkPieces (h : GroupHdr) (express : Bool) (ms : List Member) (k : Nat) : List Piece :=
  let base := k * h.dchunk express
  let len := h.chunkLen express k
  let rs := receivers ms
  let cs := contributors ms
  if h.oper = opBarrier then [⟨rs, 0, 0, 0, 8⟩]
  else if h.oper = opAllGather then cs.zipIdx.map fun (r, i) => ⟨rs, i * h.bytes + base, 2 + r, 0, len⟩
  else if h.oper = opReduceScatter then
    let part := h.count / cs.length * h.esize
    let row := fun r => if h.rop = 8 then (memberAt ms r).out else 0
    (rs.map fun r =>
      let lo := max (r * part) base
      let hi := min ((r + 1) * part) (base + len)
      (⟨[r], lo - r * part, row r, lo - base, hi - lo⟩ : Piece)).filter fun p => p.n != 0
  else if h.rop = 8 ∧ usesRop h.oper then
    ([0, 1].map fun o => (⟨rs.filter fun r => (memberAt ms r).out == o, base, o, 0, len⟩ : Piece)).filter fun p => !p.ranks.isEmpty
  else [⟨rs, base, 0, 0, len⟩]

/-- Largest payload of a RESULT (R217, R234). -/
def resultLimit (express : Bool) : Nat := if express then 256 else 4096

/-- Cuts a piece into packets. -/
def Piece.cut (p : Piece) (limit : Nat) : List Piece :=
  (List.range (ceilDiv p.n limit)).map fun i =>
    { p with off := p.off + i * limit, lo := p.lo + i * limit, n := min limit (p.n - i * limit) }

/-- The result packets of chunk `k`, in the order in which they are issued. -/
def chunkPackets (h : GroupHdr) (express : Bool) (ms : List Member) (k : Nat) : List Piece :=
  (chunkPieces h express ms k).flatMap fun p => p.cut (resultLimit express)

/-- Packets of the result stream of a rank. -/
def streamLength (h : GroupHdr) (express : Bool) (ms : List Member) (rank : Nat) : Nat :=
  (List.range (h.chunks express)).foldl (fun n k =>
    n + ((chunkPackets h express ms k).filter fun p => p.ranks.contains rank).length) 0

end Sys2Proof.Machine
end

