-- ==== Sys2Proof/Machine/Combine.lean ====
section
/-! DEFINITION. Reduction arithmetic (R247 to R267): tree nodes, exact accumulators and their records, GF(2^8) rows, and the
combination of a chunk's contributions. -/

namespace Sys2Proof.Machine

/-- The elements of bytes, each as a number of `e` bytes. -/
def elemsOf (e : Nat) (bs : List Byte) : List Nat :=
  (List.range (bs.length / e)).map fun i => ofBytes ((bs.drop (i * e)).take e)

/-- Integer SUM (R256). -/
def intSum (fmt : Nat) (sat : Bool) (a b : Nat) : Nat :=
  let w := elemBits fmt
  let z := intOf fmt a + intOf fmt b
  let lo : Int := if fmt = fUINT32 then 0 else -(2 ^ (w - 1) : Nat)
  let hi : Int := if fmt = fUINT32 then (2 ^ w - 1 : Nat) else (2 ^ (w - 1) - 1 : Nat)
  unsigned w (if sat then max lo (min hi z) else z)

/-- MINLOC and MAXLOC on 8-byte pairs, value below index (R258). -/
def pickLoc (fmt : Nat) (greatest : Bool) (a b : Nat) : Nat :=
  let x := orderKey fmt (a % 2 ^ 32)
  let y := orderKey fmt (b % 2 ^ 32)
  let p := if x = y then (if b / 2 ^ 32 < a / 2 ^ 32 then b else a)
    else if greatest then (if x < y then b else a) else (if y < x then b else a)
  canonCode fmt (p % 2 ^ 32) + p / 2 ^ 32 * 2 ^ 32

/-- A tree node: left operand `a`, right operand `b`, draw `r` (R253 to R259). -/
def nodeValue (h : GroupHdr) (r a b : Nat) : Nat :=
  let fmt := typeFmt h.type
  match h.rop with
  | 0 => if isFloat fmt then roundNum fmt h.rmode r ((decodeFlt fmt a).add (decodeFlt fmt b)) else intSum fmt h.sat a b
  | 1 => pickCode fmt false a b
  | 2 => pickCode fmt true a b
  | 3 => pickLoc fmt false a b
  | 4 => pickLoc fmt true a b
  | 5 => a &&& b
  | 6 => a ||| b
  | _ => a ^^^ b

/-- The value at the root has any NaN made canonical (R250). -/
def rootValue (h : GroupHdr) (v : Nat) : Nat :=
  let fmt := typeFmt h.type
  match h.rop with
  | 0 | 1 | 2 => canonCode fmt v
  | 3 | 4 => canonCode fmt (v % 2 ^ 32) + v / 2 ^ 32 * 2 ^ 32
  | _ => v

/-- The fixed tree over one element's contributions, ascending by rank (R250, R255). -/
def treeElement (h : GroupHdr) (ctx seed step index : Nat) (vs : List Nat) : Nat :=
  rootValue h (treeRoot (fun lvl j a b =>
    nodeValue h (srgen seed step (ctx * 8192 + 512 * lvl + j) index) a b) 0 vs)

/-! Exact mode. -/

/-- An exact accumulator (R260): its value in units of LSB and its state bits. -/
structure Accum where
  value : Int
  nan : Bool
  pinf : Bool
  ninf : Bool
  deriving DecidableEq, Repr

def Accum.zero : Accum := ⟨0, false, false, false⟩

/-- V and the exponent of LSB (R260). -/
def accBits (type : Nat) : Nat := if type ≤ 1 then 285 else if type = 2 then 61 else 45

def accLsb (type : Nat) : Int :=
  match type with
  | 0 => -149
  | 1 => -133
  | 2 => -24
  | 3 => -9
  | _ => -16

/-- The value modulo 2^V, in two's complement. -/
def accWrap (type : Nat) (z : Int) : Int := signed (accBits type) (unsigned (accBits type) z)

/-- Adds a contribution (R261). -/
def Accum.add (type : Nat) (a : Accum) (code : Nat) : Accum :=
  match decodeFlt (typeFmt type) code with
  | .nan => { a with nan := true }
  | .inf false => { a with pinf := true }
  | .inf true => { a with ninf := true }
  | .fin neg m e =>
    let v : Int := ((m <<< (e - accLsb type).toNat : Nat) : Int)
    { a with value := accWrap type (a.value + if neg then -v else v) }

/-- Merges two accumulators (R261). -/
def Accum.merge (type : Nat) (a b : Accum) : Accum :=
  ⟨accWrap type (a.value + b.value), a.nan || b.nan, a.pinf || b.pinf, a.ninf || b.ninf⟩

/-- The single rounding (R264). -/
def Accum.round (type rmode r : Nat) (a : Accum) : Nat :=
  roundNum (typeFmt type) rmode r
    (if a.nan || (a.pinf && a.ninf) then .nan
    else if a.pinf then .inf false
    else if a.ninf then .inf true
    else .fin (decide (a.value < 0)) a.value.natAbs (if a.value = 0 then 0 else accLsb type))

/-- The 40 bytes of a record (R263). -/
def Accum.record (a : Accum) : List Byte :=
  toBytes 36 (unsigned 285 a.value + b2n a.nan <<< 285 + b2n a.pinf <<< 286 + b2n a.ninf <<< 287) ++ [0, 0, 0, 0]

/-- A record's 36-byte image as an accumulator. -/
def accOf (image : Nat) : Accum :=
  ⟨signed 285 (image % 2 ^ 285), image.testBit 285, image.testBit 286, image.testBit 287⟩

/-- Whether a 40-byte record is well formed for a type (R263). -/
def recordOk (type : Nat) (rec : List Byte) : Bool :=
  let image := ofBytes (rec.take 36)
  let v := accBits type
  let top := fieldOf image (v - 1) (286 - v)
  (rec.drop 36).all (· == 0) && (v == 285 || top == 0 || top == 2 ^ (286 - v) - 1) &&
    !(type == 3 && (image.testBit 286 || image.testBit 287))

/-! Chunks. -/

/-- The bytes that rank `r` has contributed to a chunk, in order of offset. -/
def rankBytes (g : Coll) (k r : Nat) : List Byte :=
  let d := g.hdr.dchunk g.express
  let parts := (g.data.filter fun c => c.rank == r && c.off / d == k).foldl (fun m c => place m c.off c.bytes) ([] : SMap (List Byte))
  parts.flatMap Prod.snd

/-- The accumulators of a chunk (R260 to R263). -/
def chunkAccs (g : Coll) (k : Nat) : List Accum :=
  let h := g.hdr
  let n := h.chunkLen g.express k / h.esize
  (contributors g.members).foldl (fun accs r =>
    let bs := rankBytes g k r
    if (memberAt g.members r).kind = 2 then
      accs.zipWith (Accum.merge h.type) ((elemsOf 36 bs).map accOf)
    else accs.zipWith (Accum.add h.type) (elemsOf h.esize bs)) (List.replicate n Accum.zero)

/-- A row over GF(2^8): the sum of coefficient times contribution (R267). -/
def gfRow (coef : Nat → Nat) (rows : List (Nat × List Byte)) (n : Nat) : List Byte :=
  (List.range n).map fun i =>
    BitVec.ofNat 8 (rows.foldl (fun a e => a ^^^ gfMul (coef e.1) (e.2.getD i 0).toNat) 0)

/-- Rows A and B of a chunk whose contributions are complete (R233, R244, R250, R264). -/
def combineChunk (ctx : Nat) (g : Coll) (k : Nat) : List Byte × List Byte :=
  let h := g.hdr
  let ms := g.members
  let rows := (contributors ms).map fun r => (r, rankBytes g k r)
  let len := h.chunkLen g.express k
  if h.oper = opBroadcast then ((rows.map Prod.snd).headD [], [])
  else if h.oper = opRsEncode then (gfRow (fun _ => 1) rows len, gfRow (fun r => gfPow r) rows len)
  else if h.rop = 8 then
    (gfRow (fun r => (memberAt ms r).coefa) rows len, gfRow (fun r => (memberAt ms r).coefb) rows len)
  else
    let first := k * h.dchunk g.express / h.esize
    if h.mode = 1 then
      let codes := (chunkAccs g k).zipIdx.map fun (a, i) =>
        a.round h.type h.rmode (srgen g.seed g.step (ctx * 8192 + 8191) (first + i))
      (codes.flatMap fun c => toBytes h.esize c, [])
    else
      let cols := rows.map fun e => elemsOf h.esize e.2
      let codes := (List.range (len / h.esize)).map fun i =>
        treeElement h ctx g.seed g.step (first + i) (cols.map fun c => c.getD i 0)
      (codes.flatMap fun c => toBytes h.esize c, [])

/-- What a device with a parent sends upward of a chunk: data bytes, or exact records (R232, R263). A GFLIN partial is the row that every
receiver of the device selects, since they all get the parent's result as it comes (R229, R244, R265: DEDUCED, log entry 83). -/
def partialBytes (ctx : Nat) (g : Coll) (k : Nat) : List Byte :=
  let h := g.hdr
  if h.oper = opBarrier then []
  else if h.mode = 1 then (chunkAccs g k).flatMap Accum.record
  else
    let (a, b) := combineChunk ctx g k
    let outs := (receivers g.members).map fun r => (memberAt g.members r).out
    if h.rop ≠ 8 then a
    else if outs ≠ [] ∧ outs.all (· == 0) then a
    else if outs ≠ [] ∧ outs.all (· == 1) then b
    else a.zipWith Config.gflinUp b

end Sys2Proof.Machine
end

