-- ==== Sys2Proof/Machine/Jobs.lean ====
section
/-! DEFINITION. The job table: seeds and step counters (R389 to R392). -/

namespace Sys2Proof.Machine

def JobSt.initial : JobSt := ⟨0, 0, 0, 0, 0, 0, []⟩

/-- Entry `j` of the job table. -/
def State.job (s : State) (j : Nat) : JobSt := (lookup s.jobs j).getD JobSt.initial

def State.setJob (s : State) (j : Nat) (x : JobSt) : State := { s with jobs := place s.jobs j x }

/-- The seed and step become `seed` and `step`; the copies follow within 100 ns (R391). -/
def jobChange (j seed step : Nat) (s : State) : State :=
  let x := s.job j
  let recent := x.past.filter fun p => s.elapsed p.2.2 < 10
  s.setJob j { x with seed := seed % 2 ^ 64, step := step % 2 ^ 64, past := (x.seed, x.step, s.ticks) :: recent }

/-- The seed and step that a start latches (R390): within 100 ns of a change it may be an earlier value (R391). -/
def jobLatch (j : Nat) (s : State) : (Nat × Nat) × State :=
  let x := s.job j
  let recent := x.past.filter fun p => s.elapsed p.2.2 < 10
  if recent.isEmpty then ((x.seed, x.step), s)
  else
    let (n, s) := s.fresh
    match recent[Config.jobCopy n % (recent.length + 1)]? with
    | some p => ((p.1, p.2.1), s)
    | none => ((x.seed, x.step), s)

def execDevJobSeedLoWrite (j : BitVec 8) (v : Word) (s : State) : Res :=
  let x := s.job j.toNat
  ok (jobChange j.toNat (v.toNat + x.seedW * 2 ^ 32) x.step s)

def execDevJobSeedHiWrite (j : BitVec 8) (v : Word) (s : State) : Res :=
  ok (s.setJob j.toNat { s.job j.toNat with seedW := v.toNat })

def execDevJobStepLoWrite (j : BitVec 8) (v : Word) (s : State) : Res :=
  let x := s.job j.toNat
  ok (jobChange j.toNat x.seed (v.toNat + x.stepW * 2 ^ 32) s)

def execDevJobStepHiWrite (j : BitVec 8) (v : Word) (s : State) : Res :=
  ok (s.setJob j.toNat { s.job j.toNat with stepW := v.toNat })

/-- A read of SEED_LO: the active low half; the high half is latched. It completes once every copy holds the value
(R391). -/
def jobSeedRead (j : Nat) (s : State) : Nat × State :=
  let x := s.job j
  (x.seed % 2 ^ 32, s.setJob j { x with seedR := x.seed / 2 ^ 32, past := [] })

/-- A read of STEP_LO (R389, R391). -/
def jobStepRead (j : Nat) (s : State) : Nat × State :=
  let x := s.job j
  (x.step % 2 ^ 32, s.setJob j { x with stepR := x.step / 2 ^ 32, past := [] })

def execDevJobSeedLoRead (m : MasterId) (j : BitVec 8) (s : State) : Res :=
  let (v, s) := jobSeedRead j.toNat s
  ok (s.emit (.readData m.toNat (toBytes 4 v)))

def execDevJobStepLoRead (m : MasterId) (j : BitVec 8) (s : State) : Res :=
  let (v, s) := jobStepRead j.toNat s
  ok (s.emit (.readData m.toNat (toBytes 4 v)))

/-- A write of DEV_JOB_ADVANCE (R389). -/
def execDevJobAdvance (j : BitVec 8) (s : State) : Res :=
  let x := s.job j.toNat
  ok (jobChange j.toNat x.seed (x.step + 1) s)

end Sys2Proof.Machine
end

