-- ==== Sys2Proof/Machine/Coll.lean ====
section
/-! DEFINITION. Collective contexts and instances (R208 to R246): loading and destroying a group, acceptance of packets,
chunks in flight, results, error packets, fenced destinations, straggler observation and the express reducers. -/

namespace Sys2Proof.Machine

def Coll.initial : Coll :=
  ⟨[], [], false, [], [], [], [], [], [], [], [], 0, 0, [], 0, 0, 0, [], none, none, none⟩

/-- Context `x`. -/
def State.coll (s : State) (x : Nat) : Coll := (lookup s.colls x).getD Coll.initial

/-- Replaces context `x`. -/
def State.setColl (s : State) (x : Nat) (g : Coll) : State := { s with colls := place s.colls x g }

/-- Context states (R221). -/
def xFree : Nat := 0
def xLoading : Nat := 1
def xIdle : Nat := 2
def xRunning : Nat := 3
def xDraining : Nat := 4
def xAborting : Nat := 5
def xDestroying : Nat := 6

/-- Enters a context state. -/
def enterColl (st x : Nat) (s : State) : State := s.set F.COLL_STATE_STATE st x

/-- Master ID and owner code of the unit that serves a group (R210, R228, R136). -/
def Coll.owner (g : Coll) : Nat := if g.express then 0x0C4 + g.hdr.engine / 5 else 0x0B0 + g.hdr.engine

/-- Class of results and error packets (R211). -/
def Coll.resultClass (g : Coll) : Nat := if g.express then 8 else g.hdr.rclass

/-- Class of contributions and partials. -/
def Coll.contribClass (g : Coll) : Nat := if g.express then 8 else g.hdr.cclass

/-- The timer that runs from the moment reduction engine `n` was last needed (R525). -/
def engineTimer (n : Nat) : Nat := 100 + n

/-- Whether a reduction engine is needed (R525). -/
def engineNeeded (s : State) (n : Nat) : Bool :=
  s.flag F.CUE_CTL_EN (80 + n) ||
    s.colls.any fun e => 2 ≤ collState s e.1 && !e.2.express && e.2.hdr.engine == n

/-- Domains of the engines follow their use (R525): ON at once, the express reducer OFF at once, a reduction engine OFF 1 ms
later. -/
def settleEngine (engine : Nat) (s : State) : State :=
  let n := engine / 5
  let s := s.set F.PWR_DOM_STATE (if expressBound s n = 0 then 0 else 3) 0 (248 + n)
  if engineNeeded s engine then s.set F.PWR_DOM_STATE 3 0 (140 + engine)
  else { s with timers := place s.timers (engineTimer engine) s.ticks }

/-- Changes a context. -/
def updColl (x : Nat) (f : Coll → Coll) (s : State) : State := s.setColl x (f (s.coll x))

/-! Packets held by an engine (R139). -/

/-- A packet passes from the device-receive path to an engine, with its cells; XC credit returns as it leaves the receive
buffer (R81). -/
def engineTake (owner id : Nat) (s : State) : State :=
  match s.pkt id with
  | none => s
  | some k =>
    let s := k.cells.foldl (fun t b => passBuffer 0 b owner ownerDevRx t) s
    let s := { s with net.devRx := s.net.devRx.filter (· != id) }
    match k.src with
    | .port p => if k.owes then rxFree p 8 (cellsOf k.hdr) (s.setPkt id { k with owes := false }) else s
    | .injector _ => s

/-- An engine is done with a packet and releases its cells. -/
def engineFree (owner id : Nat) (s : State) : State := dropRef id owner s

/-- The cluster and transfer of a contribution that a cluster's stevedore has sent (R331). -/
def contribXfer (k : Pkt) (s : State) : Option (Nat × Xfer) :=
  match k.src with
  | .port _ => none
  | .injector mid =>
    if mid < 0x060 ∨ 0x0B0 ≤ mid then none
    else
      let c := mid - 0x060
      ((s.clu c).xfers.find? fun t =>
        t.kind == 2 && t.dst == k.hdr.ctx.toNat && t.reqs.any fun r => r.seq == k.hdr.seq.toNat).map fun x => (c, x)

/-- A contribution of a cluster's stevedore has been accepted or discarded, which acknowledges it (R331, R423). -/
def contribAck (k : Pkt) (s : State) : State :=
  match contribXfer k s with
  | none => s
  | some (c, x) => reqDone c x.id k.hdr.seq.toNat s

/-- A contribution of a cluster's stevedore that the device loses on its way ends its macro-op with UNCORRECTABLE (R331, R341). -/
def contribLost (k : Pkt) (s : State) : State :=
  match contribXfer k s with
  | none => s
  | some (c, x) => xferFail c 0x05 x (reqDone c x.id k.hdr.seq.toNat s)

/-- Counts and records a discarded packet (R219). -/
def collBad (x reason rank : Nat) (s : State) : State :=
  ((s.bump F.COLL_CNT_BADPKT_COUNT 1 x).set F.COLL_BADREC_REASON reason x).set F.COLL_BADREC_RANK rank x

/-- The RANK field of a contribution header (R217). -/
def rankField (payload : List Byte) : Nat := if payload.length < 16 then 0 else fieldOf (ofBytes (payload.take 16)) 76 10

/-- Discards a packet that `owner` holds. -/
def collDiscard (x owner reason id : Nat) (k : Pkt) (s : State) : State :=
  contribAck k (engineFree owner id (collBad x reason (rankField k.payload) s))

/-! Results (R226 to R229). -/

/-- Header of a packet that an engine sends. -/
def collHeader (s : State) (dst cls kind ctx step addr seq len flow : Nat) : Header where
  dst := BitVec.ofNat 20 dst
  src := BitVec.ofNat 20 (selfId s)
  cls := BitVec.ofNat 4 cls
  kind := BitVec.ofNat 6 kind
  len := BitVec.ofNat 13 len
  ord := true
  cm := false
  rsvA := 0
  ctx := BitVec.ofNat 12 ctx
  rsvB := 0
  seq := BitVec.ofNat 32 seq
  step := BitVec.ofNat 16 step
  addr := BitVec.ofNat 48 addr
  flow := BitVec.ofNat 32 flow
  rsvC := 0

/-- A push into a mailbox by a unit of the device: it wakes the cluster, and waits while it is cleared (R279, R436). -/
def clusterPush (c m v : Nat) (s : State) : State :=
  let s := wakeCluster c s
  if cluState s c = stClearing then s.setClu c { s.clu c with late := (s.clu c).late ++ [.push m v] }
  else if cluPresent s c then mailPush c m v s
  else s

/-- Cue engine `e`. -/
def State.cue (s : State) (e : Nat) : CueSt := (lookup s.tm.cues e).getD ⟨0, 0, 0, [], false⟩

def State.setCue (s : State) (e : Nat) (q : CueSt) : State := { s with tm.cues := place s.tm.cues e q }

/-- A late entry `i` of engine `e` is counted, and the first since the clear raises an event (R192). -/
def cueLate (e i : Nat) (s : State) : State :=
  let s := s.bump F.CUE_CNT_LATE_COUNT 1 e
  if s.flag F.CUE_STATUS_FIRSTEV e then s
  else
    let s := s.set F.CUE_STATUS_FIRSTEV 1 e
    s.event 0x05 1 (if e < 80 then cluJob s e else 0) e [i, s.rd R.CUE_STATUS e 0]

/-- A one-time release acts (R204, R195); one that is late is counted as R192 counts an entry, by an index that no rule gives. -/
def onceAct (e c f : Nat) (late : Bool) (s : State) : State :=
  let s := if late then let (n, s) := s.fresh; cueLate e (Config.onceIndex n).toNat s else s
  if cluPresent s c then setFlag c f (wakeCluster c s) else s.bump F.CUE_CNT_NOTARGET_COUNT 1 e

/-- A release flag that a reduction engine's cue engine sets at fabric time `t` (R204): at once and counted late where `t`
has passed. -/
def cueOnce (e t c f : Nat) (s : State) : State :=
  if t < s.nowNs then onceAct e c f true s
  else
    let q := s.cue e
    s.setCue e { q with once := q.once ++ [⟨t, c, f, false⟩] }

/-- The status record and the flag of a CLUSTER member (R228); a BARRIER's flag is set at its release time (R204). -/
def clusterSignal (engine : Nat) (m : Member) (status detail : Nat) (time : Option Nat) (s : State) : State :=
  let s := clusterPush m.id 7 (ofBytes (statusRecord status detail)) s
  match time with
  | some t => cueOnce (80 + engine) t m.id m.flag s
  | none => setFlag m.id m.flag (wakeCluster m.id s)

/-- Ends a context's use of staging: buffers in flight are released and requests end (R131, R140, R237). -/
def releaseFlights (x : Nat) (s : State) : State :=
  let g := s.coll x
  let pool := g.hdr.pool
  g.inflight.foldl (fun t f =>
    if f.upward || pool == 0 then t
    else match f.buf with
    | some b => release pool b g.owner t
    | none =>
      let p := t.pool pool
      let mine := fun (w : PoolWait) => w.owner == g.owner && w.job == g.hdr.job
      match p.granted.find? fun e => e.1 == g.owner && ((lookup p.words e.2).map BufWord.job) == some g.hdr.job with
      | some e => release pool e.2 g.owner (t.setPool pool { p with granted := p.granted.erase e })
      | none =>
        match p.waiting.find? mine with
        | some w => t.setPool pool { p with waiting := p.waiting.erase w }
        | none => t) s

/-- Packets of a context that its engine has not yet started are dropped, with the cells they share. -/
def dropReplicas (x : Nat) (s : State) : State :=
  let g := s.coll x
  let held := (lookup s.net.injq g.owner).getD []
  let mine := fun (k : InjPkt) => k.hdr.flow.toNat == x && (k.hdr.kind == 0x0B || k.hdr.kind == 0x09 || k.hdr.kind == 0x0A)
  let s := { s with net.injq := put s.net.injq g.owner (held.filter fun k => !mine k) [] }
  (held.filter mine).foldl (fun t k => releaseAll 0 ownerEgress (k.cells.getD []) t) s

/-- Queues the CERR packets of an abort and signals the CLUSTER members (R237). -/
def sendErrors (x status detail : Nat) (s : State) : State :=
  let g := s.coll x
  let rec_ := statusRecord status detail
  let step := s.get F.COLL_STEP_RUN x
  let send := fun (rank dst ctx addr : Nat) (t : State) =>
    inject g.owner (x * 2 ^ 32 + rank) g.hdr.job (collHeader t dst g.resultClass 0x0C ctx step addr 0 8 x) rec_ t
  let s := g.members.zipIdx.foldl (fun t (m, r) =>
    match m.kind with
    | 1 => clusterSignal g.hdr.engine m status detail none t
    | 2 => send r m.id m.cctx 0 t
    | _ => send r m.id x m.addr t) s
  if g.hdr.hasParent ∧ status ≠ 0x17 then send 1023 g.hdr.parent g.hdr.pctx 0 s else s

/-- Aborts an instance with a status, its DETAIL, and the ranks that COLL_LIST will show (R236, R237). -/
def collAbort (x status detail : Nat) (ranks : List Nat) (s : State) : State :=
  if collState s x ≠ xRunning ∧ collState s x ≠ xDraining then s
  else
    let g := s.coll x
    let s := dropReplicas x (releaseFlights x s)
    let s := g.waiting.foldl (fun t id => engineFree g.owner id t) s
    let s := sendErrors x status detail s
    enterColl xAborting x (updColl x (fun g => { g with
      inflight := [], data := [], waiting := [], outcome := some (status, detail, ranks) }) s)

/-- Abort statuses of R236. -/
def clMismatch : Nat := 0x10
def clFenced : Nat := 0x11
def clTimeout : Nat := 0x12
def clAccess : Nat := 0x13
def clUncorrectable : Nat := 0x14
def clUnitLost : Nat := 0x15
def clHostAbort : Nat := 0x16
def clParent : Nat := 0x17
def clChild : Nat := 0x18
def clPoolRef : Nat := 0x19

/-- Where a member's result data of offset `off` goes. -/
def resultAddr (m : Member) (off : Nat) : Nat := if m.kind = 2 then off else (m.addr + off) % 2 ^ 48

/-- A write by an engine (R228, R582); one at a register place is on its way to the register's block. -/
def engineWrite (mid a : Nat) (bs : List Byte) (s : State) : AccRes × State :=
  writeParts postPut mid 0 (accParts s a bs.length false) bs s

/-- A result packet reaches a CLUSTER member (R228): written as the engine; `last` brings its status and flag. -/
def clusterResult (x r off : Nat) (bs : List Byte) (last : Bool) (time : Option Nat) (s : State) : State :=
  let g := s.coll x
  let m := memberAt g.members r
  if collState s x ≠ xRunning then s
  else match engineWrite g.owner (resultAddr m off) bs s with
    | (.data _, s) =>
      let s := updColl x (fun g => { g with streams := place g.streams r ((lookup g.streams r).getD 0 + 1) }) s
      if last then clusterSignal g.hdr.engine m 0 0 time s else s
    | (.refused _, s) => collAbort x clAccess r [] s
    | (.bad, s) => collAbort x clUncorrectable r [] s
    | (.wait, s) => s

/-- A CLUSTER member's replica: written by the engine, which then releases its share of the cells (R226, R228). -/
def clusterReplica (x off : Nat) (bs : List Byte) (last : Bool) (time : Option Nat) (cells : List Nat) (s : State) (r : Nat) : State :=
  releaseAll 0 ownerEgress cells (clusterResult x r off bs last time s)

/-- One replica of a result packet for an ENDPOINT or CHILD member (R226). -/
def replica (x off : Nat) (bs : List Byte) (cells : List Nat) (last : Nat → Bool) (s : State) (r : Nat) : State :=
  let g := s.coll x
  let m := memberAt g.members r
  let i := (lookup g.streams r).getD 0
  let tag := r + 1024 * g.serial
  let seq := i % 2 ^ 24 + b2n (last r) <<< 31
  let h := collHeader s m.id g.resultClass 0x0B (if m.kind = 2 then m.cctx else x) (s.get F.COLL_STEP_RUN x)
    (resultAddr m off) seq bs.length x
  let s := injectReplica g.owner g.hdr.job h bs cells (x, tag) s
  updColl x (fun g => { g with streams := place g.streams r (i + 1), replicas := g.replicas + 1 }) s

/-- Cells of a result packet for `n` destinations: allocated under the engine and passed to EGRESS (R139, R226); none where pool 0
makes it wait. An express reducer holds the packet itself (R234). -/
def resultCells (g : Coll) (n len : Nat) (s : State) : Option (List Nat × State) :=
  if g.express ∨ n = 0 then some ([], s)
  else if poolHolds s g.owner then none
  else match allocCells g.owner n g.hdr.job (stripeOf s (.injector g.owner)) (ceilDiv (36 + len) 256) s with
    | none => none
    | some (bs, t, s) => some (bs, passCells bs ownerEgress n (setStripe (.injector g.owner) t s))

/-- Issues one result packet to the ranks that are not fenced (R226, R239); none where it must wait for pool 0 cells or
for a cluster that is being cleared or restored. `cells` are those of a parent's packet. -/
def issueResult (x : Nat) (ranks : List Nat) (off : Nat) (bs : List Byte) (last : Nat → Bool) (time : Option Nat)
    (cells : Option (List Nat)) (s : State) : Option State :=
  let g := s.coll x
  let live := ranks.filter fun r => !g.fenced.contains r
  let local_ := live.filter fun r => (memberAt g.members r).kind == 1
  let remote := live.filter fun r => (memberAt g.members r).kind != 1
  if local_.any fun r => (engineWrite g.owner (resultAddr (memberAt g.members r) off) bs s).1 == .wait then none
  else
    let got := match cells with
      | some cs => some (cs, s)
      | none => resultCells g live.length bs.length s
    match got with
    | none => none
    | some (cs, s) =>
      let s := remote.foldl (replica x off bs cs last) s
      some (local_.foldl (fun t r => clusterReplica x off bs (last r) time cs t r) s)

/-! Chunks in flight (R216, R231). -/

/-- Replaces a chunk's record. -/
def setFlight (x : Nat) (f : Flight) (s : State) : State :=
  updColl x (fun g => { g with inflight := g.inflight.map fun e => if e.chunk = f.chunk then f else e }) s

def Coll.flight (g : Coll) (k : Nat) : Option Flight := g.inflight.find? fun f => f.chunk == k

/-- Bytes of working state that a chunk needs. -/
def Coll.need (g : Coll) : Nat := g.hdr.working g.express (contributors g.members).length

/-- Device address of staging buffer `b` of pool `k`. -/
def stagingAddr (s : State) (k b : Nat) : Nat := poolRegion s k + b * chunkBytes s k

/-- The engine reads the working state of chunk `k` (R51, R216), checked like any access. -/
def stagingRead (x k : Nat) (s : State) : AccRes × State :=
  let g := s.coll x
  match (g.flight k).bind Flight.buf with
  | none => (.data [], s)
  | some b => readParts (fun _ _ n s => (List.replicate n 0, s)) g.owner 0 (accParts s (stagingAddr s g.hdr.pool b) g.need true) s

/-- The engine writes the working state of chunk `k` (R51, R216, R251): the bytes are free, since the layout is not given. -/
def stagingWrite (x k : Nat) (s : State) : AccRes × State :=
  let g := s.coll x
  match (g.flight k).bind Flight.buf with
  | none => (.data [], s)
  | some b =>
    let (n, s) := s.fresh
    writeParts postPut g.owner 0 (accParts s (stagingAddr s g.hdr.pool b) g.need true)
      ((List.range g.need).map (Config.stagingByte n)) s

/-- What a staging access that did not bring its data does to the instance (R236). -/
def stagingFailed (x : Nat) (r : AccRes) (s : State) : State :=
  match r with
  | .refused _ => collAbort x clAccess 0x3FF [] s
  | .bad => collAbort x clUncorrectable 0x3FF [] s
  | _ => s

/-- A contribution joins the working state: what is there is read first, where there is any (DESIGN CHOICE, log entry 65). -/
def stagingJoin (x k : Nat) (s : State) : AccRes × State :=
  let g := s.coll x
  let d := g.hdr.dchunk g.express
  if g.data.any fun c => c.off / d == k then
    match stagingRead x k s with
    | (.data _, s) => stagingWrite x k s
    | r => r
  else stagingWrite x k s

/-- A packet that waits for chunk `k` joins the working state and its cells are released; a staging access that fails aborts. -/
def feedPacket (x k : Nat) (s : State) (id : Nat) : State :=
  match s.pkt id with
  | none => s
  | some p =>
    if collState s x ≠ xRunning then s
    else match stagingJoin x k s with
      | (.data _, s) =>
        let exact := kindOf p.hdr == .xpartial
        let data := if exact then
            (List.range ((p.payload.length - 40) / 40)).flatMap fun i => (p.payload.drop (40 + 40 * i)).take 36
          else p.payload.drop 16
        let s := updColl x (fun g => { g with
          waiting := g.waiting.filter (· != id)
          data := g.data ++ [⟨rankField p.payload, p.hdr.addr.toNat, data, exact⟩] }) s
        engineFree (s.coll x).owner id s
      | (r, s) => stagingFailed x r s

/-- Applies the packets that wait for chunk `k`: their data joins the working state and their cells are released. -/
def feedChunk (x k : Nat) (s : State) : State :=
  let g := s.coll x
  let d := g.hdr.dchunk g.express
  let mine := g.waiting.filter fun id => match s.pkt id with
    | some p => p.hdr.addr.toNat / d == k
    | none => false
  mine.foldl (feedPacket x k) s

/-- Chunk `k` takes its staging buffer where one has been granted (R216). -/
def claimStaging (x k : Nat) (s : State) : State :=
  let g := s.coll x
  match g.flight k with
  | none => s
  | some f =>
    if g.need = 0 ∨ f.buf.isSome then feedChunk x k s
    else
      let pool := g.hdr.pool
      let p := s.pool pool
      match p.granted.find? fun e => e.1 == g.owner && ((lookup p.words e.2).map BufWord.job) == some g.hdr.job with
      | none => s
      | some e =>
        let s := s.setPool pool { p with granted := p.granted.erase e }
        feedChunk x k (setFlight x { f with buf := some e.2 } s)

/-- Chunk `k` enters flight and asks for its staging buffer. -/
def openChunk (x k : Nat) (s : State) : State :=
  let g := s.coll x
  let s := updColl x (fun g => { g with inflight := g.inflight ++ [⟨k, none, 0, none, false, 0, false⟩] }) s
  let s := if g.need = 0 then s else poolAlloc g.hdr.pool g.owner 1 1 g.hdr.job s
  claimStaging x k s

/-- Whether the window has room (R231). -/
def Coll.room (g : Coll) : Bool := decide (g.inflight.length < (if g.express then 1 else g.hdr.maxinf))

/-- Chunks for which packets wait outside the window, the lowest first, enter while it has room. -/
def admitWaiting (x : Nat) : Nat → State → State
  | 0, s => s
  | fuel + 1, s =>
    let g := s.coll x
    let d := g.hdr.dchunk g.express
    let ks := (g.waiting.filterMap fun id => (s.pkt id).map fun p => p.hdr.addr.toNat / d).filter fun k => (g.flight k).isNone
    match ks with
    | [] => s
    | k :: rest =>
      if g.room && collState s x == xRunning then admitWaiting x fuel (openChunk x (rest.foldl min k) s) else s

/-- A chunk leaves flight (R231); after the last one the context drains (R221). -/
def leaveFlight (x k : Nat) (s : State) : State :=
  let g := s.coll x
  if collState s x ≠ xRunning then s
  else
    let s := match (g.flight k).bind Flight.buf with
      | some b => release g.hdr.pool b g.owner s
      | none => s
    let d := g.hdr.dchunk g.express
    let s := updColl x (fun g => { g with
      inflight := g.inflight.filter fun f => f.chunk != k, finished := g.finished ++ [k]
      data := g.data.filter fun c => c.off / d != k }) s
    let s := admitWaiting x 8 s
    if (s.coll x).finished.length = g.hdr.chunks g.express then enterColl xDraining x s else s

/-- Whether every contributor's data for chunk `k` has been accepted (R233). -/
def chunkComplete (g : Coll) (k : Nat) : Bool :=
  let h := g.hdr
  let d := h.dchunk g.express
  (contributors g.members).all fun r =>
    if h.oper = opBarrier then g.arrived.contains r
    else (g.data.filter fun c => c.rank == r && c.off / d == k).foldl (fun n c =>
      n + (if c.exact then c.bytes.length / 36 * h.esize else c.bytes.length)) 0 == h.chunkLen g.express k

/-- The 16 bytes of a contribution header (R217). -/
def contribHeader (h : GroupHdr) (rank : Nat) : List Byte :=
  toBytes 16 (h.sig + h.count <<< 32 + h.type <<< 64 + h.rop <<< 68 + h.oper <<< 72 + rank <<< 76)

/-- Sends chunk `k`'s partial to the parent (R217, R218, R232). -/
def sendPartial (x k : Nat) (s : State) : State :=
  let g := s.coll x
  let h := g.hdr
  let exact := h.mode == 1
  let step := s.get F.COLL_STEP_RUN x
  let body := partialBytes x g k
  let hdr := contribHeader h h.prank ++ (if exact then List.replicate 24 0 else [])
  let unit := if exact then 40 * (if g.express then 5 else 101) else if g.express then 240 else 4080
  let packets := max 1 (ceilDiv body.length unit)
  let base := k * h.dchunk g.express
  let s := iterate packets (fun i t =>
    let part := (body.drop (i * unit)).take unit
    let off := base + (if exact then i * unit / 40 * h.esize else i * unit)
    inject g.owner (x * 2 ^ 32 + 1023) h.job
      (collHeader t h.parent g.contribClass (if exact then 0x0A else 0x09) h.pctx step off i (hdr.length + part.length) x)
      (hdr ++ part) t) s
  match g.flight k with
  | none => s
  | some f =>
    let s := match f.buf with
      | some b => release h.pool b g.owner s
      | none => s
    setFlight x { f with buf := none, upward := true } s

/-- Cycles of an express reducer from the last contribution to its result (R269). -/
def expressCycles (g : Coll) : Nat := 4 * log2Up (contributors g.members).length + (if g.hdr.mode = 1 then 54 else 0)

/-- The time to an express result is measured (R246): what R269 gives, and a wait that no rule gives. -/
def noteLatency (g : Coll) (s : State) : State :=
  let n := g.hdr.engine / 5
  let (i, s) := s.fresh
  s.set F.XRED_HWLAT_CYCLES (max (s.get F.XRED_HWLAT_CYCLES n) (saturate 16 (expressCycles g + Config.expressWait i))) n

/-- A chunk's next result packet waits: where it waits for cells, once in pool 0's POOL_CNT_WAIT (R127). -/
def noteCellWait (x : Nat) (f : Flight) (lacks : Bool) (s : State) : State :=
  if lacks && !f.counted then setFlight x { f with counted := true } (s.bump F.POOL_CNT_WAIT_COUNT 1 0) else setFlight x f s

/-- Whether a result packet for these ranks waits for pool 0 cells. -/
def lacksCells (x : Nat) (ranks : List Nat) (len : Nat) (s : State) : Bool :=
  let g := s.coll x
  (resultCells g (ranks.filter fun r => !g.fenced.contains r).length len s).isNone

/-- Issues the result packets of chunk `k` that can be issued now. -/
def issueChunk (x k : Nat) (s : State) : State :=
  let g := s.coll x
  let h := g.hdr
  let ms := g.members
  match g.flight k with
  | none => s
  | some f =>
    let t := (s.nowNs + h.lead) % 2 ^ 64
    let time := if h.oper = opBarrier then some (f.time.getD t) else none
    let rows := if h.oper = opBarrier then (toBytes 8 (f.time.getD t), []) else if h.oper = opAllGather then ([], []) else combineChunk x g k
    let packets := chunkPackets h g.express ms k
    let bytes := fun (p : Piece) =>
      ((if p.src = 0 then rows.1 else if p.src = 1 then rows.2 else rankBytes g k (p.src - 2)).drop p.lo).take p.n
    let last := fun (u : State) (r : Nat) =>
      decide ((lookup (u.coll x).streams r).getD 0 + 1 = streamLength h g.express ms r)
    let s := if g.express ∧ f.issued = 0 then noteLatency g s else s
    let (s, n, _) := (packets.drop f.issued).foldl (fun (u, n, going) p =>
      if going && collState u x == xRunning then
        match issueResult x p.ranks p.off (bytes p) (last u) time none u with
        | some u => (u, n + 1, true)
        | none => (u, n, false)
      else (u, n, false)) (s, f.issued, true)
    if collState s x ≠ xRunning then s
    else if n = packets.length then leaveFlight x k s
    else
      let lacks := match packets[n]? with
        | some p => lacksCells x p.ranks (bytes p).length s
        | none => false
      noteCellWait x { f with issued := n, time := time, counted := f.counted && n == f.issued } lacks s

/-- Chunk `k` of a running instance has been combined (R232, R233). `err` is a rank, or 0x3FF, whose data met an
uncorrectable word in the engine's memories (R236, R489). -/
def chunkCombined (x k : Nat) (err : Option Nat) (s : State) : State :=
  let g := s.coll x
  match g.flight k with
  | none => s
  | some f =>
    if collState s x ≠ xRunning then s
    else match err with
      | some r => collAbort x clUncorrectable r [] (s.uncorrectable 9 g.hdr.engine 0)
      | none =>
        if f.upward || !chunkComplete g k || (g.need != 0 && f.buf.isNone) then s
        else match s.touch 9 g.hdr.engine 0 (· == .context x) with
        | (true, s) => collAbort x clUncorrectable 0x3FF [] (s.heal (· == .context x))
        | (false, s) =>
        match stagingRead x k s with
          | (.data _, s) => if g.hdr.hasParent then sendPartial x k s else issueChunk x k s
          | (r, s) => stagingFailed x r s

def execChunkCombined (x : CtxId) (k : BitVec 32) (err : Option (BitVec 10)) (s : State) : Res :=
  ok (chunkCombined x k.toNat (err.map BitVec.toNat) s)

/-! Acceptance (R219, R220). -/

/-- Bytes of contribution that a packet carries. -/
def dataLength (h : GroupHdr) (k : Pkt) : Nat :=
  if kindOf k.hdr = .xpartial then (k.payload.length - 40) / 40 * h.esize else k.payload.length - 16

/-- Whether a packet comes from the member of an entry. -/
def fromMember (m : Member) (k : Pkt) : Bool :=
  if m.kind = 1 then k.src == .injector (0x060 + m.id) else k.hdr.src.toNat == m.id

/-- Whether KIND fits the entry. -/
def kindFits (h : GroupHdr) (m : Member) (k : Pkt) : Bool :=
  match kindOf k.hdr with
  | .contrib => m.kind != 2
  | .partial_ => m.kind == 2 && h.mode == 0
  | .xpartial => m.kind == 2 && h.mode == 1
  | _ => false

/-- The checks of R219 after STEP; none where the packet passes. -/
def acceptFault (g : Coll) (k : Pkt) : Option Nat :=
  let h := g.hdr
  let exact := kindOf k.hdr == .xpartial
  let r := rankField k.payload
  let m := memberAt g.members r
  let e := h.esize
  let o := k.hdr.addr.toNat
  let n := dataLength h k
  let d := h.dchunk g.express
  if k.payload.length < (if exact then 40 else 16) then some 5
  else if g.members.length ≤ r || !m.c || !fromMember m k || !kindFits h m k then some 1
  else if o % e != 0 || n % e != 0 || decide (h.bytes < o + n) || (n == 0) != (h.oper == opBarrier) ||
      (n != 0 && o / d != (o + n - 1) / d) || (exact && (k.payload.length % 40 != 0 ||
        (List.range (k.payload.length / 40 - 1)).any fun i => !recordOk h.type ((k.payload.drop (40 + 40 * i)).take 40))) then some 5
  else if g.got.any fun x => x.1 == r && decide (x.2.1 < o + n ∧ o < x.2.1 + x.2.2) then some 4
  else none

/-- The field in which an accepted packet differs from the descriptor (R220, R236), 0 for none. -/
def mismatch (h : GroupHdr) (payload : List Byte) : Nat :=
  let v := ofBytes (payload.take 16)
  if fieldOf v 0 32 ≠ h.sig then 1
  else if fieldOf v 32 32 ≠ h.count then 2
  else if fieldOf v 64 4 ≠ h.type then 3
  else if fieldOf v 68 4 ≠ h.rop then 4
  else if fieldOf v 72 4 ≠ h.oper then 5
  else 0

/-- A packet that the engine holds and that belongs to the running instance: checked, then accepted or discarded. -/
def collTake (x id : Nat) (s : State) : State :=
  let g := s.coll x
  match s.pkt id with
  | none => s
  | some k =>
    if collState s x ≠ xRunning ∧ collState s x ≠ xDraining then collDiscard x g.owner 7 id k s
    else match acceptFault g k with
      | some reason => collDiscard x g.owner reason id k s
      | none =>
        let h := g.hdr
        let r := rankField k.payload
        let f := mismatch h k.payload
        let s := contribAck k s
        if f ≠ 0 then collAbort x clMismatch (r + f <<< 10) [r] (engineFree g.owner id s)
        else if h.oper = opBarrier then
          let s := engineFree g.owner id s
          if g.arrived.contains r then s
          else
            let s := updColl x (fun g => { g with arrived := g.arrived ++ [r] }) s
            if (g.flight 0).isSome || g.finished.contains 0 then s else openChunk x 0 s
        else
          let o := k.hdr.addr.toNat
          let got := g.got ++ [(r, o, dataLength h k)]
          let whole := (got.filter fun e => e.1 == r).foldl (fun n e => n + e.2.2) 0 == h.bytes
          let s := updColl x (fun g => { g with
            got := got, arrived := if whole then g.arrived ++ [r] else g.arrived, waiting := g.waiting ++ [id] }) s
          let c := o / h.dchunk g.express
          if (g.flight c).isSome then claimStaging x c s
          else if g.room then openChunk x c s
          else s

/-- Enters RUNNING (R221, R390); early packets of the step come first, in order of arrival (R225). -/
def collStart (x : Nat) (s : State) : State :=
  let g := s.coll x
  let ((seed, step), s) := jobLatch g.hdr.job s
  let run := s.get F.COLL_STEP_RUN x
  let now := g.early.filter fun id => ((s.pkt id).map fun k => k.hdr.step.toNat) == some run
  let s := s.setColl x { g with
    inflight := [], finished := [], data := [], got := [], waiting := [], arrived := [], fenced := [], replicas := 0
    serial := s.net.nextPkt, streams := [], seed := seed, step := step, since := s.ticks, outcome := none
    early := g.early.filter fun id => !now.contains id }
  now.foldl (fun t id => collTake x id t) (enterColl xRunning x s)

/-- A start action (R222); answers whether it acted. -/
def startAction (x : Nat) (s : State) : Bool × State :=
  if collState s x = xIdle ∧ (s.coll x).hdr.cued then (true, collStart x s) else (false, s)

/-- A collective packet reaches its context (R219, R225): the checks up to STEP, then early, started or taken. -/
def collReceive (id : Nat) (k : Pkt) (s : State) : State :=
  let x := k.hdr.ctx.toNat
  let g := s.coll x
  let st := collState s x
  let run := s.get F.COLL_STEP_RUN x
  let ahead := (k.hdr.step.toNat + 65536 - run) % 65536
  if st ≠ xIdle ∧ st ≠ xRunning ∧ st ≠ xDraining then collDiscard x ownerDevRx 7 id k { s with net.devRx := s.net.devRx.filter (· != id) }
  else
    let drop := fun (reason : Nat) => collDiscard x ownerDevRx reason id k { s with net.devRx := s.net.devRx.filter (· != id) }
    if k.hdr.cls.toNat ≠ g.contribClass then drop 6
    else if 1 < ahead then drop 2
    else if ahead = 1 ∨ (st = xIdle ∧ g.hdr.cued) then
      if 64 ≤ g.early.length then drop 3
      else updColl x (fun g => { g with early := g.early ++ [id] }) (engineTake g.owner id s)
    else if st = xIdle then
      match acceptFault { g with got := [] } k with
      | some reason => drop reason
      | none => collTake x id (engineTake g.owner id (collStart x s))
    else collTake x id (engineTake g.owner id s)

/-- A packet for the device whose cells give an uncorrectable word is dropped (R489, class 0); a contribution of a cluster's stevedore ends its
macro-op with UNCORRECTABLE (R331). -/
def cellLost (id : Nat) (k : Pkt) (s : State) : State :=
  contribLost k (dropRef id ownerDevRx { countDrop k.hdr 3 s with net.devRx := s.net.devRx.filter (· != id) })

/-- Handles the packet at place `i` of the device-receive path, if it is of kind `want`. -/
def collPacket (want : Kind) (handle : Nat → Pkt → State → State) (i : Nat) (s : State) : State :=
  match devRxAt s i with
  | none => s
  | some (id, k) =>
    if kindOf k.hdr ≠ want then s
    else match s.touch 0 0 id (· == .packet id) with
      | (true, s) => cellLost id k s
      | (false, s) => handle id k s

def execContrib (i : BitVec 12) (s : State) : Res := ok (collPacket .contrib collReceive i.toNat s)

def execPartial (i : BitVec 12) (s : State) : Res := ok (collPacket .partial_ collReceive i.toNat s)

def execXpartial (i : BitVec 12) (s : State) : Res := ok (collPacket .xpartial collReceive i.toNat s)

/-- A RESULT or CERR is discarded with a reason. -/
def dropCollPacket (reason id : Nat) (k : Pkt) (s : State) : State :=
  devRxDone id (collBad k.hdr.ctx.toNat reason 0 s)

/-- Whether the cells of a parent's packet take `n` sharers (R137, R229); the engine adds the references. -/
def shareCells (owner n : Nat) (cells : List Nat) (s : State) : Bool × State :=
  if n ≤ 1 then (true, s)
  else cells.foldl (fun (good, t) b => let (g, t) := addRef 0 b (n - 1) owner t; (good && g, t)) (true, s)

/-- A RESULT from the parent (R229): checked, then its cells go to this device's destinations. -/
def resultRx (id : Nat) (k : Pkt) (s : State) : State :=
  let x := k.hdr.ctx.toNat
  let g := s.coll x
  let h := g.hdr
  let st := collState s x
  if st ≠ xIdle ∧ st ≠ xRunning ∧ st ≠ xDraining then dropCollPacket 7 id k s
  else if h.hasParent = false ∨ k.hdr.src.toNat ≠ h.parent then dropCollPacket 1 id k s
  else if st ≠ xRunning ∨ k.hdr.step.toNat ≠ s.get F.COLL_STEP_RUN x then dropCollPacket 2 id k s
  else
    let ms := g.members
    let off := k.hdr.addr.toNat
    let c := if h.oper = opBarrier then 0 else off / h.dchunk g.express
    let rs := receivers ms
    let live := (rs.filter fun r => !g.fenced.contains r).length
    let lastBit := k.hdr.seq.toNat.testBit 31
    let time := if h.oper = opBarrier then some (ofBytes (k.payload.take 8)) else none
    let wait := rs.any fun r => (memberAt ms r).kind == 1 && !g.fenced.contains r &&
      (engineWrite g.owner (resultAddr (memberAt ms r) off) k.payload s).1 == .wait
    if wait then s
    else
      let s := engineTake g.owner id s
      let cells := if g.express then [] else k.cells
      let (good, s) := shareCells g.owner live cells s
      if good = false then collAbort x clPoolRef 0x3FF [] (engineFree g.owner id s)
      else
        let s := if live = 0 then engineFree g.owner id s
          else reapPkt id ((cells.foldl (fun t b => passBuffer 0 b ownerEgress g.owner t) s).setPkt id
            { (s.pkt id).getD k with cells := [], refs := 0 })
        match issueResult x rs off k.payload (fun _ => lastBit) time (some cells) s with
        | none => s
        | some s =>
          match (s.coll x).flight c with
          | none => s
          | some f =>
            let n := f.replicated + k.payload.length
            let whole := if h.oper = opBarrier then 8 else h.chunkLen g.express c
            if collState s x ≠ xRunning then s
            else if whole ≤ n then leaveFlight x c s
            else setFlight x { f with replicated := n } s

def execResult (i : BitVec 12) (s : State) : Res := ok (collPacket .result resultRx i.toNat s)

/-- An error packet (R236 to R238). -/
def cerrRx (id : Nat) (k : Pkt) (s : State) : State :=
  let x := k.hdr.ctx.toNat
  let g := s.coll x
  let st := collState s x
  let src := k.hdr.src.toNat
  let status := fieldOf (ofBytes (k.payload.take 8)) 0 8
  let child := (List.range g.members.length).find? fun r =>
    (memberAt g.members r).kind == 2 && (memberAt g.members r).id == src
  if st ≠ xIdle ∧ st ≠ xRunning ∧ st ≠ xDraining then dropCollPacket 7 id k s
  else if !(g.hdr.hasParent && src == g.hdr.parent) && child.isNone then dropCollPacket 1 id k s
  else if k.hdr.step.toNat ≠ s.get F.COLL_STEP_RUN x then dropCollPacket 2 id k s
  else if st = xIdle then dropCollPacket 7 id k s
  else
    let s := devRxDone id s
    match child with
    | some r => collAbort x clChild (r + status <<< 10) [] s
    | none => collAbort x clParent status [] s

def execCerr (i : BitVec 12) (s : State) : Res := ok (collPacket .cerr cerrRx i.toNat s)

/-! Ends of instances (R221, R230, R241, R242). -/

/-- How often a rank was last in. -/
def lastIns (history : List Nat) (r : Nat) : Nat := (history.filter (· == r)).length

/-- WINDOW as it acts (R245). -/
def stragWindow (s : State) (x : Nat) : Nat :=
  let w := s.get F.COLL_STRAG_WINDOW x
  if w = 0 ∨ 64 < w then 64 else w

/-- Marks or clears one rank (R242). -/
def stragMark (x job : Nat) (history : List Nat) (s : State) (r : Nat) : State :=
  let n := lastIns history r
  let w := s.get F.COLL_SUSPECT_RANKS x (r / 32)
  let thresh := s.get F.COLL_STRAG_THRESH x
  if w.testBit (r % 32) then
    if n < s.get F.COLL_STRAG_CLRTHR x then
      (s.set F.COLL_SUSPECT_RANKS (w - 2 ^ (r % 32)) x (r / 32)).event 0x07 3 job x [r, n]
    else s
  else if thresh ≠ 0 ∧ thresh ≤ n then
    (s.set F.COLL_SUSPECT_RANKS (w ||| 2 ^ (r % 32)) x (r / 32)).event 0x07 2 job x [r, n]
  else s

/-- Records the arrival order of an instance (R241, R242). -/
def recordArrivals (x : Nat) (s : State) : State :=
  let g := s.coll x
  let order := g.arrived
  let s := iterate 296 (fun w t =>
    (t.set F.COLL_ARRORD_FIRST (order.getD (2 * w) 0) x w).set F.COLL_ARRORD_SECOND (order.getD (2 * w + 1) 0) x w) s
  match order.getLast? with
  | none => s
  | some r =>
    let history := (r :: g.history).take (stragWindow s x)
    let s := updColl x (fun g => { g with history := history }) s
    let s := (s.set F.COLL_LASTIN_RANK r x).set F.COLL_LASTIN_RECORDED history.length x
    (List.range g.members.length).foldl (stragMark x g.hdr.job history) s

/-- Bits of a word of a rank bitmap. -/
def rankWord (ranks : List Nat) (w : Nat) : Nat := bitsOf 32 fun i => ranks.contains (32 * w + i)

/-- Releases the early list (R224). -/
def releaseEarly (x : Nat) (s : State) : State :=
  let g := s.coll x
  let s := g.early.foldl (fun t id =>
    match t.pkt id with
    | some k => contribAck k (engineFree g.owner id t)
    | none => t) s
  updColl x (fun g => { g with early := [] }) s

/-- DESTROYING begins. -/
def beginDestroy (x : Nat) (s : State) : State := enterColl xDestroying x (releaseEarly x s)

/-- An instance ends (R209, R221, R230): its record, its event, the next step value, and IDLE, which an AUTO context with early
packets leaves at once. -/
def endInstance (x status detail : Nat) (ranks : List Nat) (s : State) : State :=
  let g := s.coll x
  let h := g.hdr
  let step := s.get F.COLL_STEP_RUN x
  let s := (s.set F.COLL_LASTST_STATUS status x).set F.COLL_LASTST_DETAIL detail x
  let s := iterate 19 (fun w t => t.set F.COLL_LIST_RANKS (rankWord ranks w) x w) s
  let s := (s.set F.COLL_STEP_DONE step x).set F.COLL_STEP_RUN ((step + 1) % 65536) x
  let s := s.bump F.COLL_CNT_INST_COUNT 1 x
  let aborted := status ≠ 0 ∧ status ≠ clFenced
  let s := if aborted then s.bump F.COLL_CNT_ERR_COUNT 1 x else s
  let s := if status = clFenced then s.bump F.COLL_CNT_FENCED_COUNT 1 x else s
  let s := if g.express then s.bump F.XRED_CNT_INST_COUNT 1 (h.engine / 5) else s
  let s := if g.express ∧ h.mode = 1 then s.bump F.XRED_CNT_EXACT_COUNT 1 (h.engine / 5) else s
  let s := if status ≠ 0 ∨ s.flag F.COLL_CTL_EVTOK x then s.event 0x07 1 h.job x [step, status + (detail % 2 ^ 24) <<< 8] else s
  let s := if aborted then s else recordArrivals x s
  let s := enterColl xIdle x (updColl x (fun g => { g with outcome := none, serial := 0, waiting := [], data := [] }) s)
  let g := s.coll x
  if g.destroy.isSome then beginDestroy x s
  else if !h.cued && g.early.any fun id => ((s.pkt id).map fun k => k.hdr.step.toNat) == some ((step + 1) % 65536) then
    collStart x s
  else s

/-- Every replica has finished or been discarded (R221, R239). -/
def drainDone (x : Nat) (s : State) : State :=
  let g := s.coll x
  if collState s x = xDraining ∧ g.replicas = 0 then
    if g.fenced.isEmpty then endInstance x 0 0 [] s else endInstance x clFenced g.fenced.length g.fenced s
  else s

def execDrainDone (x : CtxId) (s : State) : Res := ok (drainDone x s)

/-- The error packets of an abort have been handed on and everything is released (R237). -/
def abortDone (x : Nat) (s : State) : State :=
  let g := s.coll x
  match g.outcome with
  | none => s
  | some (status, detail, ranks) =>
    let left := (lookup s.net.injq g.owner).getD []
    if collState s x = xAborting ∧ left.all (fun k => !(k.hdr.kind == 0x0C && k.hdr.flow.toNat == x)) then
      endInstance x status detail ranks s
    else s

def execAbortDone (x : CtxId) (s : State) : Res := ok (abortDone x s)

/-- Ranks whose contribution is not complete. -/
def missingRanks (g : Coll) : List Nat := (contributors g.members).filter fun r => !g.arrived.contains r

/-- TMO µs after RUNNING (R223). -/
def instanceTimeout (x : Nat) (s : State) : State :=
  let g := s.coll x
  let tmo := g.hdr.tmo
  if collState s x = xRunning ∧ tmo ≠ 0 ∧ s.passedUs g.since tmo then
    let miss := missingRanks g
    collAbort x clTimeout (miss.headD 0x3FF + (miss.length % 1024) <<< 10) miss s
  else s

def execInstanceTimeout (x : CtxId) (s : State) : Res := ok (instanceTimeout x s)

/-- A write of COLL_CTL.START (R222). -/
def collStartWrite (mid x : Nat) (s : State) : State :=
  match startAction x s with
  | (true, s) => s
  | (false, s) => s.reject mid (R.COLL_CTL.addr x 0)

def execCollStart (m : MasterId) (x : CtxId) (s : State) : Res := ok (collStartWrite m.toNat x s)

/-- A write of COLL_CTL.ABORT (R224). -/
def collAbortWrite (x : Nat) (s : State) : State :=
  if collState s x = xRunning then collAbort x clHostAbort 0 [] s else s

def execCollAbort (x : CtxId) (s : State) : Res := ok (collAbortWrite x s)

/-- A write of COLL_STRAG (R242). -/
def stragWrite (x v : Nat) (s : State) : State :=
  let s := ((s.set F.COLL_STRAG_WINDOW v x).set F.COLL_STRAG_THRESH (v / 256) x).set F.COLL_STRAG_CLRTHR (v / 65536) x
  let s := iterate 19 (fun w t => t.set F.COLL_SUSPECT_RANKS 0 x w) s
  (updColl x (fun g => { g with history := [] }) s).set F.COLL_LASTIN_RECORDED 0 x

def execCollStragWrite (x : CtxId) (v : Word) (s : State) : Res := ok (stragWrite x v.toNat s)

/-- A write of 1 to COLL_CNT_CLR (R245). -/
def collCntClr (x : Nat) (s : State) : State :=
  s.zeroAll [R.COLL_CNT_INST, R.COLL_CNT_ERR, R.COLL_CNT_FENCED, R.COLL_CNT_BADPKT, R.COLL_BADREC] x

def execCollCntClr (x : CtxId) (s : State) : Res := ok (collCntClr x s)

/-- A write of 1 to XRED_CNT_CLR (R246). -/
def xredCntClr (n : Nat) (s : State) : State :=
  s.zeroAll [R.XRED_CNT_INST, R.XRED_CNT_EXACT, R.XRED_CNT_LANEHOLD, R.XRED_HWLAT] n

def execXredCntClr (n : Fin 4) (s : State) : Res := ok (xredCntClr n s)

/-! Groups (R215, R224). -/

/-- GROUP_CREATE (R215): a free context enters LOADING; another refuses the descriptor. -/
def groupCreate (cmd : CmdRef) (d : Desc) (s : State) : State :=
  let x := d.word 1 % 4096
  let len := d.word 4
  if len < 64 then complete cmd csBadDesc 0 4 [] s
  else if collState s x = xFree then
    enterColl xLoading x (updColl x (fun g => { g with create := some (cmd, d.pair 2 % 2 ^ 48, len) }) s)
  else match memRead 0 (d.pair 2 % 2 ^ 48) 64 0 s with
    | (.data bs, s) =>
      let n := 64 + 16 * fieldOf (ofBytes ((bs.drop 4).take 4)) 0 10
      if len = n then complete cmd csRefused 1 0 [] s else complete cmd csBadDesc 0 4 [] s
    | (_, s) => complete cmd csRefused 1 0 [] s

def execGroupCreate (r : RingId) (i : BitVec 8) (s : State) : Res :=
  let cmd := nthDesc s r i
  ok (startDesc 0x05 cmd (groupCreate cmd) s)

/-- Bytes as 32-bit words. -/
def wordsOf (bs : List Byte) : List Word :=
  (List.range (bs.length / 4)).map fun i => BitVec.ofNat 32 (ofBytes ((bs.drop (4 * i)).take 4))

/-- A load that fails leaves the context FREE. -/
def failLoad (x : Nat) (cmd : CmdRef) (status code detail : Nat) (s : State) : State :=
  complete cmd status code detail [] (enterColl xFree x (updColl x (fun g => { g with create := none }) s))

/-- The descriptor has been read and is checked (R215, R221). -/
def groupLoaded (x : Nat) (s : State) : State :=
  match (s.coll x).create with
  | none => s
  | some (cmd, addr, len) =>
    if collState s x ≠ xLoading then s
    else match memRead 0 addr 64 0 s with
      | (.wait, _) => s
      | (.refused _, s) | (.bad, s) => failLoad x cmd csRefused 8 0 s
      | (.data hb, s1) =>
        let hw := wordsOf hb
        if len ≠ 64 + 16 * fieldOf (hw.getD 1 0).toNat 0 10 then failLoad x cmd csBadDesc 0 4 s1
        else match memRead 0 addr len 0 s1 with
          | (.wait, _) => s
          | (.refused _, s) | (.bad, s) => failLoad x cmd csRefused 8 0 s
          | (.data bs, s) =>
            let ws := wordsOf (bs.drop 64)
            let es := (List.range (ws.length / 4)).map fun i => (ws.drop (4 * i)).take 4
            match groupRefusal s x hw es with
            | 0 =>
              let h := groupHdr hw
              let express := takesExpress s h
              let s := updColl x (fun g => { Coll.initial with header := hw, entries := es, express := express, history := g.history }) s
              let s := ((s.set F.COLL_STATE_EXPRESS (b2n express) x).set F.COLL_STATE_JOB h.job x).set F.COLL_STEP_RUN h.step0 x
              let s := (s.wr R.COLL_DESC0 x 0 (hw.getD 0 0).toNat).wr R.COLL_DESC1 x 0 (hw.getD 1 0).toNat
              complete cmd csOk 0 0 [] (settleEngine h.engine (enterColl xIdle x s))
            | code => failLoad x cmd csRefused code 0 s

def execGroupLoaded (x : CtxId) (s : State) : Res := ok (groupLoaded x s)

/-- GROUP_DESTROY (R224). -/
def groupDestroy (cmd : CmdRef) (d : Desc) (s : State) : State :=
  let x := d.word 1 % 4096
  let st := collState s x
  let mark := updColl x (fun g => { g with destroy := some cmd })
  if st = xIdle then beginDestroy x (mark s)
  else if st = xRunning ∨ st = xDraining then collAbort x clHostAbort 0 [] (mark s)
  else complete cmd csState 0 0 [] s

def execGroupDestroy (r : RingId) (i : BitVec 8) (s : State) : Res :=
  let cmd := nthDesc s r i
  ok (startDesc 0x06 cmd (groupDestroy cmd) s)

/-- Everything is released and the context is FREE (R221). -/
def destroyDone (x : Nat) (s : State) : State :=
  if collState s x ≠ xDestroying then s
  else
    let g := s.coll x
    let s := enterColl xFree x ((s.setColl x { Coll.initial with history := g.history }).zero R.COLL_STATE x)
    let s := settleEngine g.hdr.engine s
    match g.destroy with
    | some cmd => complete cmd csOk 0 0 [s.get F.COLL_STEP_DONE x] s
    | none => s

def execDestroyDone (x : CtxId) (s : State) : Res := ok (destroyDone x s)

/-! Allocations that wait (R134). -/

/-- Running instances take staging buffers that have been granted. -/
def claimAll (s : State) : State :=
  s.colls.foldl (fun t e =>
    if collState t e.1 = xRunning then
      ((t.coll e.1).inflight.map Flight.chunk).foldl (fun u k => claimStaging e.1 k u) t
    else t) s

/-- A reduction engine is OFF after 1 ms without a context and a cue engine (R525). -/
def execEngineIdleOff (n : StackId) (s : State) : Res :=
  match lookup s.timers (engineTimer n) with
  | some t =>
    if engineNeeded s n = false ∧ s.passedUs t 1000 then ok (s.set F.PWR_DOM_STATE 0 0 (140 + n)) else ok s
  | none => ok s

end Sys2Proof.Machine
end

