-- ==== Sys2Proof/Machine/Power.lean ====
section
/-! DEFINITION. Power domains, stage-die frequency and voltage, thermal control and clock locks (R524 to R542). -/

namespace Sys2Proof.Machine

/-! Frequency and voltage (R530 to R532). -/

def State.die (s : State) (n : Nat) : DieClk := (lookup s.dies n).getD ⟨0, 0, 0, 0⟩

def State.setDie (s : State) (n : Nat) (d : DieClk) : State := { s with dies := place s.dies n d }

/-- CALMAX, in MHz. -/
def calMax (s : State) : Nat := if s.flag F.CAL_STATUS_VALID then 1800 else 1200

/-- The voltage of point `k` of a die's table, in mV (R531, R549, R552). -/
def pointMv (s : State) (n k : Nat) : Nat :=
  if s.flag F.CAL_STATUS_VALID then
    let a := 0x14000 + 40 * n + 4 * k
    (calByte s a + 256 * calByte s (a + 1)) % 1024
  else 800

/-- The voltage that a frequency needs: that of the lowest point at or above it. -/
def needMv (s : State) (n mhz : Nat) : Nat := pointMv s n (ceilDiv (mhz - 900) 100)

/-- F of a stage die (R530). -/
def goalMhz (s : State) (n : Nat) : Nat :=
  let t := max 900 (s.get F.CLK_STG_TARGET_MHZ 0 n / 25 * 25)
  min t (min (s.get F.CLK_STG_STATUS_CAP 0 n) (calMax s))

/-- The frequency of a die now: while it slews, 50 MHz per µs from where the slew began. -/
def curMhz (s : State) (n : Nat) : Nat :=
  let d := s.die n
  let c := s.get F.CLK_STG_STATUS_CUR 0 n
  let moved := s.elapsed d.since / 2
  if d.phase = 2 then min d.goal (c + moved)
  else if d.phase = 3 then max d.goal (c - moved)
  else c

/-- The rail request is the highest voltage that any die needs (R532); a new one goes out on STG_VID with a strobe (R567). -/
def requestRail (s : State) : State :=
  let mv := ((List.range 20).map fun n => s.get F.CLK_STG_MV_MV 0 n).foldl max 0
  if s.get F.CLK_VDDSTG_REQ = mv then s
  else { s.set F.CLK_VDDSTG_REQ mv with board.vid := (mv - 500) / 5, board.strobes := s.board.strobes + 1 }

/-- F of a die may have changed: the change takes over from the frequency reached (R531). -/
def startChange (n : Nat) (s : State) : State :=
  let d := s.die n
  let goal := goalMhz s n
  let cur := curMhz s n
  if goal = d.goal ∧ d.phase ≠ 0 then s
  else
    let s := s.set F.CLK_STG_STATUS_CUR cur 0 n
    let enter := fun (phase mv : Nat) =>
      requestRail (((s.setDie n { d with phase := phase, goal := goal, since := s.ticks }).set F.CLK_STG_STATUS_SLEW
        (if phase = 0 then 0 else 1) 0 n).set F.CLK_STG_MV_MV mv 0 n)
    if cur < goal then enter 1 (max (needMv s n goal) (needMv s n cur))
    else if goal < cur then enter 3 (needMv s n cur)
    else enter 0 (needMv s n goal)

/-- A write of CLK_STG_TARGETn has been taken. -/
def targetWrite (n : Nat) (v : Nat) (s : State) : State := startChange n (s.set F.CLK_STG_TARGET_MHZ v 0 n)

def execStgTargetWrite (n : StackId) (mhz : BitVec 12) (s : State) : Res := ok (targetWrite n mhz.toNat s)

/-- VSETTLE µs after a voltage raise the PLL begins to slew up (R531). -/
def execVsettleDone (n : StackId) (s : State) : Res :=
  let d := s.die n
  if d.phase = 1 ∧ s.passedUs d.since (max 1 (s.get F.CLK_VSETTLE_US)) then
    ok (s.setDie n { d with phase := 2, since := s.ticks })
  else ok s

/-- The PLL reaches the new frequency; when lowering, the voltage request falls (R531). -/
def execSlewDone (n : StackId) (s : State) : Res :=
  let d := s.die n
  if 2 ≤ d.phase ∧ curMhz s n = d.goal then
    let s := (s.set F.CLK_STG_STATUS_CUR d.goal 0 n).set F.CLK_STG_STATUS_SLEW 0 0 n
    ok (requestRail ((s.set F.CLK_STG_MV_MV (needMv s n d.goal) 0 n).setDie n { d with phase := 0 }))
  else ok s

/-! Thermal control (R534 to R537). -/

/-- The sensors of a die, in the order of `State.heat`, and none for a stack. -/
def sensorsOf (g : Nat) : List Nat :=
  if g < 20 then (List.range 6).map (6 * g + ·)
  else if g < 40 then [120 + 2 * (g - 20), 121 + 2 * (g - 20)]
  else if g < 56 then [160 + 2 * (g - 40), 161 + 2 * (g - 40)]
  else if g < 60 then [192 + (g - 56)]
  else if g < 64 then [196 + (g - 60)]
  else []

/-- The stage die concerned by a die or stack (R535). -/
def concerned (g : Nat) : Option Nat :=
  if g < 20 then some g
  else if g < 40 then some (g - 20)
  else if 64 ≤ g ∧ g < 84 then some (g - 64)
  else none

/-- Thermal state of a die or stack. -/
def heatOf (s : State) (g : Nat) : Nat := (lookup s.heat g).getD 0

/-- A sensor's temperature in 0.25 °C. -/
def sensorTemp (s : State) (i : Nat) : Int := signed 11 (s.get F.PWR_TS_TEMP 0 i)

/-- The hottest reading of a die or stack in 0.25 °C, with the number of R540. -/
def hottest (s : State) (g : Nat) : Nat × Int :=
  if 64 ≤ g then (0x100 + (g - 64), (4 * s.get F.STK_STATUS_TEMP (g - 64) : Nat))
  else
    (sensorsOf g).foldl (fun b i => if b.2 < sensorTemp s i then (i, sensorTemp s i) else b)
      ((sensorsOf g).headD 0, sensorTemp s ((sensorsOf g).headD 0))

/-- The threshold of a state in 0.25 °C; a stack has no CRITICAL. Without a valid calibration set logic limits are 3 °C
lower (R534). -/
def threshold (s : State) (g level : Nat) : Int :=
  let q := fun (n : Nat) => ((4 * n : Nat) : Int)
  if 64 ≤ g then
    match level with
    | 1 => q (s.get F.PWR_TLIMS_SWARN)
    | 2 => q (s.get F.PWR_TLIMS_STHROT)
    | 3 => q 1000
    | _ => q (s.get F.PWR_TLIMS_STRIP)
  else
    let low : Int := if s.flag F.CAL_STATUS_VALID then 0 else 12
    match level with
    | 1 => q (s.get F.PWR_TLIM_WARN) - low
    | 2 => q (s.get F.PWR_TLIM_THROTTLE) - low
    | 3 => q (s.get F.PWR_TLIM_CRIT) - low
    | _ => q (s.get F.PWR_TLIM_TRIP) - low

/-- The state after a reading: raised at once, left once the reading has fallen HYST below the state's threshold. -/
def nextHeat (s : State) (g : Nat) (t : Int) : Nat :=
  let hyst : Int := 4 * (max 1 (s.get F.PWR_THYST_HYST) : Nat)
  (List.range 5).foldl (fun best l =>
    if l = 0 then best
    else if threshold s g l ≤ t ∨ (l ≤ heatOf s g ∧ !(64 ≤ g && l == 3) ∧ threshold s g l - hyst < t) then l else best) 0

/-- Whether a stage die is in THROTTLE or above (R535). -/
def throttled (s : State) (n : Nat) : Bool :=
  [n, 20 + n, 64 + n].any fun g => 2 ≤ heatOf s g

/-- The cap of a die changes (R536): applied under R531 and reported, with the scale table where its entry changes. -/
def setCap (n mhz : Nat) (s : State) : State :=
  if s.get F.CLK_STG_STATUS_CAP 0 n = mhz then s
  else
    let before := scaleWord s 0x14C
    let s := s.set F.CLK_STG_STATUS_CAP mhz 0 n
    let s := s.setDie n { s.die n with capAt := s.ticks }
    let s := startChange n (s.event 0x0C 2 0 n [n, mhz])
    if scaleWord s 0x14C = before then s else scaleChanged s

/-- A trip (R537): the thermal-trip output is active, every domain but the AON, management and security-root domains is OFF
with what it held, every port is DOWN and READY is 0. -/
def trip (s : State) : State :=
  let keep := fun d => (252 ≤ d && d < 260) || d == 261
  let s := iterate 512 (fun p s => if portState s p = 0 then s else downPort p s) s
  let s := iterate 80 (fun c s => if cluState s c = stMissing then s else (s.set F.CLU_STATUS_STATE 0 c).setClu c Clu.initial) s
  let s := iterate 262 (fun d s => if keep d then s else s.set F.PWR_DOM_STATE 0 0 d) s
  { s.set F.HIF_STATUS_READY 0 with board.thermTrip := true, mem := [], stackMem := [] }

/-- One die or stack takes its state from its reading (R535, R540). -/
def heatStep (g : Nat) (s : State) : State :=
  let (who, t) := hottest s g
  let old := heatOf s g
  let new := nextHeat s g t
  let s := (sensorsOf g).foldl (fun s i => s.set F.PWR_TS_STATE new 0 i) s
  if new = old then s
  else
    let was := (concerned g).map (throttled s)
    let s := { s with heat := place s.heat g new }
    let temp := unsigned 32 t
    let s := s.event 0x0C 1 0 g [who, temp, new]
    let s := if old < 2 ∧ 2 ≤ new then s.bump F.PWR_CNT_THROTTLE_COUNT else s
    let s := if old < 3 ∧ 3 ≤ new then s.bump F.PWR_CNT_CRIT_COUNT else s
    let s := match concerned g with
      | none => s
      | some n =>
        if 3 ≤ new then setCap n 900 s
        else if was = some false ∧ throttled s n then setCap n (max 900 (s.get F.CLK_STG_STATUS_CAP 0 n - 100)) s
        else if was = some true ∧ throttled s n = false then s.setDie n { s.die n with capAt := s.ticks }
        else s
    if new = 4 then trip (s.event 0x0C 3 0 g [who, temp]) else s

/-- The hottest logic sensor (R541). -/
def hottestSensor (s : State) : Nat :=
  (List.range 200).foldl (fun b i => if sensorTemp s b < sensorTemp s i then i else b) 0

/-- The sensors are read, in order from sensor 0; one that is not listed keeps its value (R534, R535). A tripped device takes
no notice (R537). -/
def sensorRead (temps : List (BitVec 11)) (s : State) : State :=
  if s.board.thermTrip then s
  else
    let s := ((List.range 200).zip temps).foldl (fun s e => s.set F.PWR_TS_TEMP e.2.toNat 0 e.1) s
    let i := hottestSensor s
    let s := (s.set F.PWR_THOT_TEMP (s.get F.PWR_TS_TEMP 0 i)).set F.PWR_THOT_SENSOR i
    iterate 84 (fun g s => if s.board.thermTrip then s else heatStep g s) s

def execSensorRead (temps : List (BitVec 11)) (s : State) : Res := ok (sensorRead temps s)

/-- STEPDN ms in THROTTLE (R536). -/
def execCapStepDown (n : StackId) (s : State) : Res :=
  if throttled s n ∧ s.passedUs (s.die n).capAt (1000 * max 1 (s.get F.PWR_THYST_STEPDN)) then
    ok (setCap n (max 900 (s.get F.CLK_STG_STATUS_CAP 0 n - 100)) s)
  else ok s

/-- STEPUP ms after THROTTLE (R536). -/
def execCapStepUp (n : StackId) (s : State) : Res :=
  if throttled s n = false ∧ s.get F.CLK_STG_STATUS_CAP 0 n < calMax s ∧
      s.passedUs (s.die n).capAt (1000 * max 1 (s.get F.PWR_THYST_STEPUP)) then
    ok (setCap n (min (calMax s) (s.get F.CLK_STG_STATUS_CAP 0 n + 100)) s)
  else ok s

/-- A write to PWR_TLIM or PWR_TLIMS that raises a threshold above its reset value is ignored (R541). -/
def limitsRaised (r : Reg) (v : Nat) : Bool := r.fields.any fun f => f.rst < fieldOf v f.lo f.width

/-- A write of 1 to PWR_CNT_CLR (R541). -/
def pwrCntClr (s : State) : State := s.zeroAll [R.PWR_CNT_THROTTLE, R.PWR_CNT_CRIT]

def execPwrCntClr (s : State) : Res := ok (pwrCntClr s)

/-! PLL locks (R538, R542). -/

/-- The timer of a domain that does not relock. -/
def lockTimer (k : Nat) : Nat := 400 + k

/-- Whether a clock domain reads locked. -/
def locked (s : State) (k : Nat) : Bool := (s.get F.CLK_LOCK_LOCKED 0 (k / 32)).testBit (k % 32)

def setLocked (k : Nat) (b : Bool) (s : State) : State :=
  s.set F.CLK_LOCK_LOCKED (withField (s.get F.CLK_LOCK_LOCKED 0 (k / 32)) (k % 32) 1 (b2n b)) 0 (k / 32)

/-- A loss of lock is reported and its 1 ms begins. -/
def lockLost (k : Nat) (s : State) : State :=
  { s.event 0x0C 4 0 k [k] with timers := place s.timers (lockTimer k) s.ticks }

def execPllUnlock (k : Fin 60) (s : State) : Res :=
  if locked s k then ok (lockLost k ((setLocked k false s).bump F.CLK_CNT_UNLOCK_COUNT)) else ok s

def execPllRelock (k : Fin 60) (s : State) : Res := if locked s k then ok s else ok (setLocked k true s)

/-- Every 1 ms without relock the event repeats. -/
def execPllRelockRetry (k : Fin 60) (s : State) : Res :=
  match lookup s.timers (lockTimer k) with
  | some t => if locked s k = false ∧ s.passedUs t 1000 then ok (lockLost k s) else ok s
  | none => ok s

/-- A write of 1 to bit 0 of CLK offset 0x234. -/
def unlockClr (s : State) : State := s.zero R.CLK_CNT_UNLOCK

def execClkCntUnlockClr (s : State) : Res := ok (unlockClr s)

/-- The triangle reaches nominal frequency: an armed spread setting applies (R528). -/
def execSscApply (s : State) : Res := if s.armed .clk then ok (commitApplied .clk s) else ok s

/-! Domains (R524 to R526). -/

/-- PWR_DOM.STATE (R525, R541): stage common domains, lane groups and quay cores follow their use; the rest is held. -/
def domainState (s : State) (d : Nat) : Nat :=
  if bootStage s < 6 ∨ s.board.thermTrip then s.get F.PWR_DOM_STATE 0 d
  else if 100 ≤ d ∧ d < 120 then
    let n := d - 100
    let slot := (List.range 5).any fun i => s.get F.PWR_DOM_STATE 0 (5 * n + i) != 0
    if slot || (List.range 4).any (fun i => s.flag F.CUE_CTL_EN (4 * n + i)) then 3 else 0
  else if 180 ≤ d ∧ d < 244 then
    let g := d - 180
    let up := (List.range 16).any fun i =>
      match portOfLane s (16 * g + i) with
      | some p => portState s p != 0 && portState s p != 7
      | none => false
    if up then 3 else 0
  else s.get F.PWR_DOM_STATE 0 d

/-- Whether something asks a domain to be ON (R525). -/
def domainWanted (s : State) (d : Nat) : Bool :=
  if 140 ≤ d ∧ d < 160 then engineNeeded s (d - 140)
  else if 160 ≤ d ∧ d < 180 then s.get F.STK_STATUS_STATE (d - 160) != 5
  else if 248 ≤ d ∧ d < 252 then expressBound s (d - 248) != 0
  else domainState s d == 3

/-- A wake request has brought a domain to ON (R526): a sleeping cluster in the slot wakes with it; other domains come ON where
what R525 names asks for it. -/
def domainWake (d : Nat) (s : State) : State :=
  if s.board.thermTrip then s
  else if d < 100 then
    match slotCluster s d with
    | some c => wakeCluster c s
    | none => s
  else if domainWanted s d then s.set F.PWR_DOM_STATE 3 0 d
  else s

def execDomainWake (d : Fin 262) (s : State) : Res := ok (domainWake d s)

end Sys2Proof.Machine
end

