-- ==== Sys2Proof/Machine/Cues.lean ====
section
/-! DEFINITION. Cue engines (R190 to R197, R204, R206, R584). -/

namespace Sys2Proof.Machine

/-- Action code of entry `i` (R191). -/
def cueAct (s : State) (e i : Nat) : Nat := s.get F.CUE_ENT_ACT_WORD e i

/-- PERIOD of an engine's active sheet. -/
def cuePeriod (s : State) (e : Nat) : Nat := s.get F.CUE_PERIOD_LO_NS e + s.get F.CUE_PERIOD_HI_NS e * 2 ^ 32

/-- TIME of entry `i` in repetition `k` (R193). -/
def cueTime (s : State) (e i k : Nat) : Nat :=
  s.get F.CUE_ENT_TIME_LO_WORD e i + s.get F.CUE_ENT_TIME_HI_WORD e i * 2 ^ 32 + k * cuePeriod s e

/-- Whether the sheet has an entry `i` (R191). -/
def cueHas (s : State) (e i : Nat) : Bool := i < 256 && cueAct s e i % 256 != 0

/-- Places an engine: NEXT and REP show it (R206). -/
def cueAt (e idx rep : Nat) (s : State) : State :=
  let s := (s.set F.CUE_STATUS_NEXT (idx % 256) e).set F.CUE_STATUS_REP (saturate 22 rep) e
  s.setCue e { s.cue e with idx := idx, rep := rep }

/-- An engine that has passed its last entry goes round or is done (R193); an empty periodic sheet fires nothing. -/
def cueWrap (e : Nat) (s : State) : State :=
  let q := s.cue e
  if cueHas s e q.idx then s
  else if cuePeriod s e = 0 then (if s.flag F.CUE_CTL_EN e then s.set F.CUE_STATUS_DONE 1 e else s)
  else if q.idx = 0 then s
  else cueAt e 0 (q.rep + 1) s

/-- A START_QUEUE reaches a queue of cluster `c` (R191, R335): it ends the CUE hold in force, or is kept; false where one is
kept already. -/
def startQueue (c q : Nat) (s : State) : Bool × State :=
  let s := wakeCluster c s
  if cluPresent s c = false then (false, s)
  else
    let k := s.clu c
    let iq := k.queues.getD q IssueQ.empty
    let holds := fun (m : Mop) => (match m.phase with | .waiting _ => true | _ => false) && mopFamily m.copy == 0x22 && mopSub m.copy == 0
    if iq.mops.any holds then
      let iq := { iq with mops := iq.mops.map (Mop.endWait holds (fun _ => true) s.ticks s.fabTime) }
      (true, s.setClu c { k with queues := k.queues.set q iq })
    else if iq.startPending then (false, s)
    else (true, s.setClu c { k with queues := k.queues.set q { iq with startPending := true } })

/-- Carries out an action (R191, R195); false where its target cannot act. -/
def cueAction (e act : Nat) (s : State) : Bool × State :=
  let a := act / 256
  match act % 256 with
  | 1 => if e < 80 then startQueue e (a % 4) s else (false, s)
  | 2 =>
    let c := if e < 80 then e else fieldOf a 8 7
    if 80 ≤ c ∨ cluPresent s c = false then (false, s)
    else (true, setFlag c (a % 256) (wakeCluster c s))
  | 3 =>
    let p := a % 512
    match portDef s p with
    | some (lane, _) =>
      if h : p < 512 then
        if 100 ≤ e ∧ lane / 64 = e - 100 then (true, gateArm ⟨p, h⟩ 0xFFF (s.ctag (.gate ⟨p, h⟩)) s) else (false, s)
      else (false, s)
    | none => (false, s)
  | 4 => if e < 100 then startAction (a % 4096) s else (false, s)
  | _ => (false, s)

/-- The one-time releases whose time has come (R204). -/
def cueOnceDue (e : Nat) (s : State) : State :=
  let q := s.cue e
  let due := q.once.filter fun o => o.time ≤ s.nowNs
  if due.isEmpty then s
  else due.foldl (fun t o => onceAct e o.cluster o.flag o.late t) (s.setCue e { q with once := q.once.filter fun o => !(o.time ≤ s.nowNs) })

/-- Whether an engine has an entry whose time is reached: not a berth engine whose die's lane groups all sleep (R192, R196). -/
def cueReady (e : Nat) (s : State) : Bool :=
  let q := s.cue e
  s.flag F.CUE_CTL_EN e && !q.broken && !s.flag F.CUE_STATUS_DONE e && cueHas s e q.idx && decide (cueTime s e q.idx q.rep ≤ s.nowNs) &&
    (e < 100 || berthAwake s (e - 100))

/-- The engine reads its sheet (R489, class 11): an uncorrectable word stops it until a new sheet applies. -/
def sheetRead (e : Nat) (s : State) : State :=
  match s.touch 11 e 0 (· == .sheet e) with
  | (true, s) => s.setCue e { s.cue e with broken := true }
  | (false, s) => s

/-- The next entry of an enabled engine is taken when its time is reached (R192): fired, or skipped where it is late and
LATESKIP is 1. -/
def cueDue (e : Nat) (s : State) : State :=
  let s := cueOnceDue e s
  let s := if cueReady e s then sheetRead e s else s
  let q := s.cue e
  let t := cueTime s e q.idx q.rep
  if cueReady e s = false then s
  else
    let late := decide (t * 65536 < q.predAt)
    let i := q.idx
    let s := if late then cueLate e i s else s
    let s := s.setCue e { q with predAt := if late then q.predAt else t * 65536 }
    let s := cueWrap e (cueAt e (i + 1) q.rep s)
    if late && s.flag F.CUE_CTL_LATESKIP e then s
    else
      let act := cueAct s e i
      match cueAction e act (s.bump F.CUE_CNT_FIRED_COUNT 1 e) with
      | (true, s) => s
      | (false, s) => s.bump F.CUE_CNT_NOTARGET_COUNT 1 e

def execCueEntryDue (e : EngineId) (s : State) : Res := ok (cueDue e s)

/-- How far ahead of an entry an engine wakes its cluster, in ns (R196): 8 stage cycles from DOZE, 400 ns from RETAIN. -/
def wakeAhead (s : State) (c : Nat) : Nat := if cluState s c = stDoze then ceilDiv 8000 (curMhz s (c / 4)) else 400

/-- A cluster engine wakes its cluster ahead of an entry (R196). -/
def execCueEarlyWake (e : EngineId) (s : State) : Res :=
  let q := s.cue e
  if e.val < 80 ∧ s.flag F.CUE_CTL_EN e ∧ q.broken = false ∧ cueHas s e q.idx ∧ cueTime s e q.idx q.rep ≤ s.nowNs + wakeAhead s e then ok (wakeCluster e s)
  else ok s

/-- A write of CUE_CTL.EN (R584). -/
def cueEnable (e : Nat) (on : Bool) (s : State) : State :=
  if s.flag F.CUE_CTL_EN e = on then s
  else
    let s := s.set F.CUE_CTL_EN (b2n on) e
    let s := if 80 ≤ e ∧ e < 100 then settleEngine (e - 80) s else s
    if on then cueWrap e (s.setCue e { s.cue e with predAt := s.fabTime }) else s

def execCueEnable (e : EngineId) (s : State) : Res := ok (cueEnable e true s)

def execCueDisable (e : EngineId) (s : State) : Res := ok (cueEnable e false s)

/-- Entries that are due fire before a new sheet applies (R194), as many as one sheet holds. -/
def cueFlush (e : Nat) : Nat → State → State
  | 0, s => s
  | n + 1, s => if cueReady e s then cueFlush e n (cueDue e s) else s

/-- The firing boundary of an armed sheet (R194): repetition 0, entries already past are skipped; a sheet that leaves an entry to fire
clears DONE (R193). The new sheet's words are sound. -/
def cueApply (e : EngineId) (s : State) : State :=
  let s := (commitApplied (.cue e) (cueFlush e 256 s)).heal (· == .sheet e)
  let len := ((List.range 256).find? fun i => !cueHas s e i).getD 256
  let skip := ((List.range len).takeWhile fun i => cueTime s e i 0 * 65536 < s.fabTime).length
  let s := if skip = 0 then s else s.bump F.CUE_CNT_SKIP_COUNT skip e
  let s := s.setCue e { s.cue e with predAt := s.fabTime, broken := false }
  let s := cueAt e skip 0 s
  let s := if skip < len ∨ (cuePeriod s e ≠ 0 ∧ len ≠ 0) then s.set F.CUE_STATUS_DONE 0 e else s
  cueWrap e s

/-- A write of 1 to CUE_CNT_CLR (R206). -/
def cueCntClr (e : Nat) (s : State) : State :=
  (s.zeroAll [R.CUE_CNT_FIRED, R.CUE_CNT_LATE, R.CUE_CNT_SKIP, R.CUE_CNT_NOTARGET] e).set F.CUE_STATUS_FIRSTEV 0 e

def execCueCntClr (e : EngineId) (s : State) : Res := ok (cueCntClr e s)

end Sys2Proof.Machine
end

