-- ==== Sys2Proof/Machine/Curtain.lean ====
section
/-! DEFINITION. Curtain lines (R198 to R202, R207). -/

namespace Sys2Proof.Machine

/-- Whether cluster `c` is a member of line `l`, and whether its arrival is held. -/
def curtMember (s : State) (l c : Nat) : Bool := (s.rd R.CURT_MEM l (c / 32)).testBit (c % 32)
def curtArrived (s : State) (l c : Nat) : Bool := (s.rd R.CURT_ARR l (c / 32)).testBit (c % 32)

/-- Members of a line. -/
def curtMembers (s : State) (l : Nat) : List Nat := (List.range 80).filter (curtMember s l)

/-- Whether a line holds an arrival. -/
def curtHolds (s : State) (l : Nat) : Bool := (List.range 80).any (curtArrived s l)

/-- A release flag reaches a member (R198, R279, R503): a sleeping member wakes; one that is FENCED gets it in its migrated
flag page. -/
def releaseFlag (f : Nat) (s : State) (c : Nat) : State := setFlag c f (wakeCluster c s)

/-- The line releases when every member has arrived (R198, R202); an empty mask never does (R201). -/
def curtSettle (l : Nat) (s : State) : State :=
  let ms := curtMembers s l
  if ms.isEmpty || !ms.all (curtArrived s l) then s
  else
    let s := iterate 3 (fun j s => s.wr R.CURT_ARR l j 0) s
    let s := s.set F.CURT_STATUS_GEN ((s.get F.CURT_STATUS_GEN l + 1) % 65536) l
    let s := { s with tm.firstArrival := erase s.tm.firstArrival l }
    ms.foldl (releaseFlag (s.get F.CURT_CFG_FLAG l)) s

/-- Cluster `c` arrives at line `l` (R198, R200). -/
def curtArrive (l c : Nat) (s : State) : State :=
  if curtMember s l c = false ∨ curtArrived s l c then
    let s := s.bump F.CURT_CNT_BADARR_COUNT 1 l
    if s.flag F.CURT_STATUS_FIRSTEV l then s else (s.set F.CURT_STATUS_FIRSTEV 1 l).event 0x06 1 0 l [c]
  else
    let s := if curtHolds s l then s else { s with tm.firstArrival := place s.tm.firstArrival l (s.ticks, false) }
    let w := s.rd R.CURT_ARR l (c / 32)
    curtSettle l (s.wr R.CURT_ARR l (c / 32) (w ||| 2 ^ (c % 32)))

/-- The evaluation cycle of an armed commit (R201): arrivals of removed members are discarded, and the rest may release. -/
def curtApply (l : LineId) (s : State) : State :=
  let s := commitApplied (.curt l) s
  let s := iterate 3 (fun j s => s.wr R.CURT_ARR l j (s.rd R.CURT_ARR l j &&& s.rd R.CURT_MEM l j)) s
  let s := if curtHolds s l then s else { s with tm.firstArrival := erase s.tm.firstArrival l }
  curtSettle l s

/-- TMO µs after the first arrival held (R202): the members not yet arrived are reported, once for each such wait. -/
def execCurtainTimeout (l : LineId) (s : State) : Res :=
  match lookup s.tm.firstArrival l with
  | none => ok s
  | some (t, told) =>
    let us := s.get F.CURT_TMO_US l
    if us = 0 ∨ s.passedUs t us = false ∨ told then ok s
    else
      let s := { s with tm.firstArrival := place s.tm.firstArrival l (t, true) }
      let word := fun j => s.rd R.CURT_MEM l j - (s.rd R.CURT_MEM l j &&& s.rd R.CURT_ARR l j)
      ok ((s.set F.CURT_STATUS_TIMEOUT 1 l).event 0x06 2 0 l [word 0, word 1, word 2])

/-- A write of 1 to CURT_CLR (R207). -/
def curtClr (l : Nat) (s : State) : State :=
  ((s.zero R.CURT_CNT_BADARR l).set F.CURT_STATUS_TIMEOUT 0 l).set F.CURT_STATUS_FIRSTEV 0 l

def execCurtClr (l : LineId) (s : State) : Res := ok (curtClr l s)

end Sys2Proof.Machine
end

