-- ==== Sys2Proof/Machine/HostRegs.lean ====
section
/-! DEFINITION. Rings and the event ring as their registers show and steer them (R469 to R475, R485, R486), the PCIe link
(R463, R467, R544, R545) and the MSI-X table (R464, R485). -/

namespace Sys2Proof.Machine

/-- Whether ring `r` is disabled with nothing outstanding (R474). -/
def ringIdle (s : State) (r : Nat) : Bool := !s.flag F.HIF_RCFG_EN 0 r && (s.ring r).out.isEmpty

/-- HIF_RSTATUS of ring `r` (R488). -/
def ringStatus (s : State) (r : Nat) : Nat :=
  let x := s.ring r
  x.head + b2n (ringIdle s r) <<< 16 + b2n x.stopped <<< 17 + s.get F.HIF_RSTATUS_BADDB 0 r <<< 18 + x.out.length <<< 19

/-- HIF_RCQ of ring `r` (R488). -/
def ringCq (s : State) (r : Nat) : Nat := (s.ring r).cqTail + b2n (s.ring r).phase <<< 16

/-- HIF_EVQ_STATUS (R488). -/
def evqStatus (s : State) : Nat := s.hif.ev.tail + s.events.items.length <<< 16

/-- A write to HIF_RCFG of ring `r` has been taken field by field; `was` is EN before it (R474). -/
def ringControl (was : Bool) (mid r : Nat) (s : State) : State :=
  if was || !s.flag F.HIF_RCFG_EN 0 r then s
  else
    let lo := fun n => decide (4 ≤ n ∧ n ≤ 16)
    if (s.ring r).out.isEmpty && lo (s.get F.HIF_RCFG_SQLOG2 0 r) && lo (s.get F.HIF_RCFG_CQLOG2 0 r) then
      (s.setRing r { RingSt.initial with serial := (s.ring r).serial }).set F.HIF_RSTATUS_BADDB 0 0 r
    else (s.set F.HIF_RCFG_EN 0 0 r).reject mid (R.HIF_RCFG.addr 0 r)

/-- A write of 1 to HIF_RCFG.EN, the register's other fields as they stand. -/
def execRingEnable (m : MasterId) (r : RingId) (s : State) : Res :=
  ok (ringControl (s.flag F.HIF_RCFG_EN 0 r) m.toNat r (s.set F.HIF_RCFG_EN 1 0 r))

def execRingDisable (r : RingId) (s : State) : Res := ok (s.set F.HIF_RCFG_EN 0 0 r)

/-- The event ring's head and tail as its size has them. -/
def evSize (s : State) : Nat := 2 ^ s.get F.HIF_EVQ_CFG_LOG2

/-- A write to HIF_EVQ_CFG has been taken field by field; `was` is EN before it (R474, R486). -/
def evqControl (was : Bool) (mid : Nat) (s : State) : State :=
  if was || !s.flag F.HIF_EVQ_CFG_EN then s
  else
    let n := s.get F.HIF_EVQ_CFG_LOG2
    if 4 ≤ n ∧ n ≤ 16 then { s with hif.ev := ⟨false, 0, 0, true, 0, 0⟩ }
    else (s.set F.HIF_EVQ_CFG_EN 0).reject mid (R.HIF_EVQ_CFG.addr 0 0)

/-- A write of HIF_EVQ_CFG.EN, the register's other fields as they stand. -/
def execEvqEnable (m : MasterId) (en : Bool) (s : State) : Res :=
  ok (evqControl (s.flag F.HIF_EVQ_CFG_EN) m.toNat (s.set F.HIF_EVQ_CFG_EN (b2n en)))

/-! Doorbells (R469). -/

/-- A doorbell value at or beyond the ring size. -/
def badDoorbell (ring v : Nat) (s : State) : State :=
  (s.bump F.HIF_CNT_BADDB_COUNT).event 0x0D 1 0 ring [ring, v]

def sqDoorbell (r v : Nat) (s : State) : State :=
  if s.flag F.HIF_RCFG_EN 0 r = false then s
  else if v < sqSize s r then s.setRing r { s.ring r with tail := v }
  else badDoorbell r v (s.set F.HIF_RSTATUS_BADDB 1 0 r)

def cqDoorbell (r v : Nat) (s : State) : State :=
  if s.flag F.HIF_RCFG_EN 0 r = false then s
  else if v < cqSize s r then s.setRing r { s.ring r with cqHead := v }
  else badDoorbell r v (s.set F.HIF_RSTATUS_BADDB 1 0 r)

/-- The event ring has no BADDB bit; a bad value is reported as ring 64. -/
def evqDoorbell (v : Nat) (s : State) : State :=
  if s.flag F.HIF_EVQ_CFG_EN = false then s
  else if v < evSize s then { s with hif.ev.head := v }
  else badDoorbell 64 v s

def execSqDoorbell (r : RingId) (v : BitVec 16) (s : State) : Res := ok (sqDoorbell r v.toNat s)

def execCqDoorbell (r : RingId) (v : BitVec 16) (s : State) : Res := ok (cqDoorbell r v.toNat s)

def execEvqDoorbell (v : BitVec 16) (s : State) : Res := ok (evqDoorbell v.toNat s)

/-! Fetching (R471, R472). -/

/-- Whether the descriptor at the head of ring `r` may be fetched. -/
def fetchable (s : State) (r : Nat) : Bool :=
  let x := s.ring r
  let seen := (x.cqTail + cqSize s r - x.cqHead) % cqSize s r
  s.flag F.HIF_RCFG_EN 0 r && !x.stopped && x.head != x.tail && decide (x.out.length < 256) &&
    decide (x.out.length + seen + 2 ≤ cqSize s r)

/-- The ring whose turn it is: round-robin from the one after the last served. -/
def nextRing (s : State) : Option Nat :=
  ((List.range 64).map fun i => (s.hif.lastRing + 1 + i) % 64).find? (fetchable s)

/-- The device fetches the descriptor at the head of ring `r`, whose turn it is: `words` stand in host memory there. -/
def execDescriptorFetch (r : RingId) (words : Vector Word 16) (s : State) : Res :=
  if nextRing s = some r.val then
    let x := s.ring r
    let d : Desc := ⟨x.serial, x.head, words.toList, false, s.ticks, 0, 0, []⟩
    ok { s.setRing r { x with serial := x.serial + 1, head := (x.head + 1) % sqSize s r, out := x.out ++ [d] } with
      hif.lastRing := r }
  else ok s

/-- A failed ring access to host memory (R475): `fetch` says that it was a descriptor fetch. -/
def execHostMemoryError (r : RingId) (fetch : Bool) (status : BitVec 32) (s : State) : Res :=
  let x := s.ring r
  let s := s.setRing r { x with stopped := true, mute := x.mute || !fetch }
  ok ((s.bump F.HIF_CNT_HOSTERR_COUNT).event 0x0D 2 0 r [r, status.toNat])

/-- A write of 1 to HIF_CNT_CLR (R488). -/
def hifCntClr (s : State) : State := s.zeroAll [R.HIF_CNT_BADDB, R.HIF_CNT_EVDROP, R.HIF_CNT_HOSTERR]

def execHifCntClr (s : State) : Res := ok (hifCntClr s)

/-! Events and interrupts (R485, R486). -/

/-- The bytes of an event record (R487). -/
def eventBytes (e : EventRec) (phase : Bool) : List Byte :=
  wordBytes ([e.source + e.typ <<< 8 + e.job <<< 16, e.unit, e.time % 2 ^ 32, e.time / 2 ^ 32] ++
    e.payload.map BitVec.toNat ++ [e.seq, b2n phase <<< 31])

/-- Events not yet signalled reach COUNT (R485). -/
def evSignal (s : State) : State :=
  if max 1 (s.get F.HIF_EVQ_MOD_COUNT) ≤ s.hif.ev.unsignalled then
    raiseVector (s.get F.HIF_EVQ_CFG_VECTOR) { s with hif.ev.unsignalled := 0 }
  else s

/-- The places of the queued events after the oldest has gone. -/
def nextEvent : Spot → Spot
  | .event i => .event (i - 1)
  | x => x

/-- The oldest event leaves the queue, and with it the errors of its words. -/
def dropEvent (s : State) : State :=
  let s := s.heal (· == .event 0)
  State.eventPop { s with upsets := s.upsets.map fun u => { u with spot := nextEvent u.spot } }

/-- Events at the front that cannot be read are discarded, each of them counting into the gap (R434). `fuel` bounds those. -/
def dropUnreadable : Nat → State → State
  | 0, s => s
  | fuel + 1, s =>
    if s.events.items.isEmpty then s
    else match s.touch 8 0 0 (· == .event 0) with
      | (true, s) => dropUnreadable fuel (dropEvent { s with events.gap := saturate 32 (s.events.gap + 1) })
      | (false, s) => s

/-- The oldest queued event is written to the event ring where it has room (R486). -/
def eventWrite (s : State) : State :=
  let s := if s.flag F.HIF_EVQ_CFG_EN = false ∨ (s.hif.ev.tail + 1) % evSize s = s.hif.ev.head then s
    else dropUnreadable (s.events.items.length + 1) s
  let x := s.hif.ev
  match s.events.items with
  | [] => s
  | e :: _ =>
    let t := (x.tail + 1) % evSize s
    if s.flag F.HIF_EVQ_CFG_EN = false ∨ t = x.head then s
    else
      let base := s.get F.HIF_EVQ_BASE_LO_ADDR <<< 12 + s.get F.HIF_EVQ_BASE_HI_ADDR <<< 32
      let s := dropEvent (s.emit (.hostWrite (base + 64 * x.tail) (eventBytes e x.phase)))
      evSignal { s with hif.ev := { x with
        tail := t, phase := if t = 0 then !x.phase else x.phase, unsignalled := x.unsignalled + 1
        oldest := if x.unsignalled = 0 then s.ticks else x.oldest } }

def execEventWrite (s : State) : Res := ok (eventWrite s)

/-- TIMER µs after the oldest unsignalled completion of a ring, or event where no ring is named (R485). -/
def interruptTimer (r : Option RingId) (s : State) : State :=
  match r with
  | some r =>
    let x := s.ring r
    let us := s.get F.HIF_RMOD_TIMER 0 r
    if us = 0 ∨ x.unsignalled = 0 ∨ s.passedUs x.oldest us = false then s
    else raiseVector (s.get F.HIF_RCFG_VECTOR 0 r) (s.setRing r { x with unsignalled := 0 })
  | none =>
    let us := s.get F.HIF_EVQ_MOD_TIMER
    if us = 0 ∨ s.hif.ev.unsignalled = 0 ∨ s.passedUs s.hif.ev.oldest us = false then s
    else raiseVector (s.get F.HIF_EVQ_CFG_VECTOR) { s with hif.ev.unsignalled := 0 }

def execInterruptTimer (r : Option RingId) (s : State) : Res := ok (interruptTimer r s)

/-- A word of the pending-bit array. -/
def pendingWord (s : State) (i : Nat) : Nat :=
  (List.range 32).foldl (fun n b => n + b2n (s.hif.pending.contains (32 * i + b)) <<< b) 0

/-- A word of BAR4 (R464). -/
def bar4Word (s : State) (off : Nat) : Nat :=
  if off < 0x1000 then msixWord s (off / 4)
  else if 0x8000 ≤ off ∧ off < 0x8020 then pendingWord s ((off - 0x8000) / 4)
  else 0

/-- A word of the MSI-X table is written; a pending vector that is no longer masked is sent (R485). Of the control word
only the mask bit is kept, as PCI Express has it. -/
def bar4Write (off v : Nat) (s : State) : State :=
  if off < 0x1000 then
    let i := off / 4
    let w := if i % 4 = 3 then v % 2 else v % 2 ^ 32
    let s := { s with hif.msix := place s.hif.msix i (BitVec.ofNat 32 w) }
    if i % 4 = 3 ∧ w = 0 ∧ s.hif.pending.contains (i / 4) then
      ({ s with hif.pending := s.hif.pending.filter (· != i / 4) }).emit (.msix (i / 4))
    else s
  else s

/-- A host access of one aligned word of BAR4. -/
def execMsixTableAccess (write : Bool) (word : BitVec 14) (v : Word) (s : State) : Res :=
  if write then ok (bar4Write (4 * word.toNat) v.toNat s)
  else ok (s.emit (.readData 0 (toBytes 4 (bar4Word s (4 * word.toNat)))))

/-! The PCIe link and endpoint. -/

/-- Every ring and the event ring are disabled as a write of EN = 0 does, and what falls due until they are enabled again
is discarded (R467). -/
def dropRings (s : State) : State :=
  let s := iterate 64 (fun r s =>
    let s := if s.flag F.HIF_RCFG_EN 0 r then s.set F.HIF_RCFG_EN 0 0 r else s
    match lookup s.hif.rings r with
    | some x => s.setRing r { x with mute := true }
    | none => s) s
  { s.set F.HIF_EVQ_CFG_EN 0 with hif.ev.mute := true, events := ⟨[], 0⟩ }

/-- PCIe hot reset or link-down (R467). -/
def linkDown (s : State) : State :=
  let s := { s with hif.linkUp := false }
  dropRings ((s.set F.HIF_STATUS_GEN 0).set F.HIF_STATUS_WIDTH 0)

def execPcieLinkDown (s : State) : Res := ok (linkDown s)

/-- PERST_N goes low (R544): link, configuration space (with the MSI-X table) and ring state are reset. -/
def execPerst (s : State) : Res :=
  let s := linkDown s
  ok { s with hif.inReset := true, hif.msix := [], hif.pending := [] }

/-- PERST_N rises (R545). -/
def execPerstRelease (s : State) : Res := ok { s with hif.inReset := false }

/-- The link trains up at a generation 1 to 5 and a width 1, 2, 4 or 8 (R463), once the endpoint is out of reset. -/
def execPcieLinkUp (gen : BitVec 3) (width : BitVec 4) (s : State) : Res :=
  if s.hif.inReset ∨ bootStage s = 0 ∨ gen.toNat = 0 ∨ 5 < gen.toNat ∨ !([1, 2, 4, 8].contains width.toNat) then ok s
  else ok { (s.set F.HIF_STATUS_GEN gen.toNat).set F.HIF_STATUS_WIDTH width.toNat with hif.linkUp := true }

/-- A configuration request (R463, R545): answered once the endpoint is out of reset, whatever the boot stage. The spec
names capabilities and no registers, so a read answers a free word, and a write is acknowledged. -/
def execConfigRequest (write : Bool) (reg : BitVec 10) (_v : Word) (s : State) : Res :=
  if s.hif.inReset ∨ bootStage s = 0 then ok s
  else if write then ok (s.emit (.answer 4 []))
  else
    let (n, s) := s.fresh
    ok (s.emit (.answer 4 (toBytes 4 (Config.configWord n reg).toNat)))

end Sys2Proof.Machine
end

