-- ==== Sys2Proof/Machine/Security.lean ====
section
/-! DEFINITION. The security root: image checks, anti-rollback, flash update and push, measurements, SPDM responses and the
debug lock (R507 to R523). -/

namespace Sys2Proof.Machine

/-! Flash. -/

/-- Bytes of the SPI flash from `a`; an unlisted byte is 0. -/
def flashRead (s : State) (a n : Nat) : List Byte := (List.range n).map fun i => (lookup s.flash (a + i)).getD 0

/-- Bytes of a sparse store set from `a`. -/
def putBytes (m : List Host.Cell) (a : Nat) (bs : List Byte) : List Host.Cell :=
  ((List.range bs.length).zip bs).foldl (fun m e => put m (a + e.1) e.2 0) m

/-- The entries of a sparse store in `[a, a + n)` removed. -/
def cutBytes (m : List Host.Cell) (a n : Nat) : List Host.Cell := m.filter fun e => !(a ≤ e.1 && e.1 < a + n)

def flashWrite (a : Nat) (bs : List Byte) (s : State) : State := { s with flash := putBytes (cutBytes s.flash a bs.length) a bs }

/-- Places in the flash (R509, R515, R549). -/
def slotBytes : Nat := 4 * 2 ^ 20
def calBase : Nat := 0x00400000
def calSize : Nat := 262144
def identityBase : Nat := 0x03FF0000

/-! The firmware image (R509, R510). -/

/-- A 256-bit number of eight words, least significant first. -/
def hashNat (ws : List Word) : Nat := ofBytes (ws.flatMap fun w => toBytes 4 w.toNat)

/-- The number that a digest's bytes spell, most significant first. -/
def digestNat (bs : List Byte) : Nat := ofBytes bs.reverse

/-- A little-endian word of an image. -/
def fwWord (img : List Byte) (off : Nat) : Nat := ofBytes ((img.drop off).take 4)

/-- The image digest: everything but SIG (R509). -/
def imageDigest (img : List Byte) : List Byte := Sha.digest (img.take 0x80 ++ (img.drop 0xC0))

/-- SVN of an image. -/
def imageSvn (img : List Byte) : Nat := fwWord img 8

/-- Whether a public key's hash is the fused one; a VKHASH of zeros matches none (R508). -/
def keyMatches (key : List Byte) (fused : List Word) : Bool :=
  hashNat fused != 0 && digestNat (Sha.digest (4 :: key)) == hashNat fused

/-- The image check (R510): 0, or the first reason that fails. -/
def checkImage (s : State) (img : List Byte) : Nat :=
  let zero := fun a n => ((img.drop a).take n).all (· == 0)
  let key := (img.drop 0x40).take 64
  if img.length < 320 ∨ fwWord img 0 ≠ 0x3146564F ∨ fwWord img 4 ≠ 1 ∨ !(zero 0x18 40 && zero 0xC0 64) then 1
  else if fwWord img 12 % 64 ≠ 0 ∨ img.length ≠ 256 + fwWord img 12 ∨ fwWord img 12 ≤ fwWord img 16 ∨ fwWord img 16 % 4 ≠ 0 then 2
  else if keyMatches key s.fuses.vkHash = false then 3
  else if Config.ecdsaVerify key (imageDigest img) ((img.drop 0x80).take 64) = false then 4
  else if 64 < imageSvn img ∨ imageSvn img < s.fuses.arb then 5
  else 0

/-- The image in the flash slot, as long as its header says. -/
def flashImage (s : State) : List Byte :=
  let n := 256 + fwWord (flashRead s 0 16) 12
  flashRead s 0 (min n slotBytes)

/-! Measurements (R517). -/

/-- Replaces measurement `i`, 1 to 5. -/
def setMeasure (i : Nat) (d : List Byte) (s : State) : State := { s with sec.measures := s.sec.measures.set (i - 1) d }

def zeros (n : Nat) : List Byte := List.replicate n 0

/-- Measurement 4 at boot. -/
def measureState (s : State) : State :=
  setMeasure 4 (Sha.digest ([BitVec.ofNat 8 s.fuses.arb, BitVec.ofNat 8 (s.get F.SEC_SVN_RUN), BitVec.ofNat 8 (b2n s.fuses.permLock),
    BitVec.ofNat 8 (s.get F.SEC_STATUS_IDVALID)] ++ zeros 4)) s

/-- Measurement 5, recomputed at each debug unlock. -/
def measureDebug (s : State) : State :=
  setMeasure 5 (Sha.digest ([BitVec.ofNat 8 s.sec.unlocks, BitVec.ofNat 8 (s.get F.SEC_DBG_CTL_SCOPE)] ++ zeros 6)) s

/-- An image is accepted at boot (R510, R517). -/
def acceptImage (img : List Byte) (s : State) : State :=
  let s := (s.set F.SEC_STATUS_BOOTOK 1).set F.SEC_SVN_RUN (imageSvn img)
  setMeasure 2 (imageDigest img) { s with sec.runDigest := imageDigest img }

/-! Anti-rollback (R511). -/

/-- The timer of an advance, among `State.timers`. -/
def arbTimer : Nat := 10

/-- Whether an update or an advance is in progress. -/
def updBusy (s : State) : Bool := s.flag F.SEC_UPD_STATUS_BUSY || s.flag F.SEC_ARB_BUSY

/-- A write of V to SEC_ARB.ADVANCE. -/
def arbAdvance (mid v : Nat) (s : State) : State :=
  if s.fuses.arb < v ∧ v ≤ 64 ∧ v ≤ s.get F.SEC_SVN_RUN ∧ v ≤ s.get F.SEC_SVN_FLASH ∧ s.flag F.SEC_ARB_BUSY = false then
    { s.set F.SEC_ARB_BUSY 1 with sec.advanceTo := v, timers := place s.timers arbTimer s.ticks }
  else s.reject mid (R.SEC_ARB.addr 0 0)

def execArbAdvance (m : MasterId) (v : Byte) (s : State) : Res := ok (arbAdvance m.toNat v.toNat s)

/-- The last bit is blown: one bit each millisecond. -/
def execArbAdvanceDone (s : State) : Res :=
  if s.flag F.SEC_ARB_BUSY = false ∨ s.passedUs ((lookup s.timers arbTimer).getD 0) (1000 * (s.sec.advanceTo - s.fuses.arb)) = false
  then ok s
  else ok { s.set F.SEC_ARB_BUSY 0 with fuses.arb := s.sec.advanceTo }

/-! Update (R512). -/

/-- Address and length of an update. -/
def updAddr (s : State) : Nat := s.get F.SEC_UPD_ADDR_LO_ADDR + s.get F.SEC_UPD_ADDR_HI_ADDR * 2 ^ 32

/-- A write of SEC_UPD_CTL.GO, after READY: the image is read as master 0x001 and checked; when it passes, the slot is erased
and programmed. -/
def updateGo (s : State) : State :=
  if s.flag F.HIF_STATUS_READY = false then s
  else if updBusy s || s.sec.calBusy.isSome then s.set F.SEC_UPD_STATUS_RESULT 8
  else
    match memRead 1 (updAddr s) (s.get F.SEC_UPD_LEN_LEN) 0 s with
    | (.data img, s) =>
      match checkImage s img with
      | 0 =>
        { (s.set F.SEC_UPD_STATUS_BUSY 1).set F.SEC_UPD_STATUS_RESULT 0 with
          sec.updImage := img, flash := cutBytes s.flash 0 slotBytes }
      | reason => s.set F.SEC_UPD_STATUS_RESULT reason
    | (.wait, _) => s
    | (_, s) => s.set F.SEC_UPD_STATUS_RESULT 6

def execUpdateGo (s : State) : Res := ok (updateGo s)

/-- Programming and read-back end: `good` says that the slot reads back as the image (R512); a slot that does not holds no
valid image. -/
def execUpdateDone (good : Bool) (s : State) : Res :=
  if s.flag F.SEC_UPD_STATUS_BUSY = false then ok s
  else
    let img := s.sec.updImage
    let s := { s.set F.SEC_UPD_STATUS_BUSY 0 with sec.updImage := [] }
    if good then ok (((flashWrite 0 img s).set F.SEC_UPD_STATUS_RESULT 0).set F.SEC_SVN_FLASH (imageSvn img))
    else ok (s.set F.SEC_UPD_STATUS_RESULT 7)

/-! Recovery (R513, R514). -/

/-- The first LEN bytes of the push buffer. -/
def pushed (s : State) : List Byte :=
  let n := s.get F.SEC_PUSH_CTL_LEN
  (List.range n).map fun i => (lookup s.sec.push i).getD 0

/-- Enters a boot stage. -/
def enterStage (n : Nat) (s : State) : State := s.set F.CAL_BOOT_STAGE n

/-- A write of SEC_PUSH_CTL with GO = 1 in recovery (R514); `good` is the result of the read-back where PERSIST asks for
programming. -/
def pushGo (good : Bool) (s : State) : State :=
  if bootStage s ≠ 7 ∨ s.flag F.SEC_PUSH_STATUS_BUSY then s
  else
    let img := pushed s
    match checkImage s img with
    | 0 =>
      let persist := s.flag F.SEC_PUSH_CTL_PERSIST
      let s := if persist then { s with flash := cutBytes s.flash 0 slotBytes } else s
      if persist && !good then s.set F.SEC_PUSH_STATUS_RESULT 7
      else
        let s := if persist then (flashWrite 0 img s).set F.SEC_SVN_FLASH (imageSvn img) else s
        let s := acceptImage img (s.set F.SEC_PUSH_STATUS_RESULT 0)
        let s := (s.set F.SEC_STATUS_RECOVERY 0).set F.HIF_STATUS_RECOVERY 0
        enterStage 3 { s with sec.push := [] }
    | reason => s.set F.SEC_PUSH_STATUS_RESULT reason

def execPushGo (good : Bool) (s : State) : Res := ok (pushGo good s)

/-! Identity and SPDM (R515 to R519). -/

/-- The certificate chain in the flash identity area. -/
def certChain (s : State) : List Byte :=
  flashRead s identityBase (min (ofBytes (flashRead s identityBase 4)) 8192)

/-- Eight words from the random-number generator. -/
def randomWords (s : State) : List Word × State :=
  let (n, s) := s.fresh
  ((List.range 8).map fun i => Config.random (8 * n + i), s)

def bytesOfWords (ws : List Word) : List Byte := ws.flatMap fun w => toBytes 4 w.toNat

/-- A signature of the security root. -/
def sign (s : State) : List Byte × State :=
  let (n, s) := s.fresh
  (toBytes 64 (Config.signature n).toNat, s)

/-- Measurements of a summary or report, with their indices. -/
def measuresAt (s : State) (is : List Nat) : List (Nat × List Byte) := is.map fun i => (i, s.sec.measures.getD (i - 1) [])

/-- What the responder answers on a connection, and the connection's new stage (R516, R518). -/
def spdmRespond (stage : Nat) (q : SpdmReq) (s : State) : SpdmResp × Nat × State :=
  let valid := s.flag F.SEC_STATUS_IDVALID
  let late := fun (r : SpdmResp × Nat × State) => if stage < 3 then (SpdmResp.error .unexpectedRequest, stage, s) else r
  let bad := fun (e : SpdmError) => (SpdmResp.error e, stage, s)
  match q with
  | .getVersion => (.version 1 2, 1, s)
  | .getCapabilities =>
    if stage = 1 then (.capabilities true true true 13 4096 4096, 2, s) else bad .unexpectedRequest
  | .negotiateAlgorithms p h m =>
    if stage ≠ 2 then bad .unexpectedRequest
    else if p && h && m then (.algorithms, 3, s) else bad .negotiationFail
  | .getDigests => late (.digests (Sha.digest (certChain s)), stage, s)
  | .getCertificate slot off len =>
    late (if valid = false then bad .unspecified
      else
        let chain := certChain s
        if slot ≠ 0 ∨ chain.length ≤ off.toNat then bad .invalidRequest
        else
          let n := min (min len.toNat 2048) (chain.length - off.toNat)
          (.certificate ((chain.drop off.toNat).take n) (chain.length - off.toNat - n), stage, s))
  | .challenge slot kind =>
    late (if valid = false then bad .unspecified
      else if slot ≠ 0 ∨ !([0, 1, 255].contains kind.toNat) then bad .invalidRequest
      else
        let is := if kind = 0 then [] else if kind = 1 then [1, 2] else [1, 2, 3, 4, 5]
        let summary := if kind = 0 then [] else Config.spdmSummary (measuresAt s is)
        let (nonce, s) := randomWords s
        let (sig, s) := sign s
        (.challengeAuth (Sha.digest (certChain s)) (bytesOfWords nonce) summary sig, stage, s))
  | .getMeasurements index signed =>
    late (if signed && !valid then bad .unspecified
      else if 5 < index.toNat ∧ index ≠ 255 then bad .invalidRequest
      else
        let is := if index = 0 then [] else if index = 255 then [1, 2, 3, 4, 5] else [index.toNat]
        let blocks := measuresAt s is
        let (nonce, s) := randomWords s
        let (sig, s) := if signed then sign s else ([], s)
        (.measurements 5 blocks (bytesOfWords nonce) sig, stage, s))
  | .other _ => bad .unsupportedRequest

/-- A request on the DOE mailbox (R519). -/
def doeRequest (q : SpdmReq) (s : State) : State :=
  let (r, n, s) := spdmRespond s.hif.doe.stage q s
  ({ s with hif.doe.stage := n }).emit (.answer 1 (Config.spdmBytes r))

def execGetVersion (s : State) : Res := ok (doeRequest .getVersion s)

def execGetCapabilities (s : State) : Res := ok (doeRequest .getCapabilities s)

def execNegotiateAlgorithms (p256 sha256 dmtf : Bool) (s : State) : Res := ok (doeRequest (.negotiateAlgorithms p256 sha256 dmtf) s)

def execGetDigests (s : State) : Res := ok (doeRequest .getDigests s)

def execGetCertificate (slot : Byte) (off len : BitVec 16) (s : State) : Res := ok (doeRequest (.getCertificate slot off len) s)

def execChallenge (slot summary : Byte) (s : State) : Res := ok (doeRequest (.challenge slot summary) s)

def execGetMeasurements (index : Byte) (signed : Bool) (s : State) : Res := ok (doeRequest (.getMeasurements index signed) s)

def execUnsupportedRequest (code : Byte) (s : State) : Res := ok (doeRequest (.other code) s)

/-- A DOE abort resets that route's connection (R519). -/
def execDoeAbort (s : State) : Res := ok { s with hif.doe.stage := 0 }

/-! The debug lock (R521, R522). -/

/-- The token in SEC_DBG_TOKEN. -/
def tokenWords (s : State) : List Word := (List.range 44).map fun i => (lookup s.sec.token i).getD 0

/-- Whether a token is accepted. -/
def tokenGood (s : State) (ws : List Word) : Bool :=
  let bs := bytesOfWords ws
  let key := (bs.drop 48).take 64
  !s.fuses.permLock && (ws.getD 0 0).toNat == 0x4B4C4E55 && decide ((ws.getD 1 0).toNat < 8) && (ws.drop 2).take 2 == s.fuses.uid &&
    (ws.drop 4).take 8 == s.sec.nonce && keyMatches key s.fuses.dkHash &&
    Config.ecdsaVerify key (Sha.digest (bs.take 112)) (bs.drop 112)

/-- A token is submitted: it is checked unless 8 have been refused, and the nonce is replaced either way. -/
def submitToken (ws : List Word) (s : State) : State :=
  let fails := s.get F.SEC_STATUS_DBGFAILS
  let good := decide (fails < 8) && tokenGood s ws
  let (nonce, s) := randomWords s
  let s := { s with sec.nonce := nonce }
  if good then
    let s := s.set F.SEC_STATUS_DBG 1
    let s := s.set F.SEC_DBG_CTL_SCOPE (s.get F.SEC_DBG_CTL_SCOPE ||| (ws.getD 1 0).toNat)
    measureDebug { s with sec.unlocks := s.sec.unlocks + 1 }
  else s.set F.SEC_STATUS_DBGFAILS (min 8 (fails + 1))

/-- A token through the registers, or through the JTAG DBGTOKEN register. -/
def execDebugTokenSubmit (jtag : Option (Vector Word 44)) (s : State) : Res :=
  match jtag with
  | some ws => ok (submitToken ws.toList s)
  | none => ok (submitToken (tokenWords s) s)

end Sys2Proof.Machine
end

