-- ==== Sys2Proof/Machine/RegWrite.lean ====
section
/-! DEFINITION. Register reads and writes at BAR0 offsets: fields that follow the device's state, reads with an effect, the
actions of written fields, and the classes of R13 to R18 and R580. -/

namespace Sys2Proof.Machine

/-! Clears of counters that have no other home. -/

/-- A write of 1 to BUF_CNT_CLR (R150). -/
def bufCntClr (s : State) : State :=
  s.zeroAll [R.BUF_CNT_MCREP, R.BUF_CNT_MCFENCE, R.BUF_CNT_NOBUF, R.BUF_CNT_SLICESKIP, R.BUF_CNT_SLICEHOLD]

def execBufCntClr (s : State) : Res := ok (bufCntClr s)

/-- A write of 1 to ARR_CNT_CLR (R368). -/
def arrCntClr (c : Nat) (s : State) : State :=
  s.zeroAll [R.ARR_CNT_STREAM, R.ARR_CNT_LOWLAT, R.ARR_CNT_TWOPASS, R.ARR_CNT_BUBBLE, R.ARR_CNT_NEXTLOST, R.ARR_CNT_DENSE,
    R.ARR_CNT_MISMATCH, R.ARR_CNT_RETRY, R.ARR_CNT_DIAG] c

def execArrCntClr (c : ClusterId) (s : State) : Res := if present s c then ok (arrCntClr c s) else ok s

/-- A write of 1 to ERR_CFG.REJECT (R506). -/
def rejectClear (s : State) : State := ((s.set F.ERR_CFG_REJECT 0).zero R.ERR_REJ).zero R.ERR_REJMID

def execRejectClear (s : State) : Res := ok (rejectClear s)

/-- A write of 1 to ERR_CNT_CLR (R506). -/
def errCntClr (s : State) : State :=
  let s := s.zeroAll [R.ERR_CNT_SWITCHIN, R.ERR_CNT_MISSING, R.ERR_CNT_E2EEGR, R.ERR_CNT_LDRIFT, R.ERR_CNT_FWDREPAIR, R.ERR_CE,
    R.ERR_UE, R.ERR_UELOG0, R.ERR_UELOG1, R.ERR_UELOG2]
  s.set F.ERR_CFG_UEFIRST 0

def execErrCntClr (s : State) : Res := ok (errCntClr s)

/-! Reads. -/

/-- CLU_STATUS.QBUSY (R291). -/
def queueBusy (s : State) (c : Nat) : Nat := bitsOf 4 fun q => !((s.clu c).queues.getD q IssueQ.empty).mops.isEmpty

/-- CLU_QSTAT of a queue (R291). -/
def queueStatus (s : State) (c q : Nat) : Nat :=
  match ((s.clu c).queues.getD q IssueQ.empty).mops.filter fun m => !m.left with
  | [] => 0
  | m :: rest =>
    let wait := match m.waitsOn with
      | some (f, _) => f <<< 21 + 1 <<< 29
      | none => 0
    m.slot + min 16 (rest.length + 1) <<< 16 + wait

/-- Stage cycles for which a STREAM feeds rows on the main path (R350, R351, R365): r for each row, twice where the array is narrower than
its panel. -/
def feedCycles (s : State) (c : Nat) (w : List Word) : Nat :=
  let wide := fun (f : Nat) => f == 1 || f == 2
  let a := opdOf w 0
  let p := ((s.clu c).active.map fun p => (opdOf p.copy 0).fmt).getD a.fmt
  let halves := if wide a.fmt || wide p then 4 else if isF4 a.fmt && isF4 p then 1 else 2
  a.rows * mopRepeat w * halves / 2 * (if arrayWidth s c < (opdOf w 1).cols then 2 else 1)

/-- Whether a macro-op is a STREAM that feeds the main path, reckoned by the stage clock from its start; afterwards it drains (R350). -/
def feeding (s : State) (c : Nat) (m : Mop) : Bool :=
  match m.phase with
  | .running t =>
    mopFamily m.copy == 0x02 && !m.low && (s.clu c).recov.isNone &&
      decide (s.elapsed t * curMhz s (dieOf c) < 100 * feedCycles s c m.copy)
  | _ => false

/-- Whether the array is inside a macro-op (R350, R366). -/
def arrayBusy (s : State) (c : Nat) : Bool :=
  let k := s.clu c
  k.diag.isSome || k.recov.isSome || (k.queues.getD 0 IssueQ.empty).mops.any fun m => feeding s c m || match m.phase with
    | .running _ => m.low || mopFamily m.copy == 0x01
    | _ => false

/-- ARR_STATUS (R368). -/
def arrayStatus (s : State) (c : Nat) : Nat :=
  let k := s.clu c
  let mops := (k.queues.getD 0 IssueQ.empty).mops
  arrayWidth s c + b2n k.active.isSome <<< 7 + b2n k.next.isSome <<< 8 + b2n (mops.any (feeding s c)) <<< 9 +
    b2n (mops.any fun m => m.low && match m.phase with | .running _ => true | _ => false) <<< 10 + b2n k.recov.isSome <<< 11 +
    b2n k.diag.isSome <<< 12

/-- XRED_STATUS (R246). -/
def reducerStatus (s : State) (n : Nat) : Nat :=
  let active := (s.colls.filter fun e =>
    let st := collState s e.1
    e.2.express && e.2.hdr.engine / 5 == n && (st == xRunning || st == xDraining)).length
  expressBound s n + active <<< 9

/-- The value of a register as a read returns it, where it follows other state; `none` where the register holds it. -/
def mirrored (s : State) (r : Reg) (i j : Nat) : Option Nat :=
  match r.blk with
  | .DEV =>
    if r.off < 8 ∧ (bootStage s < 5 ∨ bootStage s = 7) then some 0
    else if r.off = 0 then some (0x7240 + 0xE <<< 16 + s.fuses.memopt <<< 24)
    else if 0x100 ≤ r.off ∧ r.off < 0x200 then some (scaleWord s (r.off + j * r.step))
    else none
  | .HIF =>
    if r.off = 0x101C then some (evqStatus s)
    else if r.off = 0x2018 then some (ringStatus s j)
    else if r.off = 0x201C then some (ringCq s j)
    else none
  | .SEC =>
    if r.off = 0 then some (withField (s.rd r i j) 8 1 (b2n s.fuses.permLock))
    else if r.off = 4 then some (withField (s.rd r i j) 16 8 s.fuses.arb)
    else if r.off = 0x10 then some (s.fuses.uid.getD j 0).toNat
    else if r.off = 0x20 then some (s.fuses.vkHash.getD j 0).toNat
    else if r.off = 0x40 then some (s.fuses.dkHash.getD j 0).toNat
    else if r.off = 0x100 then some (s.sec.nonce.getD j 0).toNat
    else none
  | .PWR => if r.off = 0 then some (domainState s j) else none
  | .CLK => if r.off = 0x80 then some (withField (s.rd r i j) 0 12 (curMhz s j)) else none
  | .CAL => if r.off = 8 then some (withField (s.rd r i j) 24 1 (b2n s.sec.calBusy.isSome)) else none
  | .TEL =>
    if portDefined s (i / 9) = false then some 0
    else if r.off = 4 then some (depth s (i / 9) (i % 9))
    else none
  | .TELF =>
    if r.off = 0x40004 then some s.net.sampleHi
    else if r.off = 0x40008 then some s.net.samples.items.length
    else none
  | .FWD =>
    if r.off = 0x14 then some (tableWord s (s.get F.FWD_IND_SEL_TABLE) (s.get F.FWD_IND_SEL_INDEX))
    else if r.off = 0x18 then some s.net.staging.length
    else if r.off = 0x100 then some (bitsOf 32 fun b => portFenced s (32 * j + b))
    else none
  | .BUF => if r.off = 0x100 then some (((s.pool 0).stores[j]?).map FreeStore.count |>.getD 0) else none
  | .POOL => if r.off = 0x44 then some (s.pool i).free else none
  | .SCHED => if r.off = 0xA0 then some (unsigned 25 (shaperNow s i j / 65536)) else none
  | .COLL =>
    let g := s.coll i
    if r.off = 0x18 then some (g.inflight.length + g.finished.length <<< 4)
    else if r.off = 0x1C then some g.early.length
    else none
  | .XRED => if r.off = 0 then some (reducerStatus s i) else none
  | .CLU =>
    if cluState s i = stMissing then some (if r.off = 0 then stMissing else 0)
    else if r.off = 0 then some (withField (s.rd r i j) 12 4 (queueBusy s i))
    else if r.off = 0x20 then some (s.clu i).pc
    else if r.off = 0x30 then some (queueStatus s i j)
    else if r.off = 0x40 then some (s.clu i).outstanding
    else none
  | .ARR =>
    if cluState s i = stMissing then some 0
    else if r.off = 0 then some (arrayStatus s i)
    else none
  | .STK => if r.off = 0x18 then some (bitsOf 32 fun p => s.flag F.STK_PCH_FENCED i p) else none
  | _ => none

/-- The bits of a register that a read can return: those of fields that are not write-only (R13). -/
def readable (r : Reg) (w : Nat) : Nat :=
  r.fields.foldl (fun n f => if f.acc = .woL then n else n + fieldOf w f.lo f.width <<< f.lo) 0

/-- A read of a register by its BAR0 offset, with the effect that it has (R168, R177, R391, R124); a reserved offset reads
as zero. -/
def regRead (o : Nat) (s : State) : Nat × State :=
  match findReg o with
  | none => (0, s)
  | some (r, i, j) =>
    if r.blk = .TIME ∧ r.off = 0x80 then timeNowRead s
    else if r.blk = .TELF ∧ r.off = 0x40000 then sfifoPop s
    else if r.blk = .DEV ∧ r.off = 0x10000 then jobSeedRead j s
    else if r.blk = .DEV ∧ r.off = 0x10004 then ((s.job j).seedR, s)
    else if r.blk = .DEV ∧ r.off = 0x10008 then jobStepRead j s
    else if r.blk = .DEV ∧ r.off = 0x1000C then ((s.job j).stepR, s)
    else
      let v := readable r ((mirrored s r i j).getD (s.rd r i j))
      (v, if r.blk = .FWD ∧ r.off = 0x14 then indAdvance s else s)

/-! Writes. -/

/-- The commit group whose COMMIT register is `r` of instance `i`. -/
def commitAt (r : Reg) (i : Nat) : Option CommitGroup :=
  match groupOf r i with
  | some g => if (groupRegs g).2.1 = r then some g else none
  | none => none

/-- What a write of `v` to register `r` does beyond the fields that keep it; `was` is the register's word before it. -/
def writeAction (r : Reg) (i j mid v was : Nat) (s : State) : State :=
  let one := v.testBit 0
  match r.blk with
  | .DEV =>
    match r.off with
    | 0x10000 => jobChange j (v + (s.job j).seedW * 2 ^ 32) (s.job j).step s
    | 0x10004 => s.setJob j { s.job j with seedW := v }
    | 0x10008 => jobChange j (s.job j).seed (v + (s.job j).stepW * 2 ^ 32) s
    | 0x1000C => s.setJob j { s.job j with stepW := v }
    | 0x11000 => jobChange (v % 256) (s.job (v % 256)).seed ((s.job (v % 256)).step + 1) s
    | _ => s
  | .HIF =>
    match r.off with
    | 0x000 => sqDoorbell j (v % 65536) s
    | 0x004 => cqDoorbell j (v % 65536) s
    | 0x200 => evqDoorbell (v % 65536) s
    | 0x1018 => evqControl (was.testBit 31) mid s
    | 0x103C => if one then hifCntClr s else s
    | 0x2010 => ringControl (was.testBit 31) mid j s
    | _ => s
  | .ACC => if r.off = 0x408 ∧ v.testBit 1 then accDenyClr i s else s
  | .SEC =>
    match r.off with
    | 0x008 => arbAdvance mid (v % 256) s
    | 0x08C => if one then updateGo s else s
    | 0x0A0 =>
      if v.testBit 31 then
        let (n, s) := s.fresh
        pushGo (Config.readBack n) s
      else s
    | 0x120 => if one then submitToken (tokenWords s) s else s
    | 0x200 => { s with sec.token := place s.sec.token j (BitVec.ofNat 32 v) }
    | _ => s
  | .PWR => if r.off = 0xC28 ∧ one then pwrCntClr s else s
  | .CLK =>
    match r.off with
    | 0x000 => startChange j s
    | 0x234 => if one then unlockClr s else s
    | _ => s
  | .ERR =>
    match r.off with
    | 0x000 => if one then rejectClear s else s
    | 0x014 => if v.testBit 31 then uFail mid (v % 128) s else s
    | 0x03C => if one then errCntClr s else s
    | _ => s
  | .TEL => if r.off = 0x10 ∧ one then telQClr i s else s
  | .TIME =>
    match r.off with
    | 0x00 => tideControl (fieldOf was F.TIME_CTL_EN.lo 1 == 1) s
    | 0xDC => if one then timeCntClr s else s
    | _ => s
  | .CUE =>
    match r.off with
    | 0x00 => cueEnable i one (s.set F.CUE_CTL_EN (was % 2) i)
    | 0x30 => if one then cueCntClr i s else s
    | _ => s
  | .CURT => if r.off = 0x38 ∧ one then curtClr i s else s
  | .PORT =>
    if r.off = 0 then
      let s := s.set F.PORT_CTL_EN (was % 2) i
      let s := if one then portEnable mid i s else if was % 2 = 1 then portDisable i s else s
      let s := if v.testBit F.PORT_CTL_RETRAIN.lo then retrainPort i s else s
      if v.testBit F.PORT_CTL_REWIDEN.lo then portRewiden i s else s
    else if r = R.PORT_CNT_CLR ∧ one then portCntClr i s
    else s
  | .FWD =>
    if r.off = 0x14 then
      indAdvance (stageWord mid (s.get F.FWD_IND_SEL_TABLE) (s.get F.FWD_IND_SEL_INDEX) v s)
    else if r = R.FWD_CNT_CLR ∧ one then fwdCntClr s
    else s
  | .BUF => if r.off = 0x24 ∧ one then bufCntClr s else s
  | .POOL =>
    match r.off with
    | 0x00 =>
      let s := s.set F.POOL_CTL_EN (was % 2) i
      if one then (poolEnable i mid s).2 else if was % 2 = 1 then (poolDisable i mid s).2 else s
    | 0x40 => if v.testBit F.POOL_STATUS_CLR.lo then poolStatusClear i s else s
    | _ => s
  | .SCHED => if r.off = 0x168 ∧ one then schedCntClr i s else s
  | .COLL =>
    match r.off with
    | 0x00 =>
      let s := if one then collStartWrite mid i s else s
      if v.testBit 1 then collAbortWrite i s else s
    | 0x20 => stragWrite i v s
    | 0x48 => if one then collCntClr i s else s
    | _ => s
  | .XRED => if r.off = 0x1C ∧ one then xredCntClr i s else s
  | .CLU =>
    match r.off with
    | 0x04 =>
      let s := if one then haltStop i s else s
      if v.testBit 1 then resumeCluster mid i s else s
    | 0x60 => if one then cluCntClr i s else s
    | _ => s
  | .ARR => if r.off = 0x64 ∧ one then arrCntClr i s else s
  | .STK =>
    match r.off with
    | 0x14 => if v.testBit 8 then retrainStack i s else s
    | 0x18 => stackFenceWrite i v s
    | 0x20 => cacheOp (v % 8) i mid s
    | 0x70 => if one then stkCntClr i s else s
    | _ => s
  | _ => s

/-- A write to a group's COMMIT register (R16 to R18); a gate list is checked and takes its takeover time (R162, R166). -/
def commitWrite (g : CommitGroup) (mid tag : Nat) (s : State) : State :=
  match g with
  | .gate p => gateArm p mid tag s
  | .arr c =>
    let was := s.armed g
    let s := armCommit g mid tag s
    if was = false ∧ s.armed g then s.setClu c { s.clu c with found := 0 } else s
  | g => armCommit g mid tag s

/-- Whether a register takes no write at all: those of a missing cluster (R291, R368) and of queues of ports outside the
layout (R171). -/
def ignoresWrites (s : State) (r : Reg) (i : Nat) : Bool :=
  match r.blk with
  | .CLU | .ARR => cluState s i == stMissing
  | .TEL => !portDefined s (i / 9)
  | _ => false

/-- A TC credit value that is ignored (R82). -/
def creditBad (units : Nat) : Bool := units != 0 && (decide (units < 17) || decide (16384 < units))

/-- The word that a write leaves after reserved bits of one row of an array (R14): CURT_MEM2 [31:16] (R207). -/
def rowWord (r : Reg) (j v : Nat) : Nat := if r = R.CURT_MEM ∧ j = 2 then v % 2 ^ 16 else v

/-- A write of a word to a register by its BAR0 offset (R12 to R18, R580); a write to a reserved offset is ignored. A
COMMIT register arms its group; pool 0's static fields are fixed (R151); thresholds above their reset value (R541) and credit that a
port cannot advertise (R82) are refused whole; a change of form loads its
preset (R581). -/
def regWrite (mid o v : Nat) (s : State) : State :=
  match findReg o with
  | none => s
  | some (r, i, j) =>
    if ignoresWrites s r i then s
    else match commitAt r i with
      | some g => commitWrite g mid v s
      | none =>
        if (r = R.PWR_TLIM ∨ r = R.PWR_TLIMS) ∧ limitsRaised r v then s.reject mid (r.addr i j)
        else if r = R.PORT_CRED ∧ creditBad (fieldOf v 0 16) then s.reject mid (r.addr i j)
        else if r.blk = .POOL ∧ i = 0 ∧ r.fields.any (fun f => f.acc = .rwS) then
          if r.off = 0 then s.set F.POOL_CTL_LOWMASK (fieldOf v F.POOL_CTL_LOWMASK.lo F.POOL_CTL_LOWMASK.width) 0 else s
        else if r.blk = .FWD ∧ r.off = 0x14 then writeAction r i j mid v 0 s
        else if r.blk = .DEV ∧ 0x10000 ≤ r.off then writeAction r i j mid v 0 s
        else
          let was := s.rd r i j
          let v := rowWord r j v
          let s := if r = R.LINK_CFG then formWrite mid i (fieldOf v F.LINK_CFG_FORM.lo F.LINK_CFG_FORM.width) s else s
          writeAction r i j mid v was (writeFields (ownEnable portOfLane r i j s) r i j mid v s)

/-- A write to a register with no row of its own. DESIGN CHOICE (log entry 126): the command stands for a write that
its target's access table has admitted (R47). -/
def execRegisterWrite (m : MasterId) (off : BitVec 24) (v : Word) (s : State) : Res :=
  ok (regWrite m.toNat (4 * off.toNat) v.toNat s)

/-- A write to a COMMIT register (R16 to R18); that of a missing cluster takes none (R368). DESIGN CHOICE (log entry 126): an admitted one (R47). -/
def execBlockCommit (m : MasterId) (g : CommitGroup) (tag : Byte) (s : State) : Res :=
  match g with
  | .arr c => if cluState s c = stMissing then ok s else ok (commitWrite g m.toNat tag.toNat s)
  | g => ok (commitWrite g m.toNat tag.toNat s)

/-! Register accesses by bytes: 4 or 8, aligned (R582). -/

def regBytes (_mid off len : Nat) (s : State) : List Byte × State :=
  let (lo, s) := regRead off s
  if len ≤ 4 then (toBytes 4 lo, s)
  else
    let (hi, s) := regRead (off + 4) s
    (toBytes 4 lo ++ toBytes 4 hi, s)

def regPut (mid off : Nat) (bs : List Byte) (s : State) : State :=
  let s := regWrite mid off (ofBytes (bs.take 4)) s
  if bs.length ≤ 4 then s else regWrite mid (off + 4) (ofBytes (bs.drop 4)) s

end Sys2Proof.Machine
end

