-- ==== Sys2Proof/Machine/Stevedore.lean ====
section
/-! DEFINITION. The stevedore's accesses and fabric transfers (R274, R275, R330 to R332): how a transfer is cut into packets,
what a response does, and the ends of requests that get none. -/

namespace Sys2Proof.Machine

/-! Accesses of a cluster's units. -/

/-- Segments read by the stevedore until one fails, which ends the transfer: what was read, and how it ended (R56, R274). -/
def moveReads (c hint : Nat) : List (Nat × Nat) → State → List Byte × AccRes × State
  | [], s => ([], .data [], s)
  | p :: rest, s =>
    match readParts regBytes (stevedoreId c) hint [p] s with
    | (.data bs, s) => let (more, r, s) := moveReads c hint rest s; (bs ++ more, r, s)
    | (r, s) => ([], r, s)

/-- A read by the stevedore, checked in 4 KiB segments (R56, R274). -/
def moveRead (c hint a n : Nat) (s : State) : AccRes × State :=
  match moveReads c hint (accParts s a n true) s with
  | (bs, .data _, s) => (.data bs, s)
  | (_, r, s) => (r, s)

/-- Segments written by the stevedore until one fails, which ends the transfer; segments written before stay (R56). -/
def moveSegs (c hint : Nat) : List (Nat × Nat) → List Byte → State → AccRes × State
  | [], _, s => (.data [], s)
  | p :: rest, bs, s =>
    match writeParts regPut (stevedoreId c) hint [p] (bs.take p.2) s with
    | (.data _, s) => moveSegs c hint rest (bs.drop p.2) s
    | r => r

/-- A write by the stevedore. -/
def moveWrite (c hint a : Nat) (bs : List Byte) (s : State) : AccRes × State :=
  moveSegs c hint (accParts s a bs.length true) bs s

/-- Macro-op status of an access that failed (R341). -/
def mopAccess (r : AccRes) : Nat :=
  match r with
  | .data _ => 0x00
  | .refused _ => 0x02
  | .bad => 0x05
  | .wait => 0x00

/-! Stochastic rounding of a macro-op (R343). -/

/-- The draw for output position `pos`. -/
def mopDraw (c : Nat) (m : Mop) (pos : Nat) : Nat :=
  srgen m.seed m.step (0x02000000 + c * 2048 + m.slot) pos

/-- A row of `cols` elements converted between formats; its first element is output position `pos`. -/
def mopConvert (c : Nat) (m : Mop) (a b cols pos : Nat) (bs : List Byte) : List Byte :=
  convertRow a b (mopRmode m.copy) (fun i => mopDraw c m (pos + i)) cols bs

/-- Elements of a row of `cols` whose values its first `got` bytes settle: of a block format only those whose scale is among them (R375,
R376). -/
def knownElems (fmt cols got : Nat) : Nat :=
  min cols (if isBlock fmt then 32 * (got - dataBytes fmt cols) else got * 8 / max 1 (elemBits fmt))

/-- A list in pieces of `n`. -/
def piecesOf {α : Type} (n : Nat) (l : List α) : List (List α) :=
  (List.range (ceilDiv l.length (max 1 n))).map fun i => (l.drop (i * max 1 n)).take (max 1 n)

/-- Elements of an output row of which `n` elements are known that can be written: whole blocks, and pairs of 4-bit elements (R371, R383). -/
def writableElems (fmt n : Nat) : Nat := if isBlock fmt then n / 32 * 32 else if isF4 fmt then n / 2 * 2 else n

/-- Rows of `ac` elements made into rows of `bc`, element for element, and converted (R330, R380, R383): a copy moves codes
and block scales unchanged. -/
def regroup (c : Nat) (m : Mop) (a ac b bc pos : Nat) (rows : List (List Byte)) : List (List Byte) :=
  if ac = bc then rows.zipIdx.map fun (bs, i) => mopConvert c m a b ac (pos + i * ac) bs
  else if a = b then
    let codes := piecesOf bc (rows.flatMap (rowCodes a ac))
    let scales := if isBlock a then piecesOf (bc / 32) (rows.flatMap fun r => (r.drop (dataBytes a ac)).take (ac / 32)) else []
    codes.zipIdx.map fun (cs, i) => codeBytes a cs ++ scales.getD i []
  else if isFloat a && isFloat b then
    (piecesOf bc (rows.flatMap (rowNums a ac))).zipIdx.map fun (xs, i) =>
      encodeRow b (if pairExact a b then 0 else mopRmode m.copy) (fun j => mopDraw c m (pos + i * bc + j)) xs
  else (piecesOf bc (rows.flatMap (rowCodes a ac))).map fun cs => mopConvert c m a b cs.length 0 (codeBytes a cs)

/-- The same where status `st`, 0 for none, tells that reading ended after the first bytes `part` of one more row (R56, R341): the rows
that these settle, the last as far as its elements can be written. -/
def regroupUpTo (c : Nat) (m : Mop) (a ac b bc pos st : Nat) (rows : List (List Byte)) (part : List Byte) : List (List Byte) :=
  if st = 0 then regroup c m a ac b bc pos rows
  else if a = b ∧ ac = bc then rows ++ [part]
  else
    let known := rows.length * ac + knownElems a ac part.length
    let full := part ++ List.replicate (rowBytes a ac - part.length) 0
    let out := regroup c m a ac b bc pos (rows ++ [full])
    let whole := known / max 1 bc
    let n := writableElems b (known % max 1 bc)
    out.take whole ++ (if n = 0 then [] else [(out.getD whole []).take (n * elemBits b / 8)])

/-! Cutting (R274). -/

/-- The smallest part of a fabric transfer: its first element, counted over all repetitions, and number of elements; local
address and bytes there; address at the endpoint and bytes on the wire. A scale byte carries no element. -/
structure WirePart where
  pos : Nat
  n : Nat
  loc : Nat
  nloc : Nat
  rem : Nat
  nw : Nat
  deriving DecidableEq, Repr

/-- The shape of a transfer: format, elements of a repetition and columns of a row on the wire, and elements that stay together. -/
structure WireShape where
  fmt : Nat
  elems : Nat
  cols : Nat
  unit : Nat
  deriving DecidableEq, Repr

/-- Local address of element `e` of repetition `k` of an operand, its rows taken one after another (R321). -/
def Opd.elemAddr (o : Opd) (c k e : Nat) : Nat :=
  o.rowAddr c k (e / max 1 o.cols) + e % max 1 o.cols * elemBits o.fmt / 8

/-- Elements of one part: pairs where the wire has 4-bit elements, or a row of it holds pairs of the local operand's. -/
def WireShape.step (w : WireShape) (l : Opd) : Nat := max w.unit (if isF4 w.fmt || isF4 l.fmt && w.cols % 2 == 0 then 2 else 1)

/-- Rows of a repetition on the wire; the last may hold fewer elements. -/
def WireShape.rows (w : WireShape) : Nat := ceilDiv w.elems (max 1 w.cols)

/-- The parts of wire row `j` of repetition `k`: elements, then the scale bytes of the wire format (R376). -/
def rowParts (c : Nat) (l : Opd) (w : WireShape) (k j ra : Nat) : List WirePart :=
  let step := w.step l
  let wb := step * elemBits w.fmt / 8
  let lb := step * elemBits l.fmt / 8
  let held := min w.cols (w.elems - j * w.cols)
  let at_ := fun (i : Nat) => k * w.elems + j * w.cols + i
  let elems := (List.range (ceilDiv held step)).map fun i =>
    (⟨at_ (i * step), step, l.elemAddr c k (j * w.cols + i * step), lb, ra + i * wb, wb⟩ : WirePart)
  let d := dataBytes w.fmt w.cols
  let scales := if isBlock w.fmt then (List.range (ceilDiv held 32)).map fun b =>
      if l.fmt = w.fmt ∧ l.cols = w.cols then (⟨at_ 0, 0, l.rowAddr c k j + d + b, 1, ra + d + b, 1⟩ : WirePart)
      else ⟨at_ 0, 0, l.elemAddr c k (j * w.cols + 32 * b + 31), 0, ra + d + b, 1⟩
    else []
  elems ++ scales

/-- The parts of wire row `j` of repetition `k`, which stands at the endpoint as row `j` of the operand `r` (R321, R323). -/
def wireRow (c : Nat) (l r : Opd) (w : WireShape) (k j : Nat) : List WirePart :=
  rowParts c l w k j ((r.baseAt k + j * r.pitch) % 2 ^ 48)

/-- Parts of all rows of a transfer: local operand `l`, operand `r` at the endpoint. -/
def transferParts (c : Nat) (l r : Opd) (w : WireShape) (reps : Nat) : List WirePart :=
  (List.range (reps * w.rows)).flatMap fun i => wireRow c l r w (i / max 1 w.rows) (i % max 1 w.rows)

/-- Whether a part may join the packet that ends with `last`, which holds `held` bytes. -/
def mayJoin (limit chunk held : Nat) (last p : WirePart) : Bool :=
  last.loc / 4096 == p.loc / 4096 && last.rem + last.nw == p.rem && held + p.nw ≤ limit && last.rem / chunk == p.rem / chunk

/-- The packets of a transfer as lists of parts: each within one local 4 KiB segment, contiguous at the endpoint, at most
`limit` bytes, not across a boundary of `chunk` bytes there, and as large as these allow. `cur` is the packet being filled,
newest part first. -/
def gatherParts (limit chunk : Nat) : List WirePart → List WirePart → Nat → List (List WirePart)
  | [], cur, _ => if cur.isEmpty then [] else [cur.reverse]
  | p :: rest, cur, held =>
    match cur with
    | [] => gatherParts limit chunk rest [p] p.nw
    | last :: _ =>
      if mayJoin limit chunk held last p then gatherParts limit chunk rest (p :: cur) (held + p.nw)
      else cur.reverse :: gatherParts limit chunk rest [p] p.nw

/-! Requests. -/

/-- A transfer with its packets: the endpoint or context, the kind, and per packet its address, sequence number, the part it
begins with, the number of parts, and its header and payload. -/
def beginXfer (c q seq dst kind : Nat) (reqs : List (Nat × Nat × Header × List Byte)) (s : State) : State :=
  let k := s.clu c
  let id := k.nextXfer
  let rs := reqs.zipIdx.map fun (r, i) => (⟨i, r.1, r.2.1, s.ticks⟩ : RemoteReq)
  let s := s.setClu c { k with xfers := k.xfers ++ [⟨id, q, seq, dst, kind, rs, []⟩], nextXfer := id + 1 }
  reqs.foldl (fun t r => inject (stevedoreId c) id (cluJob t c) r.2.2.1 r.2.2.2 t) s

/-- Header of a packet of a SEND, RECV or ROUTE (R330). -/
def moveHeader (c : Nat) (m : Mop) (dst cls kind : Nat) (ord : Bool) (addr seq len : Nat) (s : State) : Header where
  dst := BitVec.ofNat 20 dst
  src := BitVec.ofNat 20 (selfId s)
  cls := BitVec.ofNat 4 cls
  kind := BitVec.ofNat 6 kind
  len := BitVec.ofNat 13 len
  ord := ord
  cm := false
  rsvA := 0
  ctx := 0
  rsvB := 0
  seq := BitVec.ofNat 32 seq
  step := BitVec.ofNat 16 m.step
  addr := BitVec.ofNat 48 addr
  flow := BitVec.ofNat 32 (c * 65536 + m.slot)
  rsvC := 0

/-- The transfer and request that a response answers: of the cluster and slot in FLOW, sent to the endpoint it comes from,
with its SEQ; of equal ones the oldest (R104, R330). -/
def awaited (get : Bool) (h : Header) (s : State) : Option (Nat × Xfer × RemoteReq) :=
  let c := h.flow.toNat / 65536
  if 80 ≤ c then none
  else
    let k := s.clu c
    k.xfers.findSome? fun x =>
      let slot := (k.mopOf x.q x.seq).map Mop.slot
      let kind := if get then x.kind == 1 else x.kind == 0 || x.kind == 1
      if kind && x.dst == h.src.toNat && slot == some (h.flow.toNat % 65536) then
        (x.reqs.find? fun r => r.seq == h.seq.toNat).map fun r => (c, x, r)
      else none

/-- An error status of a response as a macro-op status (R332). -/
def remoteStatus (status : Nat) : Nat :=
  match status with
  | 0x01 => 0x06
  | 0x04 => 0x08
  | _ => 0x07

/-! Responses. -/

/-- A response that no injector awaits is discarded (R102). -/
def dropResponse (id : Nat) (h : Header) (s : State) : State := devRxDone id (countDrop h 2 s)

/-- An ACK (R102, R332): of a PUT_ACK with status OK it acknowledges; any other ends the transfer with an error. -/
def ackRx (id : Nat) (k : Pkt) (s : State) : State :=
  let status := fieldOf (ofBytes (k.payload.take 8)) 0 8
  match awaited false k.hdr s with
  | none => dropResponse id k.hdr s
  | some (c, x, r) =>
    if status = 0 then
      if x.kind = 1 then dropResponse id k.hdr s else reqDone c x.id r.seq (devRxDone id s)
    else xferFail c (remoteStatus status) x (reqDone c x.id r.seq (devRxDone id s))

def execAck (i : BitVec 12) (s : State) : Res := ok (collPacket .ack ackRx i.toNat s)

/-- The shape of a RECV on the wire: that of A. -/
def recvShape (m : Mop) : WireShape :=
  let a := opdOf m.copy 0
  ⟨a.fmt, a.rows * a.cols, a.cols, 1⟩

/-- The parts that a RECV's request covers, counted from `elem`. -/
def recvParts (c : Nat) (m : Mop) (r : RemoteReq) : List WirePart :=
  ((transferParts c (opdOf m.copy 1) (opdOf m.copy 0) (recvShape m) (mopRepeat m.copy)).drop r.elem).take r.n

/-- Whether a RECV can write only rows that have come whole: block scales stand apart from their elements, and a pair of 4-bit elements may
come from two rows. -/
def wholeRows (a b : Opd) : Bool :=
  (isBlock a.fmt || isBlock b.fmt) && (a.fmt != b.fmt || a.cols != b.cols) || isF4 b.fmt && a.cols % 2 == 1

/-- Local writes of received parts where parts stand alone: each converted by itself, neighbours joined. -/
def partWrites (c : Nat) (m : Mop) : List WirePart → List Byte → List (Nat × List Byte)
  | [], _ => []
  | p :: ps, bs =>
    let a := opdOf m.copy 0
    let b := opdOf m.copy 1
    let w := if a.fmt = b.fmt then bs.take p.nw else mopConvert c m a.fmt b.fmt p.n p.pos (bs.take p.nw)
    match partWrites c m ps (bs.drop p.nw) with
    | (x, more) :: rest => if p.loc + w.length = x then (p.loc, w ++ more) :: rest else (p.loc, w) :: (x, more) :: rest
    | [] => [(p.loc, w)]

/-- Writes of a list of addresses; the first failure ends them (R341). -/
def moveWrites (c hint : Nat) : List (Nat × List Byte) → State → AccRes × State
  | [], s => (.data [], s)
  | (a, bs) :: rest, s =>
    match moveWrite c hint a bs s with
    | (.data _, s) => moveWrites c hint rest s
    | r => r

/-- Rows that have come whole: their local writes, and what is left. Where A and B have different COLS a repetition is
written as one. -/
def rowWrites (c : Nat) (m : Mop) (parts : SMap (List Byte)) : List (Nat × List Byte) × SMap (List Byte) :=
  let a := opdOf m.copy 0
  let b := opdOf m.copy 1
  let per := (rowParts c b (recvShape m) 0 0 0).length
  let n := if a.cols = b.cols then 1 else a.rows
  let groups := (List.range (mopRepeat m.copy * a.rows / max 1 n)).filter fun g =>
    0 < per && (List.range (n * per)).all fun j => (lookup parts (g * n * per + j)).isSome
  (groups.flatMap fun g =>
    let rows := (List.range n).map fun i => (List.range per).flatMap fun j => (lookup parts ((g * n + i) * per + j)).getD []
    let k := g * n / max 1 a.rows
    let first := if a.cols = b.cols then g % max 1 a.rows else 0
    (regroup c m a.fmt a.cols b.fmt b.cols (g * n * a.cols) rows).zipIdx.map fun (bs, i) => (b.rowAddr c k (first + i), bs),
    parts.filter fun e => !groups.contains (e.1 / max 1 (n * per)))

/-- Received bytes as numbered parts. -/
def numberParts : List WirePart → Nat → List Byte → SMap (List Byte) → SMap (List Byte)
  | [], _, _, m => m
  | p :: ps, i, bs, m => numberParts ps (i + 1) (bs.drop p.nw) (place m i (bs.take p.nw))

/-- Adds to what a macro-op's writes have counted (R500). -/
def Mop.count (more : List Nat) (m : Mop) : Mop :=
  { m with counted := (List.range 16).map fun i => m.counted.getD i 0 + more.getD i 0 }

/-- The bytes that have been added to each counter slot between two states of a cluster (R500). -/
def countedSince (before after : Clu) : List Nat :=
  (List.range 16).map fun i => (after.counters.getD i Counter.zero).count - (before.counters.getD i Counter.zero).count

/-- A GETRESP (R102, R330, R332): its data is written to the RECV's destination. -/
def getRespRx (id : Nat) (k : Pkt) (s : State) : State :=
  match awaited true k.hdr s with
  | none => dropResponse id k.hdr s
  | some (c, x, r) =>
    match (s.clu c).mopOf x.q x.seq with
    | none => dropResponse id k.hdr s
    | some m =>
      let a := opdOf m.copy 0
      let b := opdOf m.copy 1
      let parts := recvParts c m r
      if k.bad then xferFail c 0x07 x (reqDone c x.id r.seq (devRxDone id s))
      else if k.payload.length ≠ parts.foldl (fun n p => n + p.nw) 0 then dropResponse id k.hdr s
      else
        let (writes, left) :=
          if wholeRows a b then rowWrites c m (numberParts parts r.elem k.payload x.parts)
          else (partWrites c m parts k.payload, x.parts)
        let before := s.clu c
        match moveWrites c b.hint writes s with
        | (.wait, _) => s
        | (res, s) =>
          let more := countedSince before (s.clu c)
          let s := s.setClu c ((s.clu c).mapMop x.q x.seq (Mop.count more))
          let s := reqDone c x.id r.seq (devRxDone id s)
          let cl := s.clu c
          let s := s.setClu c { cl with xfers := cl.xfers.map fun y => if y.id = x.id then { y with parts := left } else y }
          if mopAccess res = 0 then s else xferFail c (mopAccess res) x s

def execGetresp (i : BitVec 12) (s : State) : Res := ok (collPacket .getResp getRespRx i.toNat s)

/-! Requests that get no response (R332). -/

/-- Requests of a cluster that have waited WAITUS (R332, R427); no timer of a HALTED or FENCED cluster runs. -/
def norespDue (c : Nat) (s : State) : State :=
  let st := cluState s c
  if st = stHalted ∨ st = stFenced then s
  else
    let us := max 1 (s.get F.CLU_WDOG_WAITUS c)
    (s.clu c).xfers.foldl (fun t x =>
      if x.kind = 2 ∨ !(x.reqs.any fun r => s.passedUs r.sentAt us) then t
      else
        let t := (x.reqs.filter fun r => s.passedUs r.sentAt us).foldl (fun u r => reqDone c x.id r.seq u) t
        xferFail c 0x09 x t) s

def execNorespTimeout (c : ClusterId) (s : State) : Res := ok (norespDue c s)

/-- A packet of a stevedore that its injector drops because the endpoint is fenced ends the transfer (R121, R332). -/
def execInjectedPacketStart (m : MasterId) (i : BitVec 12) (s : State) : Res :=
  let mid := m.toNat
  match ((lookup s.net.injq mid).getD [])[i.toNat]? with
  | none => ok s
  | some k =>
    let t := injectStart mid i.toNat s
    let gone := ((lookup t.net.injq mid).getD []).length < ((lookup s.net.injq mid).getD []).length
    if 0x060 ≤ mid ∧ mid < 0x0B0 ∧ gone ∧ s.flag F.FWD_CTL_EN ∧ !forDevice s k.hdr ∧ epFenced s k.hdr.dst.toNat then
      let c := mid - 0x060
      match (t.clu c).xfers.find? fun x => x.id == k.xfer with
      | some x => ok (xferFail c 0x08 x (reqDone c x.id k.hdr.seq.toNat t))
      | none => ok t
    else ok t

/-- A GETRESP for this device whose frame ends with ABT ends its transfer (R332). -/
def abortedResponse (f : RxFrame) (s : State) : State :=
  if kindOf f.hdr = .getResp ∧ forDevice s f.hdr then
    match awaited true f.hdr s with
    | some (c, x, r) => xferFail c 0x07 x (reqDone c x.id r.seq s)
    | none => s
  else s

def execFrameRx (p : PortId) (f : RxFrame) (s : State) : Res :=
  let taken := portState s p == 5 && f.abt && f.fecUnc == 0 && f.lseq.toNat == (s.link p).rxExp
  let s := frameRx p f s
  ok (if taken then abortedResponse f s else s)

end Sys2Proof.Machine
end

