-- ==== Sys2Proof/Machine/DevAccess.lean ====
section
/-! DEFINITION. Accesses that reach the device from outside its clusters: through BAR0 and BAR2 (R464 to R467), as RMF
packets (R102, R105), and the writes and reads that the flag page, scratch and stacks give a meaning of their own (R418 to
R437, R446). -/

namespace Sys2Proof.Machine

/-- A read of `len` bytes, or a write of bytes, as a waiting access would hold it. -/
def accessOf (mid addr len : Nat) (write : Option (List Byte)) : HeldAccess :=
  match write with
  | some bs => ⟨mid, addr, bs, bs.length, true, 0, none, 0⟩
  | none => ⟨mid, addr, [], len, false, 0, none, 0⟩

/-- Carries out an access of a master to any device address. -/
def access (x : HeldAccess) (s : State) : State := settleAccess regBytes regPut x s

/-! The host's windows. -/

/-- A read that the device answers with Completer Abort, or a write that it drops, before it is ready (R467). -/
def hostRefused (write : Option (List Byte)) (s : State) : State :=
  if write.isSome then s else s.emit (.refusal 0 0 false)

/-- Registers that the host may access before READY (R467, R513). -/
def earlyRegister (s : State) (write : Bool) (o : Nat) : Bool :=
  (!write && [R.HIF_STATUS.addr 0 0, R.DEV_IDENT.addr 0 0, R.DEV_REVISION.addr 0 0].contains o) ||
    (bootStage s == 7 &&
      [R.SEC_STATUS.addr 0 0, R.SEC_PUSH_CTL.addr 0 0, R.SEC_PUSH_STATUS.addr 0 0, R.SEC_SVN.addr 0 0].contains o)

/-- An access through BAR0 (R464, R465, R467). -/
def bar0Access (off len : Nat) (write : Option (List Byte)) (s : State) : State :=
  let x := accessOf 0 (0x7F0000000000 + off) len write
  if s.hif.linkUp = false ∨ x.len = 0 then s
  else if s.flag F.HIF_STATUS_READY then access x s
  else if (x.len == 4 || x.len == 8) && off % x.len == 0 &&
      ((List.range (x.len / 4)).all fun i => earlyRegister s x.write (off + 4 * i)) then
    if x.write then regPut 0 off x.data s
    else let (bs, s) := regBytes 0 off x.len s; s.emit (.readData 0 bs)
  else hostRefused write s

def execBar0Access (off : BitVec 26) (len : BitVec 13) (write : Option (List Byte)) (s : State) : Res :=
  ok (bar0Access off.toNat len.toNat write s)

/-- WINBASE (R466). -/
def winBase (s : State) : Nat := s.get F.HIF_WIN_LO_BASE <<< 12 + s.get F.HIF_WIN_HI_BASE <<< 32

/-- An access through BAR2 (R464 to R467); in recovery its first 4 MiB are the push buffer (R513). -/
def bar2Access (off len : Nat) (write : Option (List Byte)) (s : State) : State :=
  let x := accessOf 0 (winBase s + off) len write
  if s.hif.linkUp = false ∨ x.len = 0 ∨ 2 ^ 33 < off + x.len then s
  else if s.flag F.HIF_STATUS_READY then access x s
  else if bootStage s = 7 ∧ x.write ∧ off + x.len ≤ 0x400000 then
    { s with sec.push := putBytes (cutBytes s.sec.push off x.len) off x.data }
  else hostRefused write s

def execBar2Access (off : BitVec 33) (len : BitVec 13) (write : Option (List Byte)) (s : State) : Res :=
  ok (bar2Access off.toNat len.toNat write s)

/-! Packets. -/

/-- A PUT or PUT_ACK (R102, R105): its data is written as the source's master; its cells are released. -/
def putRx (id : Nat) (k : Pkt) (s : State) : State :=
  let h := k.hdr
  access ⟨fabricMaster s h.src.toNat, h.addr.toNat, k.payload, k.payload.length, true, 0, some h, k.job⟩ (devRxDone id s)

def execPut (i : BitVec 12) (s : State) : Res := ok (collPacket .put putRx i.toNat s)

def execPutAck (i : BitVec 12) (s : State) : Res := ok (collPacket .putAck putRx i.toNat s)

/-- A GET (R102, R105): a malformed one is answered before any check. -/
def getRx (id : Nat) (k : Pkt) (s : State) : State :=
  let h := k.hdr
  let s := devRxDone id s
  let w := ofBytes k.payload
  let rlen := fieldOf w 48 13
  if k.payload.length ≠ 8 ∨ rlen = 0 ∨ 4096 < rlen then ackWith statusMalformed h k.job s
  else access ⟨fabricMaster s h.src.toNat, h.addr.toNat, [], rlen, false, w % 2 ^ 48, some h, k.job⟩ s

def execGet (i : BitVec 12) (s : State) : Res := ok (collPacket .get getRx i.toNat s)

/-! The flag page (R416). -/

/-- Device address of offset `off` of cluster `c`'s flag page (R39, R416). -/
def pageAddr (c off : Nat) : Nat := 0x050000000000 + c * 0x100000 + 0xC0000 + off

/-- An access of master `m` to the flag page of cluster `c`. -/
def pageAccess (m : MasterId) (c : ClusterId) (off len : Nat) (write : Option (List Byte)) (s : State) : State :=
  if issued m then access (accessOf m.toNat (pageAddr c off) len write) s else s

def execFlagWrite (m : MasterId) (c : ClusterId) (f : Byte) (v : Word) (s : State) : Res :=
  ok (pageAccess m c (4 * f.toNat) 4 (some (toBytes 4 v.toNat)) s)

/-- A write to scratch (R420); an empty one is none. -/
def execScratchWriteCounted (m : MasterId) (c : ClusterId) (off : BitVec 23) (data : List Byte) (s : State) : Res :=
  if issued m ∧ data ≠ [] then ok (access (accessOf m.toNat (scratchBase c + off.toNat) 0 (some data)) s) else ok s

/-- A write of CNT_ANNOUNCE of a counter slot (R421). -/
def execCntAnnounce (m : MasterId) (c : ClusterId) (slot : Fin 16) (v : Word) (s : State) : Res :=
  ok (pageAccess m c (0x414 + 32 * slot.val) 4 (some (toBytes 4 v.toNat)) s)

/-- A write at MB_PUSH_LO (R430): 8 bytes, or its low 4. -/
def execMbPushLo (m : MasterId) (c : ClusterId) (box : Fin 8) (wide : Bool) (v : BitVec 64) (s : State) : Res :=
  ok (pageAccess m c (0x800 + 32 * box.val) 0 (some (toBytes (if wide then 8 else 4) v.toNat)) s)

def execMbPushHi (m : MasterId) (c : ClusterId) (box : Fin 8) (v : Word) (s : State) : Res :=
  ok (pageAccess m c (0x804 + 32 * box.val) 0 (some (toBytes 4 v.toNat)) s)

/-- A read at MB_POP_LO (R431): 8 bytes, or 4. -/
def execMbPopLo (m : MasterId) (c : ClusterId) (box : Fin 8) (wide : Bool) (s : State) : Res :=
  ok (pageAccess m c (0x808 + 32 * box.val) (if wide then 8 else 4) none s)

def execMbPopHi (m : MasterId) (c : ClusterId) (box : Fin 8) (s : State) : Res :=
  ok (pageAccess m c (0x80C + 32 * box.val) 4 none s)

/-- A write of 1 to MB_STATUS.CLR (R437). -/
def execMbStatusClr (m : MasterId) (c : ClusterId) (box : Fin 8) (s : State) : Res :=
  ok (pageAccess m c (0x810 + 32 * box.val) 0 (some (toBytes 4 0x20000)) s)

/-! Stacks. -/

/-- An access to a stack with a cache hint (R446). -/
def execStackAccess (m : MasterId) (n : StackId) (off : BitVec 36) (len : BitVec 13) (hint : BitVec 2)
    (write : Option (List Byte)) (s : State) : Res :=
  let x := accessOf m.toNat (n.val * 2 ^ 36 + off.toNat) len.toNat write
  if issued m = false ∨ x.len = 0 then ok s
  else
    let parts := accParts s x.addr x.len false
    let (r, s) := if x.write then writeParts regPut x.mid hint.toNat parts x.data s
      else readParts regBytes x.mid hint.toNat parts s
    ok (masterOutcome x r s)

/-- The pseudo-channel in training is done with (R457, R459): accesses that waited for it are tried again. -/
def execPchRetrainDone (n : StackId) (good : Bool) (s : State) : Res := ok (claimAll (retryHeld (pchTrained n good s)))

/-! Sleep (R278). -/

/-- Stage cycles that a cluster has been idle: since its last wait began, its last macro-op completed or it last entered RUNNING. -/
def idleCycles (s : State) (c : Nat) : Nat :=
  s.elapsed (max (s.clu c).since (s.clu c).busyAt) * curMhz s (dieOf c) / 100

/-- An idle cluster dozes after DOZEDLY stage cycles; 0 acts as 1. -/
def execDozeEntry (c : ClusterId) (s : State) : Res :=
  if cluState s c = stRunning ∧ (s.clu c).idle ∧ max 1 (s.get F.CLU_SLEEP_DOZEDLY c) ≤ idleCycles s c then
    ok (enterCluster stDoze c s)
  else ok s

end Sys2Proof.Machine
end

