-- ==== Sys2Proof/Machine/Nanor.lean ====
section
/-! DEFINITION. Nanor-32 instruction words (R293, R295): one encoder per format, the fields of a word, and which words are
legal. -/

namespace Sys2Proof.Machine

/-- Formats I, S and B: two registers and 16 bits. -/
def encI (op : BitVec 6) (a b : GReg) (imm : BitVec 16) : Word := imm ++ b ++ a ++ op

/-- Formats R and Q: three registers and 11 bits. -/
def encR (op : BitVec 6) (a b c : GReg) (fn : BitVec 11) : Word := fn ++ c ++ b ++ a ++ op

/-- Format L: the counter, 9 bits [15:7], and END16. -/
def encL (op : BitVec 6) (n : Bool) (mid : BitVec 9) (last : BitVec 16) : Word := last ++ mid ++ BitVec.ofBool n ++ op

/-- Format F; bit 23 is zero. -/
def encF (op : BitVec 6) (x : FlagForm) : Word :=
  x.f8 ++ (0#1) ++ BitVec.ofBool x.c ++ BitVec.ofBool x.r ++ x.rt ++ x.ra ++ x.rd ++ op

/-! Fields of a word. -/

def wOp (w : Word) : BitVec 6 := w.extractLsb' 0 6
def wA (w : Word) : GReg := w.extractLsb' 6 5
def wB (w : Word) : GReg := w.extractLsb' 11 5
def wC (w : Word) : GReg := w.extractLsb' 16 5
def wImm (w : Word) : BitVec 16 := w.extractLsb' 16 16
def wFn (w : Word) : BitVec 11 := w.extractLsb' 21 11
def wMid (w : Word) : BitVec 9 := w.extractLsb' 7 9
def wLoop (w : Word) : Bool := w.getLsbD 6
def wForm (w : Word) : FlagForm where
  rd := wA w
  ra := wB w
  rt := wC w
  r := w.getLsbD 21
  c := w.getLsbD 22
  f8 := w.extractLsb' 24 8

/-- An even register, which names a pair (R294). -/
def evenReg (r : GReg) : Bool := r.toNat % 2 == 0

/-- A parameter base (R308): g0, or a multiple of 4 from g4 to g28. -/
def paramBase (r : GReg) : Bool := r.toNat % 4 == 0

/-- CSR numbers that can be read, and written (R313). -/
def csrRead (n : Nat) : Bool := [0x000, 0x001, 0x002, 0x010, 0x011, 0x020, 0x030, 0x031].contains n
def csrWrite (n : Nat) : Bool := [0x002, 0x010, 0x011].contains n

/-- Whether a word is legal (R293 to R295, R304, R308, R311, R313). -/
def legalWord (w : Word) : Bool :=
  let op := (wOp w).toNat
  let imm := (wImm w).toNat
  let fn := (wFn w).toNat
  if op = 0x01 then fn < 20 && (fn < 18 || wC w == 0)
  else if 0x02 ≤ op ∧ op ≤ 0x07 then true
  else if op = 0x08 then imm < 128
  else if op = 0x09 then wB w == 0
  else if 0x10 ≤ op ∧ op ≤ 0x17 then true
  else if 0x18 ≤ op ∧ op ≤ 0x1F then evenReg (wB w)
  else if 0x20 ≤ op ∧ op ≤ 0x25 then true
  else if op = 0x26 then wB w == 0
  else if op = 0x27 then true
  else if op = 0x28 then (wMid w).toNat % 16 == 0 && imm != 0
  else if op = 0x29 then imm != 0
  else if op = 0x2A then wB w == 0 && csrRead imm
  else if op = 0x2B then wB w == 0 && csrWrite imm
  else if 0x30 ≤ op ∧ op ≤ 0x33 then !w.getLsbD 23
  else if op = 0x34 then !w.getLsbD 23 && (wForm w).f8.toNat < 32
  else if op = 0x35 then evenReg (wA w) && wA w != 0 && wB w == 0 && imm == 0
  else if op = 0x36 then evenReg (wA w) && wB w == 0 && imm == 0
  else if op = 0x38 then paramBase (wB w) && wC w == 0
  else if op = 0x39 then imm < 6
  else if op = 0x3A then !w.getLsbD 23
  else if op = 0x3B then paramBase (wB w) && fn == 0
  else if op = 0x3F then w == 0x3F
  else false

/-- Whether a word is a branch, jump, loop or END, which may not end a loop body (R305). -/
def endsBody (w : Word) : Bool :=
  let op := (wOp w).toNat
  (0x20 ≤ op && op ≤ 0x29) || op == 0x3F

end Sys2Proof.Machine
end

