-- ==== Sys2Proof/Machine/Prompter.lean ====
section
/-! DEFINITION. The prompter (R292 to R318): fetch, traps, stalls, every Nanor-32 instruction, far accesses and the wait
watchdog (R427, R428). -/

namespace Sys2Proof.Machine

/-! Registers. -/

/-- A register's value; g0 reads as zero (R292). -/
def Clu.reg (k : Clu) (r : GReg) : Word := if r = 0 then 0 else k.regs.getD r.toNat 0

/-- Writes a register; g0 discards (R292). -/
def Clu.setReg (k : Clu) (r : GReg) (v : Word) : Clu := if r = 0 then k else { k with regs := k.regs.set r.toNat v }

/-- The odd register of a pair (R294). -/
def pairHigh (r : GReg) : GReg := r + 1

/-- A register pair as a number. -/
def Clu.regPair (k : Clu) (r : GReg) : Nat := (k.reg r).toNat + (k.reg (pairHigh r)).toNat * 2 ^ 32

/-! Fetch and traps. -/

/-- The word at an address of a cluster's instruction memory (R293). -/
def imemWord (s : State) (c pc : Nat) : Word := BitVec.ofNat 32 (ofBytes (privRead s c (imemOff + pc) 4))

/-- Whether the instruction at PC is an uncorrectable word, and whether the macro-op word of a slot holds one (R489, class 2). The cluster
fails at the next AON tick (`fetchTouch`); until then neither is used. -/
def fetchBad (s : State) (c : Nat) : Bool :=
  s.upsets.any fun u => u.bad && wordIn (privateKey (slotOf s c) + imemOff + (s.clu c).pc) 4 u.spot
def mopBad (s : State) (c slot : Nat) : Bool :=
  s.upsets.any fun u => u.bad && wordIn (privateKey (slotOf s c) + mopOff + 64 * slot) 64 u.spot

/-- Whether the prompter may execute its next instruction: the cluster is RUNNING with its clock locked, and no wait and no END is in
force (R277, R300, R312, R538). -/
def canRun (s : State) (c : Nat) : Bool :=
  cluState s c == stRunning && (s.clu c).wait.isNone && !(s.clu c).ended && locked s (dieOf c) && !failing s c && !fetchBad s c

/-- What a RUNNING cluster reads without a command (R489, class 2): its next instruction, the macro-op word at the head of each queue, and
its queues and registers. -/
def fetchTouch (c : Nat) (s : State) : State :=
  if cluState s c ≠ stRunning ∨ s.upsets.isEmpty then s
  else
    let k := s.clu c
    let (_, s) := if k.wait.isNone ∧ k.ended = false then privTouch c (imemOff + k.pc) 4 s else (false, s)
    let (_, s) := privMeet c (0x050000000000 + c * 0x100000) (· == .queues (slotOf s c)) s
    k.queues.foldl (fun s q =>
      match q.mops.find? fun m => !m.left with
      | some m => if m.phase = .queued then (privTouch c (mopOff + 64 * m.slot) 64 s).2 else s
      | none => s) s

/-- Trap causes (R315). -/
def trapIllegal : Nat := 1
def trapMisalign : Nat := 2
def trapAccess : Nat := 3
def trapBadSlot : Nat := 4
def trapLoopNest : Nat := 5
def trapLoopEnd : Nat := 6

/-- A trap of the instruction `word` at `pc` (R315): the record is written and the cluster halts with TRAP. `addr` is the
faulting address, 0 where the cause has none. PC stays at the trapping instruction, that of a far load included; the far loads `loads`
that came before it complete. -/
def trapAt (cause addr pc : Nat) (word : Word) (loads : List FarLoad) (c : Nat) (s : State) : State :=
  if cluState s c ≠ stRunning then s
  else
    let k := s.clu c
    let rec_ := [cause, pc, addr % 2 ^ 32, addr / 2 ^ 32 % 65536, word.toNat, k.mopcnt % 2 ^ 32, 0, 0]
    let s := privWrite c (dmemOff + 0x3FFC0) (wordBytes rec_) s
    haltCluster 2 c (s.setClu c { k with loads := loads, pc := pc })

/-- A trap of the instruction at PC. -/
def trap (cause addr c : Nat) (s : State) : State :=
  let pc := (s.clu c).pc
  trapAt cause addr pc (imemWord s c pc) (s.clu c).loads c s

/-- Whether PC is the last instruction of an active loop body (R305). -/
def Clu.atBodyEnd (k : Clu) : Bool := (k.loop0.active && k.loop0.last == k.pc) || (k.loop1.active && k.loop1.last == k.pc)

/-- A register waits for the data of a far load (R314). -/
def Clu.pendingReg (k : Clu) (r : GReg) : Bool := r != 0 && k.loads.any fun l => l.rd == r.toNat

/-- One instruction: the word at PC must be `w`. An illegal word traps; an instruction that names a register whose far load is
under way stalls (R314); an ending of a loop body that R305 forbids traps; otherwise `run` is its effect. -/
def instr (c : Nat) (w : Word) (used : List GReg) (run : State → State) (s : State) : State :=
  if canRun s c = false ∨ imemWord s c (s.clu c).pc ≠ w then s
  else if legalWord w = false then trap trapIllegal 0 c s
  else if used.any (s.clu c).pendingReg then s
  else if endsBody w ∧ (s.clu c).atBodyEnd then trap trapLoopEnd 0 c s
  else run s

/-- Retires the instruction at PC (R293, R304). -/
def retire (c : Nat) (s : State) : State := s.setClu c (s.clu c).advance

/-- Writes the result and retires. -/
def retireWith (c : Nat) (rd : GReg) (v : Word) (s : State) : State := s.setClu c ((s.clu c).setReg rd v).advance

/-! ALU. -/

/-- An ALU instruction (R295): FN, and the result of ra and rb. -/
def alu (fn : BitVec 11) (f : Word → Word → Word) (c : Nat) (rd ra rb : GReg) (s : State) : State :=
  instr c (encR 0x01 rd ra rb fn) [rd, ra, rb] (fun s =>
    retireWith c rd (f ((s.clu c).reg ra) ((s.clu c).reg rb)) s) s

/-- Shift amounts are bits [4:0] (R295). -/
def amount (v : Word) : Nat := v.toNat % 32

/-- Rotation to the left. -/
def rotl (v : Word) (n : Nat) : Word := v.rotateLeft n

/-- Leading zeros, 0 to 32. -/
def clz (v : Word) : Nat := ((List.range 32).find? fun i => v.getLsbD (31 - i)).getD 32

def bit (b : Bool) : Word := if b then 1 else 0

def execAluAdd (c : ClusterId) (rd ra rb : GReg) (s : State) : Res := ok (alu 0 (fun a b => a + b) c rd ra rb s)
def execAluSub (c : ClusterId) (rd ra rb : GReg) (s : State) : Res := ok (alu 1 (fun a b => a - b) c rd ra rb s)
def execAluAnd (c : ClusterId) (rd ra rb : GReg) (s : State) : Res := ok (alu 2 (fun a b => a &&& b) c rd ra rb s)
def execAluOr (c : ClusterId) (rd ra rb : GReg) (s : State) : Res := ok (alu 3 (fun a b => a ||| b) c rd ra rb s)
def execAluXor (c : ClusterId) (rd ra rb : GReg) (s : State) : Res := ok (alu 4 (fun a b => a ^^^ b) c rd ra rb s)
def execAluSll (c : ClusterId) (rd ra rb : GReg) (s : State) : Res := ok (alu 5 (fun a b => a <<< amount b) c rd ra rb s)
def execAluSrl (c : ClusterId) (rd ra rb : GReg) (s : State) : Res := ok (alu 6 (fun a b => a >>> amount b) c rd ra rb s)
def execAluSra (c : ClusterId) (rd ra rb : GReg) (s : State) : Res := ok (alu 7 (fun a b => a.sshiftRight (amount b)) c rd ra rb s)
def execAluSlt (c : ClusterId) (rd ra rb : GReg) (s : State) : Res := ok (alu 8 (fun a b => bit (a.slt b)) c rd ra rb s)
def execAluSltu (c : ClusterId) (rd ra rb : GReg) (s : State) : Res := ok (alu 9 (fun a b => bit (a.ult b)) c rd ra rb s)
def execAluMul (c : ClusterId) (rd ra rb : GReg) (s : State) : Res := ok (alu 10 (fun a b => a * b) c rd ra rb s)
def execAluMulh (c : ClusterId) (rd ra rb : GReg) (s : State) : Res :=
  ok (alu 11 (fun a b => BitVec.ofInt 32 (a.toInt * b.toInt / 2 ^ 32)) c rd ra rb s)
def execAluMulhu (c : ClusterId) (rd ra rb : GReg) (s : State) : Res :=
  ok (alu 12 (fun a b => BitVec.ofNat 32 (a.toNat * b.toNat / 2 ^ 32)) c rd ra rb s)
def execAluMin (c : ClusterId) (rd ra rb : GReg) (s : State) : Res := ok (alu 13 (fun a b => if a.slt b then a else b) c rd ra rb s)
def execAluMax (c : ClusterId) (rd ra rb : GReg) (s : State) : Res := ok (alu 14 (fun a b => if a.slt b then b else a) c rd ra rb s)
def execAluMinu (c : ClusterId) (rd ra rb : GReg) (s : State) : Res := ok (alu 15 (fun a b => if a.ult b then a else b) c rd ra rb s)
def execAluMaxu (c : ClusterId) (rd ra rb : GReg) (s : State) : Res := ok (alu 16 (fun a b => if a.ult b then b else a) c rd ra rb s)
def execAluRotl (c : ClusterId) (rd ra rb : GReg) (s : State) : Res := ok (alu 17 (fun a b => rotl a (amount b)) c rd ra rb s)
def execAluClz (c : ClusterId) (rd ra : GReg) (s : State) : Res := ok (alu 18 (fun a _ => BitVec.ofNat 32 (clz a)) c rd ra 0 s)
def execAluPopc (c : ClusterId) (rd ra : GReg) (s : State) : Res :=
  ok (alu 19 (fun a _ => BitVec.ofNat 32 (popcount 32 a.toNat)) c rd ra 0 s)

/-! Immediates. -/

def sext (imm : BitVec 16) : Word := imm.signExtend 32
def zext (imm : BitVec 16) : Word := imm.zeroExtend 32

/-- An immediate instruction (R295). -/
def immOp (op : BitVec 6) (f : Word → Word) (c : Nat) (rd ra : GReg) (imm : BitVec 16) (s : State) : State :=
  instr c (encI op rd ra imm) [rd, ra] (fun s => retireWith c rd (f ((s.clu c).reg ra)) s) s

def execAddi (c : ClusterId) (rd ra : GReg) (imm : BitVec 16) (s : State) : Res := ok (immOp 0x02 (· + sext imm) c rd ra imm s)
def execAndi (c : ClusterId) (rd ra : GReg) (imm : BitVec 16) (s : State) : Res := ok (immOp 0x03 (· &&& zext imm) c rd ra imm s)
def execOri (c : ClusterId) (rd ra : GReg) (imm : BitVec 16) (s : State) : Res := ok (immOp 0x04 (· ||| zext imm) c rd ra imm s)
def execXori (c : ClusterId) (rd ra : GReg) (imm : BitVec 16) (s : State) : Res := ok (immOp 0x05 (· ^^^ zext imm) c rd ra imm s)
def execSlti (c : ClusterId) (rd ra : GReg) (imm : BitVec 16) (s : State) : Res :=
  ok (immOp 0x06 (fun a => bit (a.slt (sext imm))) c rd ra imm s)
def execSltiu (c : ClusterId) (rd ra : GReg) (imm : BitVec 16) (s : State) : Res :=
  ok (immOp 0x07 (fun a => bit (a.ult (sext imm))) c rd ra imm s)

/-- A shift of an immediate kind and amount (R295). -/
def shift (kind : BitVec 2) (amt : BitVec 5) (v : Word) : Word :=
  match kind.toNat with
  | 0 => v <<< amt.toNat
  | 1 => v >>> amt.toNat
  | 2 => v.sshiftRight amt.toNat
  | _ => rotl v amt.toNat

def execShi (c : ClusterId) (rd ra : GReg) (kind : BitVec 2) (amt : BitVec 5) (s : State) : Res :=
  ok (immOp 0x08 (shift kind amt) c rd ra ((0#9) ++ kind ++ amt) s)

def execLui (c : ClusterId) (rd : GReg) (imm : BitVec 16) (s : State) : Res :=
  ok (immOp 0x09 (fun _ => imm ++ (0#16)) c rd 0 imm s)

/-! Loads and stores (R296 to R299). -/

/-- A loaded value, extended to a register (R295). -/
def extend (size : Nat) (signExt : Bool) (bs : List Byte) : Word :=
  let v := ofBytes bs
  if signExt then BitVec.ofInt 32 (signed (8 * size) v) else BitVec.ofNat 32 v

/-- Address of a local access (R296): the self alias. -/
def localAddr (k : Clu) (ra : GReg) (imm : BitVec 16) : Nat :=
  0x050010000000 + ((k.reg ra) + sext imm).toNat % 2 ^ 20

/-- Address of a far access (R296). -/
def farAddr (k : Clu) (ra : GReg) (imm : BitVec 16) : Nat :=
  unsigned 48 (((k.reg ra).toNat + (k.reg (pairHigh ra)).toNat % 65536 * 2 ^ 32 : Nat) + imm.toInt)

/-- One place, whatever view an address names it by: the self alias and the striped view are undone (R37, R39). -/
def onePlace (s : State) (c a : Nat) : Nat :=
  if 0x050010000000 ≤ a ∧ a < 0x050010100000 then 0x050000000000 + c * 0x100000 + (a - 0x050010000000)
  else if striped s a then stripedToPrivate a
  else a

/-- A load at `a` overlaps an outstanding far store (R299). -/
def storeOverlaps (s : State) (c a n : Nat) : Bool :=
  let p := onePlace s c a
  (s.clu c).stores.any fun st => let q := onePlace s c st.1; decide (p < q + st.2 ∧ q < p + n)

/-- A far load whose access has not been made yet is to the same 4 KiB as an access at `a`, which waits for it (R299). -/
def loadPending (s : State) (c a : Nat) (loads : List FarLoad) : Bool :=
  loads.any fun l => onePlace s c l.addr / 4096 == onePlace s c a / 4096

/-- A local load. -/
def loadLocal (op : BitVec 6) (size : Nat) (signExt : Bool) (c : Nat) (rd ra : GReg) (imm : BitVec 16) (s : State) : State :=
  instr c (encI op rd ra imm) [rd, ra] (fun s =>
    let a := localAddr (s.clu c) ra imm
    if a % size ≠ 0 then trap trapMisalign a c s
    else if storeOverlaps s c a size ∨ loadPending s c a (s.clu c).loads then s
    else match readParts regBytes (prompterId c) 0 [(a, size)] s with
      | (.data bs, s) => retireWith c rd (extend size signExt bs) s
      | (.wait, _) => s
      | (_, s) => trap trapAccess a c s) s

/-- A local store. -/
def storeLocal (op : BitVec 6) (size c : Nat) (rs ra : GReg) (imm : BitVec 16) (s : State) : State :=
  instr c (encI op rs ra imm) [rs, ra] (fun s =>
    let a := localAddr (s.clu c) ra imm
    if a % size ≠ 0 then trap trapMisalign a c s
    else if loadPending s c a (s.clu c).loads then s
    else match writeParts regPut (prompterId c) 0 [(a, size)] (toBytes size ((s.clu c).reg rs).toNat) s with
      | (.data _, s) => retire c s
      | (.wait, _) => s
      | (_, s) => trap trapAccess a c s) s

def execLb (c : ClusterId) (rd ra : GReg) (imm : BitVec 16) (s : State) : Res := ok (loadLocal 0x10 1 true c rd ra imm s)
def execLbu (c : ClusterId) (rd ra : GReg) (imm : BitVec 16) (s : State) : Res := ok (loadLocal 0x11 1 false c rd ra imm s)
def execLh (c : ClusterId) (rd ra : GReg) (imm : BitVec 16) (s : State) : Res := ok (loadLocal 0x12 2 true c rd ra imm s)
def execLhu (c : ClusterId) (rd ra : GReg) (imm : BitVec 16) (s : State) : Res := ok (loadLocal 0x13 2 false c rd ra imm s)
def execLw (c : ClusterId) (rd ra : GReg) (imm : BitVec 16) (s : State) : Res := ok (loadLocal 0x14 4 false c rd ra imm s)
def execSb (c : ClusterId) (rs ra : GReg) (imm : BitVec 16) (s : State) : Res := ok (storeLocal 0x15 1 c rs ra imm s)
def execSh (c : ClusterId) (rs ra : GReg) (imm : BitVec 16) (s : State) : Res := ok (storeLocal 0x16 2 c rs ra imm s)
def execSw (c : ClusterId) (rs ra : GReg) (imm : BitVec 16) (s : State) : Res := ok (storeLocal 0x17 4 c rs ra imm s)

/-- A far load is issued (R296, R314): its data returns later. -/
def loadFar (op : BitVec 6) (size : Nat) (signExt : Bool) (c : Nat) (rd ra : GReg) (imm : BitVec 16) (s : State) : State :=
  let w := encI op rd ra imm
  instr c w [rd, ra, pairHigh ra] (fun s =>
    let k := s.clu c
    let a := farAddr k ra imm
    if a % size ≠ 0 then trap trapMisalign a c s
    else if storeOverlaps s c a size then s
    else retire c (s.setClu c { k with loads := k.loads ++ [⟨rd.toNat, size, signExt, a, k.pc, w.toNat⟩] })) s

/-- The data of far load number `i` returns (R314), after those before it to the same 4 KiB (R299): it is written to its register, or its
refusal or uncorrectable word traps (R489, R298). In a cluster that a later instruction's trap has halted it only ends (R315). -/
def farReturn (c i : Nat) (s : State) : State :=
  let k := s.clu c
  let st := cluState s c
  match k.loads[i]? with
  | none => s
  | some l =>
    if st < stRunning ∨ stHalted < st ∨ loadPending s c l.addr (k.loads.take i) then s
    else
      match readParts regBytes (prompterId c) 0 [(l.addr, l.size)] s with
      | (.data bs, t) =>
        let k := t.clu c
        t.setClu c { k.setReg (BitVec.ofNat 5 l.rd) (extend l.size l.sext bs) with loads := k.loads.eraseIdx i }
      | (.wait, _) => s
      | (_, t) =>
        if st = stRunning then trapAt trapAccess l.addr l.pc (BitVec.ofNat 32 l.word) ((t.clu c).loads.take i) c t
        else if st = stHalted ∧ s.get F.CLU_STATUS_HALTCAUSE c = 2 then
          t.setClu c { t.clu c with loads := (t.clu c).loads.eraseIdx i }
        else s

def execFarLoadDataReturn (c : ClusterId) (i : BitVec 8) (s : State) : Res := ok (farReturn c i.toNat s)

/-- A far store is posted (R299); a ninth stalls. -/
def storeFar (op : BitVec 6) (size c : Nat) (rs ra : GReg) (imm : BitVec 16) (s : State) : State :=
  instr c (encI op rs ra imm) [rs, ra, pairHigh ra] (fun s =>
    let k := s.clu c
    let a := farAddr k ra imm
    if a % size ≠ 0 then trap trapMisalign a c s
    else if 8 ≤ k.stores.length ∨ loadPending s c a k.loads then s
    else match writeParts regPut (prompterId c) 0 [(a, size)] (toBytes size (k.reg rs).toNat) s with
      | (.data _, s) => let k := s.clu c; retire c (s.setClu c { k with stores := k.stores ++ [(a, size)] })
      | (.wait, _) => s
      | (_, s) => trap trapAccess a c s) s

/-- Far store number `i` is acknowledged (R299, R423). -/
def execFarStoreAck (c : ClusterId) (i : Fin 8) (s : State) : Res :=
  let k := s.clu c
  ok (s.setClu c { k with stores := k.stores.eraseIdx i })

def execLbx (c : ClusterId) (rd ra : GReg) (imm : BitVec 16) (s : State) : Res := ok (loadFar 0x18 1 true c rd ra imm s)
def execLbux (c : ClusterId) (rd ra : GReg) (imm : BitVec 16) (s : State) : Res := ok (loadFar 0x19 1 false c rd ra imm s)
def execLhx (c : ClusterId) (rd ra : GReg) (imm : BitVec 16) (s : State) : Res := ok (loadFar 0x1A 2 true c rd ra imm s)
def execLhux (c : ClusterId) (rd ra : GReg) (imm : BitVec 16) (s : State) : Res := ok (loadFar 0x1B 2 false c rd ra imm s)
def execLwx (c : ClusterId) (rd ra : GReg) (imm : BitVec 16) (s : State) : Res := ok (loadFar 0x1C 4 false c rd ra imm s)
def execSbx (c : ClusterId) (rs ra : GReg) (imm : BitVec 16) (s : State) : Res := ok (storeFar 0x1D 1 c rs ra imm s)
def execShx (c : ClusterId) (rs ra : GReg) (imm : BitVec 16) (s : State) : Res := ok (storeFar 0x1E 2 c rs ra imm s)
def execSwx (c : ClusterId) (rs ra : GReg) (imm : BitVec 16) (s : State) : Res := ok (storeFar 0x1F 4 c rs ra imm s)

/-! Branches and jumps (R295, R306). -/

/-- Whether an address lies in a loop's body. -/
def LoopSt.holds (l : LoopSt) (a : Nat) : Bool := (a + 65536 - l.first) % 65536 ≤ (l.last + 65536 - l.first) % 65536

/-- A loop that a jump to `a` leaves becomes inactive (R306). -/
def LoopSt.leave (l : LoopSt) (a : Nat) : LoopSt := if l.active && !l.holds a then { l with active := false } else l

/-- A taken branch or jump. -/
def Clu.jump (k : Clu) (a : Nat) : Clu := { k with pc := a % 65536, loop0 := k.loop0.leave (a % 65536), loop1 := k.loop1.leave (a % 65536) }

/-- PC plus 4 times a signed word offset. -/
def relTarget (pc : Nat) (off : BitVec 16) : Nat := unsigned 16 ((pc : Int) + 4 * off.toInt)

/-- A conditional branch (R295). -/
def branch (op : BitVec 6) (cond : Word → Word → Bool) (c : Nat) (ra rb : GReg) (off : BitVec 16) (s : State) : State :=
  instr c (encI op ra rb off) [ra, rb] (fun s =>
    let k := s.clu c
    if cond (k.reg ra) (k.reg rb) then s.setClu c (k.jump (relTarget k.pc off)) else retire c s) s

def execBeq (c : ClusterId) (ra rb : GReg) (off : BitVec 16) (s : State) : Res := ok (branch 0x20 (fun a b => a == b) c ra rb off s)
def execBne (c : ClusterId) (ra rb : GReg) (off : BitVec 16) (s : State) : Res := ok (branch 0x21 (fun a b => a != b) c ra rb off s)
def execBlt (c : ClusterId) (ra rb : GReg) (off : BitVec 16) (s : State) : Res := ok (branch 0x22 (fun a b => a.slt b) c ra rb off s)
def execBge (c : ClusterId) (ra rb : GReg) (off : BitVec 16) (s : State) : Res := ok (branch 0x23 (fun a b => !a.slt b) c ra rb off s)
def execBltu (c : ClusterId) (ra rb : GReg) (off : BitVec 16) (s : State) : Res := ok (branch 0x24 (fun a b => a.ult b) c ra rb off s)
def execBgeu (c : ClusterId) (ra rb : GReg) (off : BitVec 16) (s : State) : Res := ok (branch 0x25 (fun a b => !a.ult b) c ra rb off s)

/-- Jump relative and link (R295). -/
def execJal (c : ClusterId) (rd : GReg) (off : BitVec 16) (s : State) : Res :=
  ok (instr c (encI 0x26 rd 0 off) [rd] (fun s =>
    let k := s.clu c
    s.setClu c ((k.setReg rd (BitVec.ofNat 32 (k.pc + 4))).jump (relTarget k.pc off))) s)

/-- Jump to a register plus offset and link (R295); a target off a word boundary traps (R315). -/
def execJalr (c : ClusterId) (rd ra : GReg) (imm : BitVec 16) (s : State) : Res :=
  ok (instr c (encI 0x27 rd ra imm) [rd, ra] (fun s =>
    let k := s.clu c
    let a := ((k.reg ra) + sext imm).toNat % 65536
    if a % 4 ≠ 0 then trap trapMisalign a c s
    else s.setClu c ((k.setReg rd (BitVec.ofNat 32 (k.pc + 4))).jump a)) s)

/-! Hardware loops (R304, R305). -/

/-- Loop counter `n`, and its replacement. -/
def Clu.loop (k : Clu) (n : Bool) : LoopSt := if n then k.loop1 else k.loop0
def Clu.setLoop (k : Clu) (n : Bool) (l : LoopSt) : Clu := if n then { k with loop1 := l } else { k with loop0 := l }

/-- Starts a loop of `count` passes over the `len` instructions that follow (R304, R305). -/
def loopStart (n : Bool) (count len c : Nat) (s : State) : State :=
  let k := s.clu c
  let other := k.loop (!n)
  if (k.loop n).active || (other.active && (other.last + 65536 - k.pc) % 65536 ≤ 4 * len) then trap trapLoopNest 0 c s
  else if count = 0 then s.setClu c { k with pc := (k.pc + 4 * (len + 1)) % 65536 }
  else
    let l : LoopSt := ⟨count, true, (k.pc + 4) % 65536, (k.pc + 4 * len) % 65536⟩
    s.setClu c { k.setLoop n l with pc := (k.pc + 4) % 65536 }

def execLoop (c : ClusterId) (n : Bool) (ra : GReg) (last : BitVec 16) (s : State) : Res :=
  ok (instr c (encL 0x28 n (ra ++ (0#4)) last) [ra] (fun s => loopStart n ((s.clu c).reg ra).toNat last.toNat c s) s)

def execLoopi (c : ClusterId) (n : Bool) (count : BitVec 9) (last : BitVec 16) (s : State) : Res :=
  ok (instr c (encL 0x29 n count last) [] (fun s => loopStart n count.toNat last.toNat c s) s)

/-! CSRs (R313). -/

/-- `ps`. -/
def Clu.psWord (k : Clu) : Nat := b2n k.lcwarn + 2 * b2n k.loop0.active + 4 * b2n k.loop1.active + 8 * b2n (!k.dbg.isEmpty)

/-- A CSR's value, and what reading it does; the cycles since the last reading of the cycle counter are a free value. -/
def readCsr (n c : Nat) (s : State) : Nat × State :=
  let k := s.clu c
  match n with
  | 0x000 => (c, s)
  | 0x001 => (cluJob s c, s)
  | 0x002 => (k.psWord, s)
  | 0x010 => (k.loop0.count, s)
  | 0x011 => (k.loop1.count, s)
  | 0x020 => (k.mopcnt, s)
  | 0x030 =>
    let (i, s) := s.fresh
    let v := (k.cycles + (Config.prompterCycles i).toNat) % 2 ^ 64
    (v % 2 ^ 32, s.setClu c { s.clu c with cycles := v, cycHi := v / 2 ^ 32 })
  | _ => (k.cycHi, s)

def execCsrr (c : ClusterId) (rd : GReg) (csr : BitVec 12) (s : State) : Res :=
  ok (instr c (encI 0x2A rd 0 (csr.zeroExtend 16)) [rd] (fun s =>
    let (v, s) := readCsr csr.toNat c s
    retireWith c rd (BitVec.ofNat 32 v) s) s)

/-- A write to a loop counter (R307). -/
def Clu.writeLoop (k : Clu) (n : Bool) (v : Nat) : Clu :=
  if (k.loop n).active then { k with lcwarn := true } else k.setLoop n { k.loop n with count := v }

/-- A write to a CSR (R307, R313). -/
def Clu.writeCsr (k : Clu) (n v : Nat) : Clu :=
  match n with
  | 0x002 => if v % 2 = 1 then { k with lcwarn := false } else k
  | 0x010 => k.writeLoop false v
  | 0x011 => k.writeLoop true v
  | _ => k

def execCsrw (c : ClusterId) (rs : GReg) (csr : BitVec 12) (s : State) : Res :=
  ok (instr c (encI 0x2B rs 0 (csr.zeroExtend 16)) [rs] (fun s =>
    let k := s.clu c
    s.setClu c (k.writeCsr csr.toNat (k.reg rs).toNat).advance) s)

/-! Flags, curtains and time (R300 to R303). -/

/-- The flag that a flag instruction names (R295). -/
def flagIndex (x : FlagForm) (k : Clu) : Nat := if x.r then (k.reg x.ra).toNat % 256 else x.f8.toNat

/-- Every earlier store has been acknowledged (R299). -/
def storesDone (c : Nat) (run : State → State) (s : State) : State := if (s.clu c).stores.isEmpty then run s else s

def execSetf (c : ClusterId) (x : FlagForm) (s : State) : Res :=
  ok (instr c (encF 0x30 x) [x.ra] (storesDone c fun s => setFlag c (flagIndex x (s.clu c)) (retire c s)) s)

def execClrf (c : ClusterId) (x : FlagForm) (s : State) : Res :=
  ok (instr c (encF 0x31 x) [x.ra] (fun s => clearFlag c (flagIndex x (s.clu c)) (retire c s)) s)

def execTstf (c : ClusterId) (x : FlagForm) (s : State) : Res :=
  ok (instr c (encF 0x32 x) [x.rd, x.ra] (fun s => retireWith c x.rd (bit ((s.clu c).flag (flagIndex x (s.clu c)))) s) s)

/-- A wait's timeout in µs (R301). -/
def waitUs (s : State) (c : Nat) (rt : GReg) : Nat :=
  max 1 (if rt = 0 then s.get F.CLU_WDOG_WAITUS c else ((s.clu c).reg rt).toNat)

/-- The prompter begins a wait, which may end at once. -/
def beginWait (c : Nat) (w : PWait) (s : State) : State := settleWaits c (s.setClu c { s.clu c with wait := some w, busyAt := s.ticks })

def execWaitf (c : ClusterId) (x : FlagForm) (s : State) : Res :=
  ok (instr c (encF 0x33 x) [x.ra, x.rt] (fun s => beginWait c (.flag (flagIndex x (s.clu c)) x.c (waitUs s c x.rt) s.fabTime) s) s)

def execCarr (c : ClusterId) (x : FlagForm) (s : State) : Res :=
  ok (instr c (encF 0x34 x) [] (storesDone c fun s => curtArrive (x.f8.toNat % 32) c (retire c s)) s)

def execTime (c : ClusterId) (rd : GReg) (s : State) : Res :=
  ok (instr c (encI 0x35 rd 0 0) [rd, pairHigh rd] (fun s =>
    let k := s.clu c
    s.setClu c ((k.setReg rd (BitVec.ofNat 32 s.nowNs)).setReg (pairHigh rd) (BitVec.ofNat 32 (s.nowNs / 2 ^ 32))).advance) s)

def execWaitt (c : ClusterId) (ra : GReg) (s : State) : Res :=
  ok (instr c (encI 0x36 ra 0 0) [ra, pairHigh ra] (fun s => beginWait c (.time ((s.clu c).regPair ra)) s) s)

/-! Macro-ops (R308 to R311). -/

/-- The macro-op word of a slot (R39, R319). -/
def mopWord (s : State) (c slot : Nat) : List Word :=
  let b := privRead s c (mopOff + 64 * slot) 64
  (List.range 16).map fun i => BitVec.ofNat 32 (ofBytes ((b.drop (4 * i)).take 4))

/-- Entries of a queue: macro-ops that have not left its head (R272, R311). -/
def IssueQ.entries (q : IssueQ) : Nat := (q.mops.filter fun m => !m.left).length

/-- Whether a push causes a debug halt (R317). -/
def debugHit (k : Clu) (w : List Word) : Bool :=
  let d := fun i => (k.dbg.getD i 0).toNat
  let t := fieldOf (d 2) 0 16
  let mask := fieldOf (d 2) 16 16
  !k.dbg.isEmpty && (((d 0).testBit 0 && k.mopcnt == d 1) || ((d 0).testBit 1 && (mopTag w ^^^ t) &&& mask == 0))

/-- Issues slot `slot` (R308, R309, R317): a full queue stalls. -/
def issue (c : Nat) (rd ra : GReg) (slot : Nat) (s : State) : State :=
  let k := s.clu c
  if ((k.prog.map Prog.mops).getD 0) ≤ slot then trap trapBadSlot 0 c s
  else
    let w := mopWord s c slot
    let q := mopQueue w
    let iq := k.queues.getD q IssueQ.empty
    if 16 ≤ iq.entries then s
    else
      let params := if ra = 0 then [0, 0, 0, 0] else (List.range 4).map fun i => k.reg (ra + BitVec.ofNat 5 i)
      let m : Mop := ⟨slot, params, iq.seq, .queued, false, [], 0, 0, 0, [], 0, false, false, none, false, 0⟩
      let iq := { iq with mops := iq.mops ++ [m], seq := iq.seq + 1 }
      let k := { k with queues := k.queues.set q iq, mopcnt := (k.mopcnt + 1) % 2 ^ 32 }
      let k := (k.setReg rd (BitVec.ofNat 32 (q + (iq.seq - 1) % 16384 * 4))).advance
      let s := s.setClu c k
      if debugHit k w then haltCluster 5 c s else s

/-- Registers that hold an ISSUE's parameters. -/
def paramRegs (ra : GReg) : List GReg := if ra = 0 then [] else (List.range 4).map fun i => ra + BitVec.ofNat 5 i

def execIssue (c : ClusterId) (rd ra : GReg) (slot : BitVec 11) (s : State) : Res :=
  ok (instr c (encR 0x38 rd ra 0 slot) (rd :: paramRegs ra) (storesDone c (issue c rd ra slot.toNat)) s)

/-- The slot is in rb; bits above [10:0] must be zero (R308). -/
def execIssuer (c : ClusterId) (rd ra rb : GReg) (s : State) : Res :=
  ok (instr c (encR 0x3B rd ra rb 0) (rd :: rb :: paramRegs ra) (storesDone c fun s =>
    let v := ((s.clu c).reg rb).toNat
    if 2048 ≤ v then trap trapBadSlot 0 c s else issue c rd ra v s) s)

/-- The error record as a word (R311). -/
def IssueQ.errWord (q : IssueQ) : Nat :=
  match q.err with
  | some (st, slot) => st % 256 + slot % 2048 * 256 + 2 ^ 31
  | none => 0

/-- The value that MQRY selects (R311). -/
def mqryValue (k : Clu) (q sel : Nat) : Nat :=
  let iq := k.queues.getD q IssueQ.empty
  match sel with
  | 0 => iq.entries
  | 1 => iq.retired % 16384
  | 2 | 3 => iq.errWord
  | 4 => k.outstanding
  | _ => k.mopcnt

def execMqry (c : ClusterId) (rd ra : GReg) (sel : BitVec 16) (s : State) : Res :=
  ok (instr c (encI 0x39 rd ra sel) [rd, ra] (fun s =>
    let k := s.clu c
    let q := (k.reg ra).toNat % 4
    let v := mqryValue k q sel.toNat
    let k := if sel = 3 then { k with queues := k.queues.set q { k.queues.getD q IssueQ.empty with err := none } } else k
    s.setClu c (k.setReg rd (BitVec.ofNat 32 v)).advance) s)

/-- Waits for the macro-op of a ticket (R301, R310). -/
def execMwait (c : ClusterId) (x : FlagForm) (s : State) : Res :=
  ok (instr c (encF 0x3A x) [x.ra, x.rt] (fun s =>
    let t := ((s.clu c).reg x.ra).toNat
    beginWait c (.ticket (t % 4) (fieldOf t 2 14) (waitUs s c x.rt) s.fabTime) s) s)

/-- The end of the program is reached (R299, R312): nothing after END is fetched. -/
def execEnd (c : ClusterId) (s : State) : Res :=
  ok (instr c (encR 0x3F 0 0 0 0) [] (storesDone c fun s =>
    let k := s.clu c
    if k.loads.isEmpty then s.setClu c { k with ended := true } else s) s)

/-- A fetched word that is no legal instruction (R293, R315). -/
def execIllegalInstruction (c : ClusterId) (s : State) : Res :=
  if canRun s c ∧ legalWord (imemWord s c (s.clu c).pc) = false then ok (trap trapIllegal 0 c s) else ok s

/-! The wait watchdog (R427, R428). -/

/-- Whether a macro-op waits for a cue (R335). -/
def Mop.waitsCue (m : Mop) : Bool :=
  match m.phase with
  | .waiting _ => mopFamily m.copy == 0x22 && mopSub m.copy == 0
  | _ => false

/-- The timeout of a waiting WAITF or CUE SUB 0, in µs (R335). -/
def mopWaitUs (s : State) (c : Nat) (m : Mop) : Nat :=
  let t := mopSpec m.copy 16 16
  max 1 (if t = 0 then s.get F.CLU_WDOG_WAITUS c else t)

/-- Whether a timeout of `us` that began at fabric time `t0` has run out (R427). -/
def State.passedFab (s : State) (t0 us : Nat) : Bool := decide (t0 + us * 65536000 ≤ s.fabTime)

/-- Waits that have expired, as SOURCE and the flag or queue shown, lowest SOURCE first. -/
def expiredWaits (s : State) (c : Nat) : List (Nat × Nat) :=
  let k := s.clu c
  let own := match k.wait with
    | some (.flag f _ us t) => if s.passedFab t us then [(0, f)] else []
    | some (.ticket q _ us t) => if s.passedFab t us then [(1, q)] else []
    | _ => []
  let qs := (List.range 4).filterMap fun q =>
    ((k.queues.getD q IssueQ.empty).mops.find? fun m =>
      match m.phase with
      | .waiting t => (m.waitsOn.isSome || m.waitsCue) && s.passedFab t (mopWaitUs s c m)
      | _ => false).map fun m => (2 + q, (m.waitsOn.map Prod.fst).getD 0)
  own ++ qs

/-- A queue's word of the watchdog record. -/
def IssueQ.watchWord (q : IssueQ) : Nat :=
  match q.mops.filter fun m => !m.left with
  | [] => 0
  | m :: _ => m.slot % 2048 + ((m.waitsOn.map Prod.fst).getD 0) * 2 ^ 11 + b2n m.waitsOn.isSome * 2 ^ 19 + b2n m.waitsCue * 2 ^ 20

/-- The watchdog record (R428). -/
def watchRecord (s : State) (c source shown : Nat) : List Nat :=
  let k := s.clu c
  let (flag, inF, inM) := match k.wait with
    | some (.flag f _ _ _) => (f, true, false)
    | some (.ticket _ _ _ _) => (0, false, true)
    | _ => (0, false, false)
  [1 + source * 2 + shown * 256, s.nowNs % 2 ^ 32, s.nowNs / 2 ^ 32 % 2 ^ 32,
    k.pc + flag * 2 ^ 16 + b2n inF * 2 ^ 24 + b2n inM * 2 ^ 25] ++
  (List.range 4).map (fun q => (k.queues.getD q IssueQ.empty).watchWord) ++
  (List.range 8).map fun i => fieldOf k.flags (32 * i) 32

/-- A wait expires (R428). -/
def waitExpired (c : Nat) (s : State) : State :=
  let st := cluState s c
  if st < stRunning ∨ stRetain < st then s
  else match expiredWaits s c with
    | [] => s
    | (source, shown) :: _ =>
      let s := wakeCluster c s
      match expiredWaits s c with
      | [] => s
      | _ =>
        let r := watchRecord s c source shown
        let s := s.setClu c { s.clu c with wdog := r.map (BitVec.ofNat 32) }
        haltCluster 3 c (s.event 0x08 2 (cluJob s c) c (r.take 8))

def execWaitTimeout (c : ClusterId) (s : State) : Res := ok (waitExpired c s)

end Sys2Proof.Machine
end

