-- ==== Sys2Proof/Machine/MopRun.lean ====
section
/-! DEFINITION. How macro-ops start and complete (R271, R272, R309, R322, R323, R336, R339 to R341, R350), and what their
families share: operand rows and the warning record (R334). -/

namespace Sys2Proof.Machine

/-! Results. -/

/-- How a piece of a macro-op's work ends: with a value; with an error status (R341); held for a spill chunk (R408); or not at
all yet, because an access must wait for a cluster (R290, R496). -/
inductive MRes (α : Type) where
  | val (a : α) (s : State)
  | err (status : Nat) (s : State)
  | hold (s : State)
  | wait

/-- One piece of work after another. -/
def MRes.andThen {α β : Type} (x : MRes α) (f : α → State → MRes β) : MRes β :=
  match x with
  | .val a s => f a s
  | .err st s => .err st s
  | .hold s => .hold s
  | .wait => .wait

/-- Work for each item, in order. -/
def MRes.each {α : Type} : List α → (α → State → MRes Unit) → State → MRes Unit
  | [], _, s => .val () s
  | x :: xs, f, s => (f x s).andThen fun _ s => MRes.each xs f s

/-- Values collected from each item, in order. -/
def MRes.collect {α β : Type} : List α → (α → State → MRes β) → State → MRes (List β)
  | [], _, s => .val [] s
  | x :: xs, f, s => (f x s).andThen fun a s => (MRes.collect xs f s).andThen fun as s => .val (a :: as) s

/-- An access as a result. -/
def MRes.ofAccess (r : AccRes) (s : State) : MRes (List Byte) :=
  match r with
  | .data bs => .val bs s
  | .wait => .wait
  | r => .err (mopAccess r) s

/-! Operands. -/

/-- Bytes at an address, read with an operand's hint. -/
def readAt (c : Nat) (o : Opd) (a n : Nat) (s : State) : MRes (List Byte) :=
  let (r, s) := moveRead c o.hint a n s
  MRes.ofAccess r s

/-- Bytes written at an address. -/
def writeAt (c : Nat) (o : Opd) (a : Nat) (bs : List Byte) (s : State) : MRes Unit :=
  let (r, s) := moveWrite c o.hint a bs s
  (MRes.ofAccess r s).andThen fun _ s => .val () s

/-- Row `r` of an operand in repetition `k`. -/
def readRow (c : Nat) (o : Opd) (k r : Nat) (s : State) : MRes (List Byte) :=
  readAt c o (o.rowAddr c k r) (rowBytes o.fmt o.cols) s

/-- A row read segment by segment until one fails: what was read, and the status of the failure, 0 for none (R56, R341). -/
def readRowUpTo (c : Nat) (o : Opd) (k r : Nat) (s : State) : MRes (List Byte × Nat) :=
  match moveReads c o.hint (accParts s (o.rowAddr c k r) (rowBytes o.fmt o.cols) true) s with
  | (_, .wait, _) => .wait
  | (bs, res, s) => .val (bs, mopAccess res) s

/-- A status ends the macro-op, 0 does not. -/
def endWith (st : Nat) (s : State) : MRes Unit := if st = 0 then .val () s else .err st s

def writeRow (c : Nat) (o : Opd) (k r : Nat) (bs : List Byte) (s : State) : MRes Unit := writeAt c o (o.rowAddr c k r) bs s

/-- All rows of an operand in repetition `k`. -/
def readRows (c : Nat) (o : Opd) (k : Nat) (s : State) : MRes (List (List Byte)) :=
  MRes.collect (List.range o.rows) (fun r s => readRow c o k r s) s

/-- One group of a bitmap row (R394): its offset and number; the element codes of the dense group, or none where the bitmap
is malformed (R396), with the offset of the next group. -/
def readGroup (c : Nat) (o : Opd) (row off g : Nat) (s : State) : MRes (Option (List Nat) × Nat) :=
  (readAt c o (row + off) 8 s).andThen fun bm s =>
    let bits := ofBytes bm
    let n := min 64 (o.cols - 64 * g)
    let set := popcount 64 bits
    let bytes := ceilDiv (set * elemBits o.fmt) 8
    let next := off + 8 + ceilDiv bytes 8 * 8
    if 2 ^ n ≤ bits ∨ o.pitch < next then .val (none, next) s
    else (if bytes = 0 then MRes.val [] s else readAt c o (row + off + 8) bytes s).andThen fun vs s =>
      let vals := rowCodes o.fmt set vs
      .val (some ((List.range n).map fun i => if bits.testBit i then vals.getD (popcount i (bits % 2 ^ i)) 0 else 0), next) s

/-- The groups of a bitmap row; a malformed one ends the macro-op with FORMAT. -/
def readGroups (c : Nat) (o : Opd) (row : Nat) : Nat → Nat → Nat → State → MRes (List Nat)
  | 0, _, _, s => .val [] s
  | n + 1, off, g, s =>
    (readGroup c o row off g s).andThen fun r s =>
      match r with
      | (none, _) => .err 0x01 s
      | (some codes, next) => (readGroups c o row n next (g + 1) s).andThen fun more s => .val (codes ++ more) s

/-- A row of an operand as dense bytes, whatever its form (R394, R396). -/
def readDense (c : Nat) (o : Opd) (k r : Nat) (s : State) : MRes (List Byte) :=
  if o.bitmap then
    (readGroups c o (o.rowAddr c k r) (ceilDiv o.cols 64) 0 0 s).andThen fun codes s => .val (codeBytes o.fmt codes) s
  else readRow c o k r s

/-- FP32 codes of a row's elements, widened exactly (R328, R381). -/
def rowFp32 (o : Opd) (bs : List Byte) : List Nat :=
  if o.fmt = fFP32 then rowCodes o.fmt o.cols bs else (rowNums o.fmt o.cols bs).map (roundNum fFP32 0 0)

/-! The warning record (R334). -/

/-- Sets a sticky bit and adds to a count, which saturates. -/
def warn (bit word n c : Nat) (s : State) : State :=
  if n = 0 then s
  else
    let off := dmemOff + 0x3FFE0
    let w0 := ofBytes (privRead s c off 4)
    let w := ofBytes (privRead s c (off + 4 * word) 4)
    privWrite c (off + 4 * word) (toBytes 4 (saturate 32 (w + n))) (privWrite c off (toBytes 4 (w0 ||| 2 ^ bit)) s)

/-- A row out of range (R324): counted, or with STRICT the end. -/
def outOfRange (c : Nat) (m : Mop) (s : State) : MRes Unit :=
  if mopStrict m.copy then .err 0x03 s else .val () (warn 0 1 1 c s)

/-- A row of +0 elements in a format (R324). -/
def zeroRow (fmt cols : Nat) : List Byte :=
  if isFloat fmt then encodeRow fmt 0 (fun _ => 0) (List.replicate cols (.fin false 0 0)) else codeBytes fmt (List.replicate cols 0)

/-! Starting. -/

/-- The head of a queue: the oldest macro-op that has not left it. -/
def IssueQ.head (q : IssueQ) : Option Mop := q.mops.find? fun m => !m.left

/-- Macro-ops of a queue that have left its head and have not completed. -/
def IssueQ.behind (q : IssueQ) : List Mop := q.mops.filter fun m => m.left

def isStream (m : Mop) : Bool := mopFamily m.copy == 0x02

/-- Whether a STREAM with this started copy takes the low-latency path (R351). -/
def takesLow (s : State) (c : Nat) (w : List Word) : Bool :=
  let k := s.clu c
  let before := ((k.queues.getD 0 IssueQ.empty).behind).filter isStream
  let panel := (k.next <|> k.active).map fun p => (opdOf p.copy 0).fmt
  let wide := fun (f : Nat) => f == 1 || f == 2
  let a := (opdOf w 0).fmt
  let p := panel.getD a
  let most := if wide a || wide p then 156 else if isF4 a && isF4 p then 89 else 104
  match fieldOf (mopFspec w) 0 2 with
  | 1 => false
  | 2 => true
  | _ => s.flag F.ARR_CFG_AUTOLL c && before.all (fun m => m.low) && (opdOf w 0).rows * mopRepeat w ≤ most

/-- Whether the unit of a macro-op is free (R272, R274, R336, R350, R351, R362). A LOADW waits until no STREAM uses the buffer it fills
(R360). -/
def unitFree (s : State) (c q : Nat) (w : List Word) : Bool :=
  let k := s.clu c
  let before := (k.queues.getD q IssueQ.empty).behind
  let fam := mopFamily w
  (q != 0 || (k.diag.isNone && k.recov.isNone)) &&
    if isFlagMop w then before.isEmpty
    else if fam = 0x01 then before.all fun m => isStream m && (m.panel.isNone || m.panel.map Panel.id == k.active.map Panel.id)
    else if fam = 0x02 then before.all isStream && (if takesLow s c w then before.isEmpty else before.all fun m => !m.low)
    else if q = 2 then k.outstanding < 64
    else before.isEmpty

/-- Bound of LOCAL extents at start: the cluster's scratch (R339). -/
def scratchBytes : Nat := 0x800000

/-- Records the outcome of a started macro-op. -/
def mopOutcome (c q seq : Nat) (before : Clu) (r : MRes Unit) (s : State) : State :=
  match r with
  | .val _ t => t.setClu c ((t.clu c).mapMop q seq fun m => { (m.count (countedSince before (t.clu c))) with blocked := false })
  | .err st t => t.setClu c ((t.clu c).mapMop q seq fun m =>
      { ((m.fail st).count (countedSince before (t.clu c))) with blocked := false })
  | .hold t => t.setClu c ((t.clu c).mapMop q seq fun m =>
      { (m.count (countedSince before (t.clu c))) with blocked := true })
  | .wait => s

/-- Runs a macro-op that has its started copy: `t` is the state with it running, `s` the state if it must wait. -/
def mopGo (c q : Nat) (m : Mop) (run : Nat → Nat → Mop → State → MRes Unit) (t s : State) : State :=
  if mopRepeat m.copy = 0 then t
  else if mopOk m.copy (((t.clu c).prog.map Prog.minwidth).getD 0) scratchBytes = false then
    t.setClu c ((t.clu c).mapMop q m.seq (Mop.fail 0x01))
  else mopOutcome c q m.seq (t.clu c) (run c q m t) s

/-- Starts the macro-op at the head of queue `q` of cluster `c`, if it is of family `fam` and SUB `sub` and its unit is free:
the copy is formed and checked, the job's seed and step are latched, and `run` does its work. One that is executed again keeps
its copy, seed and step (R500). -/
def mopStart (fam sub c q : Nat) (run : Nat → Nat → Mop → State → MRes Unit) (s : State) : State :=
  let k := s.clu c
  if cluState s c ≠ stRunning ∨ locked s (dieOf c) = false ∨ failing s c then s
  else match (k.queues.getD q IssueQ.empty).head with
  | none => s
  | some m =>
    let w := if m.copy.isEmpty then mopWord s c m.slot else m.copy
    let copy := if m.copy.isEmpty then mopCopy w m.params else m.copy
    if m.phase ≠ .queued ∨ mopBad s c m.slot ∨ mopFamily w ≠ fam ∨ mopSub w ≠ sub ∨ mopQueue w ≠ q ∨ unitFree s c q copy = false then s
    else
      let ((seed, step), t) := if m.copy.isEmpty then jobLatch (cluJob s c) s else ((m.seed, m.step), s)
      let m := { m with
        copy := copy, seed := seed, step := step, phase := .running s.ticks, order := k.started
        left := fam == 0x02 || (0x10 ≤ fam && fam ≤ 0x12), low := fam == 0x02 && takesLow s c copy }
      let k := { k with started := k.started + 1 }
      mopGo c q m run (t.setClu c (k.mapMop q m.seq fun _ => m)) s

/-- Work for each repetition. -/
def eachRep (m : Mop) (f : Nat → State → MRes Unit) (s : State) : MRes Unit := MRes.each (List.range (mopRepeat m.copy)) f s

/-- A transfer of the stevedore within the device, outstanding until its macro-op completes (R274, R311). -/
def localXfer (c q : Nat) (m : Mop) (s : State) : State :=
  let k := s.clu c
  s.setClu c { k with xfers := k.xfers ++ [⟨k.nextXfer, q, m.seq, 0, 3, [], []⟩], nextXfer := k.nextXfer + 1 }

/-! Completing. -/

/-- Retires sequence number `seq` (R309, R310): the retired count passes numbers that completed ahead of it. -/
def IssueQ.retire (q : IssueQ) (seq : Nat) : IssueQ :=
  let early := seq :: q.early
  iterate early.length (fun _ q =>
    if q.early.contains q.retired then { q with retired := q.retired + 1, early := q.early.filter (· != q.retired) } else q)
    { q with early := early }

/-- Whether no request of a macro-op's transfers is without a response. -/
def Clu.acked (k : Clu) (q seq : Nat) : Bool := (k.xfers.filter fun x => x.q == q && x.seq == seq).all fun x => x.reqs.isEmpty

/-- Whether a running macro-op may complete: its transfers have been acknowledged, and what must complete before it has
(R272, R340, R350); one of MOVE that sets a flag waits for the writes of the earlier ones (R424). -/
def mayComplete (k : Clu) (q : Nat) (m : Mop) : Bool :=
  let before := (k.queues.getD q IssueQ.empty).mops.takeWhile fun x => x.seq != m.seq
  let fam := mopFamily m.copy
  (match m.phase with | .running _ => true | _ => false) && !m.blocked && k.acked q m.seq &&
    (fam == 0x01 || before.isEmpty || q == 2 && (!mopDfen m.copy || before.all fun x => k.acked q x.seq)) &&
    !(fam == 0x02 && (k.diag.isSome || k.recov.any fun r => r.seq == m.seq))

/-- The counters of a completed ARRAY macro-op (R368). -/
def arrayCounts (c : Nat) (m : Mop) (s : State) : State :=
  if isStream m then
    let s := s.bump F.ARR_CNT_STREAM_COUNT 1 c
    if m.low then s.bump F.ARR_CNT_LOWLAT_COUNT 1 c else s
  else s

/-- A completed LOADW's panel is NEXT, and one that it replaces is lost (R348). A STREAM that stands at the head of ARRAY while no row is fed
has waited for it (R350). -/
def loadDone (c : Nat) (m : Mop) (s : State) : State :=
  if mopFamily m.copy ≠ 0x01 then s
  else
    let k := s.clu c
    match k.filling with
    | none => s
    | some p =>
      let s := if k.next.isSome then s.bump F.ARR_CNT_NEXTLOST_COUNT 1 c else s
      let iq := k.queues.getD 0 IssueQ.empty
      let k := { s.clu c with next := some p, filling := none }
      let waits : Bool := match iq.head with
        | some x => x.phase == .queued && mopFamily (mopWord s c x.slot) == 0x02 && iq.mops.all fun y => !feeding s c y
        | none => false
      let k := if waits then k.mapMop 0 ((iq.head.map Mop.seq).getD 0) (fun x => { x with late := true }) else k
      (s.setClu c k).heal (· == .panel (slotOf s c) true)

/-- A macro-op completes (R310, R311, R340, R341). While its cluster is cleared it has no further effect (R290 step 2). -/
def mopComplete (c q i : Nat) (s : State) : State :=
  let k := s.clu c
  let st := cluState s c
  let iq := k.queues.getD q IssueQ.empty
  match iq.mops[i]? with
  | none => s
  | some m =>
    if (st ≠ stRunning ∧ st ≠ stHalted ∧ st ≠ stClearing) ∨ failing s c ∨ mayComplete k q m = false then s
    else
      let err := if m.status = 0 then iq.err else iq.err <|> some (m.status, m.slot)
      let iq := { { iq with mops := iq.mops.eraseIdx i, err := err }.retire m.seq with startPending := iq.startPending }
      let s := s.setClu c { k with
        queues := k.queues.set q iq, xfers := k.xfers.filter (fun x => !(x.q == q && x.seq == m.seq)), busyAt := s.ticks }
      let s := loadDone c m (arrayCounts c m (s.bump F.CLU_CNT_MOPS_COUNT 1 c))
      let s := if st = stClearing then s
        else if m.status ≠ 0 ∧ mopHaltErr m.copy then haltCluster 4 c s
        else if mopDfen m.copy then setFlag c (mopDflag m.copy) s
        else s
      settleWaits c s

def execMopComplete (c : ClusterId) (q : Fin 4) (i : BitVec 6) (s : State) : Res := ok (mopComplete c q i.toNat s)

end Sys2Proof.Machine
end

