-- ==== Sys2Proof/Machine/Array.lean ====
section
/-! DEFINITION. The matrix array (R345 to R368): LOADW, STREAM, checksum recovery, column diagnosis and the commit of
bypass masks. -/

namespace Sys2Proof.Machine

/-! LOADW. -/

/-- M and N of an N:M pattern (R356): the group length and the most values kept; none for a dense panel. -/
def nmGroup (nm : Nat) : Option (Nat × Nat) :=
  match nm with
  | 1 => some (4, 2)
  | 2 => some (4, 1)
  | 3 => some (8, 4)
  | _ => none

/-- Whether a value is ±0. -/
def Num.isZero : Num → Bool
  | .fin _ 0 _ => true
  | _ => false

/-- A stored row with its zeros masked, and how many groups hold too many values (R356, R357): such a group stays whole. -/
def maskRow (nm : Nat) (xs : List Num) : List (Option Num) × Nat :=
  match nmGroup nm with
  | none => (xs.map some, 0)
  | some (len, most) =>
    let groups := piecesOf len xs
    let excess := fun (g : List Num) => decide (most < (g.filter fun x => !x.isZero).length)
    (groups.flatMap fun g => if excess g then g.map some else g.map fun x => if x.isZero then none else some x,
      (groups.filter excess).length)

/-- Columns of stored rows as rows. -/
def transposed (rows : List (List (Option Num))) (cols : Nat) : List (List (Option Num)) :=
  (List.range cols).map fun j => rows.map fun r => r.getD j none

/-- One repetition of a LOADW (R346, R356, R357): the panel, or SPARSE at the first violating group with STRICT. -/
def loadPanel (c : Nat) (m : Mop) (k : Nat) (s : State) : MRes Panel :=
  let a := opdOf m.copy 0
  let fs := mopFspec m.copy
  let nm := fieldOf fs 1 2
  (MRes.collect (List.range a.rows) (fun r s =>
    (readDense c a k r s).andThen fun bs s =>
      let (row, excess) := maskRow nm (rowNums a.fmt a.cols bs)
      if excess ≠ 0 ∧ mopStrict m.copy then .err 0x04 s
      else .val row ((warn 1 2 excess c s).bump F.ARR_CNT_DENSE_COUNT excess c)) s).andThen fun rows s =>
    .val ⟨if fs.testBit 0 then transposed rows a.cols else rows, m.copy, m.order⟩ s

/-- LOADW fills the buffer that is not ACTIVE (R347, R348): a NEXT panel that stands there is lost at once; of several
repetitions the last panel is kept. -/
def runLoadw (c _q : Nat) (m : Mop) (s : State) : MRes Unit :=
  let k := s.clu c
  let s := if k.active.isSome && k.next.isSome then
      (s.bump F.ARR_CNT_NEXTLOST_COUNT 1 c).setClu c { k with next := none } else s
  (MRes.collect (List.range (mopRepeat m.copy)) (loadPanel c m) s).andThen fun ps s =>
    .val () (s.setClu c { s.clu c with filling := ps.getLast? })

def execLoadw (c : ClusterId) (s : State) : Res := ok (mopStart 0x01 0 c 0 runLoadw s)

/-! STREAM. -/

/-- One group sum (R352, R353): the accumulator and up to 16 products, added exactly and rounded once. -/
def groupSum (acc : Nat) (ps : List (Num × Option Num)) : Nat :=
  let total := ps.foldl (fun t p => match p.2 with
    | some w => t.add (p.1.mul w)
    | none => t) (decodeFlt fFP32 acc)
  roundNum fFP32 0 0 total.plusZero

/-- An output element before conversion (R352): the FP32 accumulator, with the addend's FP32 code where ACC is 1. -/
def streamElement (a : List Num) (w : List (Option Num)) (addend : Option Nat) : Nat :=
  let acc := (piecesOf 16 (a.zip w)).foldl groupSum 0
  match addend with
  | some v => roundNum fFP32 0 0 ((decodeFlt fFP32 acc).add (decodeFlt fFP32 v)).plusZero
  | none => acc

/-- A column of a panel. -/
def Panel.column (p : Panel) (n : Nat) : List (Option Num) := p.w.map fun r => r.getD n none

/-- Columns of a panel. -/
def Panel.width (p : Panel) : Nat := (p.w.headD []).length

/-- One row of a STREAM (R349, R352, R354). -/
def streamRow (c : Nat) (m : Mop) (p : Panel) (k r : Nat) (s : State) : MRes Unit :=
  let a := opdOf m.copy 0
  let b := opdOf m.copy 1
  let x := opdOf m.copy 2
  let acc := (mopFspec m.copy).testBit 2
  (readRow c a k r s).andThen fun ab s =>
    (if acc then readRow c x k r s else MRes.val [] s).andThen fun cb s =>
      let row := rowNums a.fmt a.cols ab
      let addends := rowCodes fFP32 b.cols cb
      let pos := (k * b.rows + r) * b.cols
      let out := (List.range b.cols).map fun n =>
        let v := streamElement row (p.column n) (if acc then some (addends.getD n 0) else none)
        if b.fmt = fFP32 then v else roundNum b.fmt (mopRmode m.copy) (mopDraw c m (pos + n)) (decodeFlt fFP32 v)
      writeRow c b k r (codeBytes b.fmt out) s

/-- Check intervals of a STREAM (R359). -/
def intervals (w : List Word) : Nat := mopRepeat w * ceilDiv (opdOf w 0).rows 256

/-- Mismatches of check intervals (R359 to R363): each interval of `once` mismatches once and will be executed again; that of `again` will
then mismatch a second time. Without CHKEN nothing is checked; a non-repeatable STREAM fails the cluster. -/
def streamChecks (c : Nat) (m : Mop) (once : List Nat) (again : Option Nat) (s : State) : State :=
  let again := again.filter (· < intervals m.copy)
  let bad := (List.range (intervals m.copy)).filter fun i => once.contains i || again == some i
  if s.flag F.ARR_CFG_CHKEN c = false ∨ bad = [] then s
  else if repeatable c m.copy = false then failCluster failChecksum false c (s.bump F.ARR_CNT_MISMATCH_COUNT 1 c)
  else
    let s := s.bump F.ARR_CNT_MISMATCH_COUNT bad.length c
    s.setClu c { s.clu c with recov := some ⟨m.seq, bad, again⟩ }

/-- A NEXT panel becomes ACTIVE (R348), with whatever its buffer holds. -/
def takeNext (c : Nat) (s : State) : State :=
  let k := s.clu c
  let slot := slotOf s c
  match k.next with
  | none => s
  | some p =>
    { s.setClu c { k with active := some p, next := none } with
      upsets := (s.upsets.filter fun u => u.spot != .panel slot false).map fun u =>
        if u.spot = .panel slot true then { u with spot := .panel slot false } else u }

/-- STREAM (R349 to R354, R365): it takes the NEXT panel as ACTIVE, or uses the ACTIVE one again. The cycles for which one that found no
panel waited are a free value (R350). An uncorrectable word of the panel counts as a mismatch of the first interval, or ends the STREAM
where nothing is checked (R489, class 4). -/
def runStream (once : List Nat) (again : Option Nat) (c q : Nat) (m : Mop) (s : State) : MRes Unit :=
  let k := s.clu c
  let a := opdOf m.copy 0
  let b := opdOf m.copy 1
  let x := opdOf m.copy 2
  let acc := (mopFspec m.copy).testBit 2
  match m.panel <|> k.next <|> k.active with
  | none => .err 0x01 s
  | some p =>
    if a.cols ≠ p.w.length ∨ b.cols ≠ p.width ∨ acc ∧ (x.rows ≠ b.rows ∨ x.cols ≠ b.cols) then .err 0x01 s
    else
      let s := if m.panel.isSome then s else takeNext c s
      let s := s.setClu c ((s.clu c).mapMop q m.seq fun m => { m with panel := some p })
      let s := if arrayWidth s c < b.cols then s.bump F.ARR_CNT_TWOPASS_COUNT 1 c else s
      let s := if m.late then
          let (i, s) := s.fresh
          s.bump F.ARR_CNT_BUBBLE_COUNT (Config.bubbleCycles i).toNat c
        else s
      let (bad, s) := s.touch 4 c 0 (· == .panel (slotOf s c) false)
      if bad ∧ s.flag F.ARR_CFG_CHKEN c = false then .err 0x05 s
      else
        (eachRep m (fun k s => MRes.each (List.range a.rows) (fun r s => streamRow c m p k r s) s) s).andThen fun _ s =>
          .val () (streamChecks c m (if bad then 0 :: once else once) again s)

def execStream (c : ClusterId) (once : List (BitVec 24)) (again : Option (BitVec 24)) (s : State) : Res :=
  ok (mopStart 0x02 0 c 0 (runStream (once.map BitVec.toNat) (again.map BitVec.toNat)) s)

/-! Recovery (R360, R361). -/

/-- A panel loaded again: its LOADW once more, from the retained copy. -/
def reloadPanel (c : Nat) (p : Panel) (s : State) : MRes Panel :=
  loadPanel c ⟨0, [], 0, .queued, false, p.copy, 0, 0, 0, [], p.id, false, false, none, false, 0⟩ (mopRepeat p.copy - 1) s

/-- The same of a buffer, which then holds no error. -/
def reloadBuffer (c : Nat) (next : Bool) (s : State) : MRes Unit :=
  let k := s.clu c
  match if next then k.next else k.active with
  | none => .val () s
  | some p => (reloadPanel c p s).andThen fun p s =>
      let k := s.clu c
      .val () ((s.setClu c (if next then { k with next := some p } else { k with active := some p })).heal
        (· == .panel (slotOf s c) next))

/-- The rows of check interval `i` of a STREAM, executed again on panel `p`. -/
def retryInterval (c : Nat) (m : Mop) (p : Panel) (i : Nat) (s : State) : MRes Unit :=
  let a := opdOf m.copy 0
  let per := max 1 (ceilDiv a.rows 256)
  let rows := (List.range (min 256 (a.rows - i % per * 256))).map (· + i % per * 256)
  (MRes.each rows (fun r s => streamRow c m p (i / per) r s) s).andThen fun _ s =>
    .val () (s.bump F.ARR_CNT_RETRY_COUNT 1 c)

/-- Steps 3 to 5 of a recovery: the STREAM's panel, the intervals, then the ACTIVE and NEXT panels. -/
def recoverRun (c : Nat) (m : Mop) (once : List Nat) (s : State) : MRes Unit :=
  match m.panel with
  | none => .val () s
  | some p =>
    (reloadPanel c p s).andThen fun p s =>
      (MRes.each once (retryInterval c m p) s).andThen fun _ s =>
        (reloadBuffer c false s).andThen fun _ s => reloadBuffer c true s

/-- A recovery in progress is carried out (R360 to R362): a second mismatch of an interval starts diagnosis; an access that fails ends the
STREAM with its status. -/
def recover (c : Nat) (s : State) : State :=
  let k := s.clu c
  let st := cluState s c
  match k.recov with
  | none => s
  | some r =>
    if (st ≠ stRunning ∧ st ≠ stHalted) ∨ k.diag.isSome ∨ failing s c then s
    else match k.mopOf 0 r.seq with
    | none => s.setClu c { k with recov := none }
    | some m =>
      match recoverRun c m r.once s with
      | .val _ s =>
        let k := { s.clu c with recov := none }
        match r.again with
        | none => s.setClu c k
        | some i => (s.bump F.ARR_CNT_MISMATCH_COUNT 1 c).setClu c { k with recov := some ⟨r.seq, [], none⟩, diag := some (m.slot, i) }
      | .err e s => s.setClu c { (s.clu c).mapMop 0 r.seq (Mop.fail e) with recov := none }
      | .hold _ | .wait => s

/-! Diagnosis and bypass (R362 to R367). -/

/-- The active bypass mask. -/
def bypassMask (s : State) (c : Nat) : Nat := s.get F.ARR_BYPASS0_MASK c + s.get F.ARR_BYPASS1_MASK c * 2 ^ 32

/-- MAXBYP as it acts (R368). -/
def maxBypass (v : Nat) : Nat := min 32 v

/-- A changed width is published and reported (R364). -/
def widthChanged (c before : Nat) (s : State) : State :=
  let w := arrayWidth s c
  if w = before then s else (scaleChanged s).event 0x09 2 (cluJob s c) c [w]

/-- Columns bypassed in the active mask (R366). -/
def bypassColumns (c cols : Nat) (s : State) : State :=
  let s := s.wr R.ARR_BYPASS0 c 0 (s.rd R.ARR_BYPASS0 c 0 ||| cols % 2 ^ 32)
  s.wr R.ARR_BYPASS1 c 0 (s.rd R.ARR_BYPASS1 c 0 ||| cols / 2 ^ 32)

/-- Diagnosis has found no way to go on: the cluster fails (R362). One that has halted meanwhile cannot fail (R495); its STREAM then ends with
UNCORRECTABLE (DESIGN CHOICE, log entry 133). -/
def diagnosisFailed (c : Nat) (m : Option Nat) (s : State) : State :=
  if cluState s c = stRunning then failCluster failChecksum false c s
  else match m with
    | some seq => s.setClu c ((s.clu c).mapMop 0 seq (Mop.fail 0x05))
    | none => s

/-- Diagnosis ends (R362): `cols` are the failing data columns, `other` says that another unit fails; `further` that the interval
mismatches once more on the narrower array. -/
def diagnosisDone (c cols : Nat) (other further : Bool) (s : State) : State :=
  match (s.clu c).diag with
  | none => s
  | some (slot, i) =>
    if cluState s c ≠ stRunning ∧ cluState s c ≠ stHalted then s
    else
      let seq := (s.clu c).recov.map Recovery.seq
      let n := popcount 64 cols
      let total := popcount 64 (bypassMask s c ||| cols)
      let outcome := if other then 3 else if cols = 0 then 2 else if maxBypass (s.get F.ARR_CFG_MAXBYP c) < total then 4 else 1
      let low := ((List.range 64).find? fun i => cols.testBit i).getD 0
      let s := ((s.set F.ARR_DIAGREC_OUTCOME outcome c).set F.ARR_DIAGREC_COLUMN low c).set F.ARR_DIAGREC_COUNT n c
      let s := (s.set F.ARR_DIAGREC_SLOT slot c).bump F.ARR_CNT_DIAG_COUNT 1 c
      let s := s.event 0x09 1 (cluJob s c) c [s.rd R.ARR_DIAGREC c 0]
      let s := s.setClu c { s.clu c with diag := none, recov := none }
      if outcome ≠ 1 then diagnosisFailed c seq s
      else
        let before := arrayWidth s c
        let s := widthChanged c before (bypassColumns c cols s)
        let s := if s.armed (.arr (Fin.ofNat 80 c)) then s.setClu c { s.clu c with found := (s.clu c).found ||| cols } else s
        if further then
          diagnosisFailed c seq ((s.bump F.ARR_CNT_RETRY_COUNT 1 c).bump F.ARR_CNT_MISMATCH_COUNT 1 c)
        else recover c (s.setClu c { s.clu c with recov := seq.map fun n => ⟨n, [i], none⟩ })

def execDiagnosisDone (c : ClusterId) (cols : BitVec 64) (other further : Bool) (s : State) : Res :=
  ok (diagnosisDone c cols.toNat other further s)

/-- The macro-op boundary of an armed ARR commit (R366); there is none while the array feeds, recovers or is diagnosed. Columns that diagnosis
has found since the COMMIT write stay bypassed. -/
def arrApply (c : ClusterId) (s : State) : State :=
  let k := s.clu c
  if arrayBusy s c then s
  else
    let mask := (s.rdShadow R.ARR_BYPASS0 c 0 + s.rdShadow R.ARR_BYPASS1 c 0 * 2 ^ 32) ||| k.found
    let most := maxBypass (fieldOf (s.rdShadow R.ARR_CFG c 0) F.ARR_CFG_MAXBYP.lo F.ARR_CFG_MAXBYP.width)
    let s := s.setClu c { k with found := 0 }
    if most < popcount 64 mask then commitRefused (.arr c) s
    else
      let before := arrayWidth s c
      widthChanged c before (bypassColumns c k.found (commitApplied (.arr c) s))

end Sys2Proof.Machine
end

