-- ==== Sys2Proof/Machine/Vector.lean ====
section
/-! DEFINITION. The vector unit (R328, R329, R333): VEC, REDUCE, CONVERT and COMBINE. -/

namespace Sys2Proof.Machine

/-! Elements. -/

/-- A row's elements as the vector unit takes them: FP32 codes, or 32-bit integers (R328). -/
def rowVec (o : Opd) (bs : List Byte) : List Nat :=
  if isFloat o.fmt then rowFp32 o bs else (rowCodes o.fmt o.cols bs).map fun c => unsigned 32 (intOf o.fmt c)

/-- FP32 or INT32 results as a row of an output format (R328, R380, R382). -/
def vecRow (c : Nat) (m : Mop) (o : Opd) (pos : Nat) (vs : List Nat) : List Byte :=
  if isFloat o.fmt then
    if o.fmt = fFP32 then codeBytes fFP32 vs
    else encodeRow o.fmt (mopRmode m.copy) (fun i => mopDraw c m (pos + i)) (vs.map (decodeFlt fFP32))
  else if o.fmt = fINT8 then codeBytes fINT8 (vs.map fun v => satInt8 (signed 32 v))
  else codeBytes o.fmt vs

/-- The operation of a VEC on elements a, b, c with scalar s, computed in FP32 or in wrapping INT32; `fmt` is A's
format (R328, R257). -/
def vecElement (sub fmt : Nat) (s a b c : Nat) : Nat :=
  if isFloat fmt then
    let canon := fun (x : Num) => roundNum fFP32 0 0 x
    match sub with
    | 0 => fp32Add a b
    | 1 => canon ((decodeFlt fFP32 a).add (decodeFlt fFP32 b).neg)
    | 2 => fp32Mul a b
    | 3 => fp32Fma a b c
    | 4 => pickCode fFP32 true a b
    | 5 => pickCode fFP32 false a b
    | 6 => fp32Add a s
    | 7 => fp32Mul a s
    | 8 => canon (decodeFlt fFP32 a).abs
    | 9 => canon (decodeFlt fFP32 a).neg
    | 10 => pickCode fFP32 true a 0
    | n => vecFun n a
  else
    let x := signed 32 a
    let y := signed 32 b
    let z := signed 32 s
    match sub with
    | 0 => unsigned 32 (x + y)
    | 1 => unsigned 32 (x - y)
    | 2 => unsigned 32 (x * y)
    | 3 => unsigned 32 (x * y + signed 32 c)
    | 4 => pickCode fINT32 true a b
    | 5 => pickCode fINT32 false a b
    | 6 => unsigned 32 (x + z)
    | 7 => unsigned 32 (x * z)
    | 8 => unsigned 32 (if x < 0 then -x else x)
    | 9 => unsigned 32 (-x)
    | 10 => pickCode fINT32 true a 0
    | 16 => a &&& b
    | 17 => a ||| b
    | _ => a ^^^ b

/-! VEC. -/

/-- One row of a VEC: FMA reads C as its addend. -/
def vecRowDo (sub c : Nat) (m : Mop) (k r : Nat) (s : State) : MRes Unit :=
  let a := opdOf m.copy 0
  let b := opdOf m.copy 1
  let o := opdOf m.copy 2
  (readRow c a k r s).andThen fun ab s =>
    (if vecTwo sub then readRow c b k r s else MRes.val [] s).andThen fun bb s =>
      (if sub = 3 then readRow c o k r s else MRes.val [] s).andThen fun cb s =>
        let xs := rowVec a ab
        let ys := rowVec b bb
        let zs := rowVec o cb
        let vs := xs.zipIdx.map fun (x, i) => vecElement sub a.fmt (mopFspec m.copy) x (ys.getD i 0) (zs.getD i 0)
        writeRow c o k r (vecRow c m o ((k * o.rows + r) * o.cols) vs) s

def runVec (sub c _q : Nat) (m : Mop) (s : State) : MRes Unit :=
  eachRep m (fun k s => MRes.each (List.range (opdOf m.copy 0).rows) (fun r s => vecRowDo sub c m k r s) s) s

/-- Starts a VEC of an operation. -/
def vec (sub c : Nat) (s : State) : State := mopStart 0x08 sub c 1 (runVec sub) s

def execVecAdd (c : ClusterId) (s : State) : Res := ok (vec 0 c s)
def execVecSub (c : ClusterId) (s : State) : Res := ok (vec 1 c s)
def execVecMul (c : ClusterId) (s : State) : Res := ok (vec 2 c s)
def execVecFma (c : ClusterId) (s : State) : Res := ok (vec 3 c s)
def execVecMax (c : ClusterId) (s : State) : Res := ok (vec 4 c s)
def execVecMin (c : ClusterId) (s : State) : Res := ok (vec 5 c s)
def execVecAdds (c : ClusterId) (s : State) : Res := ok (vec 6 c s)
def execVecMuls (c : ClusterId) (s : State) : Res := ok (vec 7 c s)
def execVecAbs (c : ClusterId) (s : State) : Res := ok (vec 8 c s)
def execVecNeg (c : ClusterId) (s : State) : Res := ok (vec 9 c s)
def execVecRelu (c : ClusterId) (s : State) : Res := ok (vec 10 c s)
def execVecExp (c : ClusterId) (s : State) : Res := ok (vec 11 c s)
def execVecRecip (c : ClusterId) (s : State) : Res := ok (vec 12 c s)
def execVecRsqrt (c : ClusterId) (s : State) : Res := ok (vec 13 c s)
def execVecAnd (c : ClusterId) (s : State) : Res := ok (vec 16 c s)
def execVecOr (c : ClusterId) (s : State) : Res := ok (vec 17 c s)
def execVecXor (c : ClusterId) (s : State) : Res := ok (vec 18 c s)

/-! REDUCE (R329). -/

/-- The tree over one row or column: squares first for SUMSQ, nodes in FP32 or wrapping integers; the root as an FP32 code with any
NaN canonical, or a 32-bit integer. -/
def reduceTree (sub fmt : Nat) (vs : List Nat) : Nat :=
  let leaf := fun v => if sub = 3 then vecElement 2 fmt 0 v v 0 else v
  let op := match sub with | 1 => 4 | 2 => 5 | _ => 0
  let root := treeRoot (fun _ _ a b => vecElement op fmt 0 a b 0) 0 (vs.map leaf)
  if isFloat fmt then canonCode fFP32 root else root

/-- One repetition of a REDUCE. -/
def reduceRep (sub c : Nat) (m : Mop) (k : Nat) (s : State) : MRes Unit :=
  let a := opdOf m.copy 0
  let b := opdOf m.copy 1
  if (mopFspec m.copy).testBit 0 then
    MRes.each (List.range a.rows) (fun r s =>
      (readRow c a k r s).andThen fun bs s =>
        writeRow c b k r (vecRow c m b (k * b.rows + r) [reduceTree sub a.fmt (rowVec a bs)]) s) s
  else
    (readRows c a k s).andThen fun rows s =>
      let vs := rows.map (rowVec a)
      let out := (List.range a.cols).map fun j => reduceTree sub a.fmt (vs.map fun r => r.getD j 0)
      writeRow c b k 0 (vecRow c m b (k * b.cols) out) s

def runReduce (sub c _q : Nat) (m : Mop) (s : State) : MRes Unit := eachRep m (reduceRep sub c m) s

/-- Starts a REDUCE of an operation. -/
def reduce (sub c : Nat) (s : State) : State := mopStart 0x09 sub c 1 (runReduce sub) s

def execReduceSum (c : ClusterId) (s : State) : Res := ok (reduce 0 c s)
def execReduceMax (c : ClusterId) (s : State) : Res := ok (reduce 1 c s)
def execReduceMin (c : ClusterId) (s : State) : Res := ok (reduce 2 c s)
def execReduceSumsq (c : ClusterId) (s : State) : Res := ok (reduce 3 c s)

/-! CONVERT (R329). -/

def runConvert (c _q : Nat) (m : Mop) (s : State) : MRes Unit :=
  let a := opdOf m.copy 0
  let b := opdOf m.copy 1
  eachRep m (fun k s => MRes.each (List.range a.rows) (fun r s =>
    (readRow c a k r s).andThen fun bs s =>
      writeRow c b k r (mopConvert c m a.fmt b.fmt a.cols ((k * a.rows + r) * a.cols) bs) s) s) s

def execConvert (c : ClusterId) (s : State) : Res := ok (mopStart 0x0A 0 c 1 runConvert s)

/-! The route control block (R333). -/

/-- Device address of byte `i` of the block in repetition `k`: C's rows, one after another. -/
def blockAddr (o : Opd) (c k i : Nat) : Nat := o.rowAddr c k (i / max 1 o.cols) + i % max 1 o.cols

/-- A word of the block. -/
def blockWord (c : Nat) (o : Opd) (k i : Nat) (s : State) : MRes Nat :=
  (readAt c o (blockAddr o c k i) 4 s).andThen fun bs s => .val (ofBytes bs) s

def putBlockWord (c : Nat) (o : Opd) (k i v : Nat) (s : State) : MRes Unit := writeAt c o (blockAddr o c k i) (toBytes 4 v) s

/-- Offset of the route records. -/
def recordBase (e : Nat) : Nat := up64 (0x40 + 20 * e)

/-- Offset of the record of choice `i` for token `t` in repetition `j`, `kk` choices and `tt` tokens. -/
def recordAt (e kk tt j t i : Nat) : Nat := recordBase e + 8 * (kk * (j * tt + t) + i)

/-- E and CAP of a block; FORMAT where they or the zero bytes are invalid. -/
def blockHead (c : Nat) (o : Opd) (k : Nat) (s : State) : MRes (Nat × Nat) :=
  (MRes.collect (List.range 16) (fun i s => blockWord c o k (4 * i) s) s).andThen fun ws s =>
    let e := ws.getD 0 0
    let cap := ws.getD 1 0
    if e = 0 ∨ 4095 < e ∨ cap = 0 ∨ 1048575 < cap ∨ (ws.drop 2).any (· != 0) then .err 0x01 s else .val (e, cap) s

/-! COMBINE (R333). -/

/-- Records of one token, those kept, in ascending expert index: expert, slot, weight. -/
def keptRecords (ws : List (Nat × Nat)) : List (Nat × Nat × Nat) :=
  let rs := (ws.map fun w => (w.1 % 4096, w.1 / 4096, w.2)).filter fun r => r.1 != 0xFFF
  rs.foldl (fun l r => l.takeWhile (fun x => x.1 ≤ r.1) ++ r :: l.dropWhile (fun x => x.1 ≤ r.1)) []

/-- Adds one returned row into a token's accumulators: each term is rounded, then the sum (R333). -/
def combineTerm (acc row : List Nat) (w : Nat) : List Nat := acc.zipIdx.map fun (x, i) => fp32Add x (fp32Mul w (row.getD i 0))

/-- One kept record of a token. -/
def combineRecord (c : Nat) (m : Mop) (k cap : Nat) (acc : List Nat) (r : Nat × Nat × Nat) (s : State) : MRes (List Nat) :=
  let a := opdOf m.copy 0
  let n := r.1 * cap + r.2.1
  if a.rows ≤ n then
    (outOfRange c m s).andThen fun _ s => .val (combineTerm acc (List.replicate a.cols 0) r.2.2) s
  else (readRow c a k n s).andThen fun bs s => .val (combineTerm acc (rowFp32 a bs) r.2.2) s

/-- The kept records of a token, one after another. -/
def combineRecords (c : Nat) (m : Mop) (k cap : Nat) : List Nat → List (Nat × Nat × Nat) → State → MRes (List Nat)
  | acc, [], s => .val acc s
  | acc, r :: rs, s => (combineRecord c m k cap acc r s).andThen fun acc s => combineRecords c m k cap acc rs s

/-- One token of a COMBINE. -/
def combineToken (c : Nat) (m : Mop) (e cap kk k t : Nat) (s : State) : MRes Unit :=
  let b := opdOf m.copy 1
  let o := opdOf m.copy 2
  (if (mopFspec m.copy).testBit 0 then readRow c b k t s else MRes.val [] s).andThen fun bb s =>
    let acc := if (mopFspec m.copy).testBit 0 then rowFp32 b bb else List.replicate b.cols 0
    (MRes.collect (List.range kk) (fun i s =>
      let at_ := recordAt e kk b.rows k t i
      (blockWord c o k at_ s).andThen fun w0 s => (blockWord c o k (at_ + 4) s).andThen fun w1 s => .val (w0, w1) s) s).andThen
        fun ws s =>
      (combineRecords c m k cap acc (keptRecords ws) s).andThen fun acc s =>
        writeRow c b k t (vecRow c m b ((k * b.rows + t) * b.cols) acc) s

/-- Choices per token: what the block has room for behind RR (R333). -/
def choices (m : Mop) (e : Nat) : Nat :=
  let b := opdOf m.copy 1
  let o := opdOf m.copy 2
  (o.rows * o.cols - recordBase e) / (8 * max 1 (b.rows * mopRepeat m.copy))

/-- COMBINE. The block's layout has K in it, which the word does not name: a number of choices outside 1 to 8 is FORMAT. -/
def runCombine (c _q : Nat) (m : Mop) (s : State) : MRes Unit :=
  eachRep m (fun k s =>
    (blockHead c (opdOf m.copy 2) k s).andThen fun (e, cap) s =>
      let kk := choices m e
      if kk = 0 ∨ 8 < kk then .err 0x01 s
      else MRes.each (List.range (opdOf m.copy 1).rows) (fun t s => combineToken c m e cap kk k t s) s) s

def execCombine (c : ClusterId) (s : State) : Res := ok (mopStart 0x0B 0 c 1 runCombine s)

end Sys2Proof.Machine
end

