-- ==== Sys2Proof/Machine/Move.lean ====
section
/-! DEFINITION. The MOVE families (R324, R330 to R332): GATHER, SEND and RECV. -/

namespace Sys2Proof.Machine

/-! GATHER. -/

/-- The index of row `r` of the transfer in repetition `k`: out of range as INT32 below 0 or at the bound or above (R324). -/
def gatherIndex (c : Nat) (m : Mop) (bound k r : Nat) (s : State) : MRes (Option Nat) :=
  let o := opdOf m.copy 2
  (readRow c o k r s).andThen fun bs s =>
    let v := intOf o.fmt (ofBytes bs)
    .val (if 0 ≤ v ∧ v < bound then some v.toNat else none) s

/-- Writes rows of B in repetition `k` from row `r` on, then ends with a status. -/
def writeRowsFrom (c : Nat) (b : Opd) (k r st : Nat) (rows : List (List Byte)) (s : State) : MRes Unit :=
  (MRes.each rows.zipIdx (fun x s => writeRow c b k (r + x.2) x.1 s) s).andThen fun _ s => endWith st s

/-- Row `ra` of A moved to row `rb` of B in repetition `k`, converted; `pos` is its first output position. Where a segment
cannot be read, what came before it is still written (R56, R341). -/
def copyRow (c : Nat) (m : Mop) (k ra rb pos : Nat) (s : State) : MRes Unit :=
  let a := opdOf m.copy 0
  let b := opdOf m.copy 1
  (readRowUpTo c a k ra s).andThen fun x s =>
    let (rows, part) := if x.2 = 0 then ([x.1], []) else ([], x.1)
    writeRowsFrom c b k rb x.2 (regroupUpTo c m a.fmt a.cols b.fmt b.cols pos x.2 rows part) s

/-- One row of an indexed GATHER (R324). -/
def gatherIndexed (c : Nat) (m : Mop) (k r : Nat) (s : State) : MRes Unit :=
  let a := opdOf m.copy 0
  let b := opdOf m.copy 1
  let pos := (k * (opdOf m.copy 2).rows + r) * b.cols
  (gatherIndex c m (if a.idx then a.rows else b.rows) k r s).andThen fun i s =>
    match i with
    | some i => copyRow c m k (if a.idx then i else r) (if a.idx then r else i) pos s
    | none =>
      (outOfRange c m s).andThen fun _ s => if a.idx then writeRow c b k r (zeroRow b.fmt b.cols) s else .val () s

/-- Rows of an operand in repetition `k` until one cannot be read: the whole rows, what came of the next, and the status, 0 for none (R341,
R396). -/
def readRowsUpTo (c : Nat) (o : Opd) (k : Nat) : List Nat → State → MRes (List (List Byte) × List Byte × Nat)
  | [], s => .val ([], [], 0) s
  | r :: rs, s =>
    let row : MRes (List Byte × Nat) :=
      if o.bitmap then
        match readDense c o k r s with
        | .val bs s => .val (bs, 0) s
        | .err st s => .val ([], st) s
        | .hold s => .hold s
        | .wait => .wait
      else readRowUpTo c o k r s
    row.andThen fun x s =>
      if x.2 = 0 then (readRowsUpTo c o k rs s).andThen fun y s => .val (x.1 :: y.1, y.2) s
      else .val ([], x.1, x.2) s

/-- One repetition of a GATHER: row by row, or regrouped where rows of A and B differ in length (R330). -/
def gatherRep (c : Nat) (m : Mop) (k : Nat) (s : State) : MRes Unit :=
  let a := opdOf m.copy 0
  let b := opdOf m.copy 1
  if a.idx || b.idx then MRes.each (List.range (opdOf m.copy 2).rows) (gatherIndexed c m k) s
  else if a.cols = b.cols ∧ a.bitmap = false then
    MRes.each (List.range a.rows) (fun r s => copyRow c m k r r ((k * a.rows + r) * a.cols) s) s
  else if a.cols = b.cols then
    MRes.each (List.range a.rows) (fun r s =>
      (readDense c a k r s).andThen fun bs s =>
        writeRow c b k r (mopConvert c m a.fmt b.fmt a.cols ((k * a.rows + r) * a.cols) bs) s) s
  else
    (readRowsUpTo c a k (List.range a.rows) s).andThen fun x s =>
      writeRowsFrom c b k 0 x.2.2 (regroupUpTo c m a.fmt a.cols b.fmt b.cols (k * a.rows * a.cols) x.2.2 x.1 x.2.1) s

def runGather (c q : Nat) (m : Mop) (s : State) : MRes Unit := eachRep m (gatherRep c m) (localXfer c q m s)

def execGather (c : ClusterId) (s : State) : Res := ok (mopStart 0x10 0 c 2 runGather s)

/-! SEND SUB 0. -/

/-- Packets with their bytes, which the parts take in order. -/
def fillParts : List (List WirePart) → List Byte → List (List WirePart × List Byte)
  | [], _ => []
  | ps :: rest, bs =>
    let n := ps.foldl (fun n p => n + p.nw) 0
    (ps, bs.take n) :: fillParts rest (bs.drop n)

/-- First part of a packet. -/
def firstPart (ps : List WirePart) : WirePart := ps.headD ⟨0, 0, 0, 0, 0, 0⟩

/-- One write transfer to an endpoint (R330): parts in order, with the bytes they carry. -/
def sendXfer (c q : Nat) (m : Mop) (dst cls : Nat) (ord : Bool) (parts : List WirePart) (bs : List Byte) (s : State) : State :=
  let packets := fillParts (gatherParts 4096 (2 ^ 48) parts [] 0) bs
  beginXfer c q m.seq dst 0 (packets.zipIdx.map fun (p, i) =>
    ((firstPart p.1).pos, p.1.length, moveHeader c m dst cls 1 ord (firstPart p.1).rem i p.2.length s, p.2)) s

/-- Endpoint, class and ORD in FSPEC (R325). -/
def specDst (m : Mop) : Nat := fieldOf (mopFspec m.copy) 0 20
def specClass (m : Mop) : Nat := fieldOf (mopFspec m.copy) 20 3
def specOrd (m : Mop) : Bool := (mopFspec m.copy).testBit 23

/-- The first parts of a row, as far as `n` bytes go. -/
def partsUpTo : List WirePart → Nat → List WirePart
  | [], _ => []
  | p :: ps, n => if p.nw ≤ n then p :: partsUpTo ps (n - p.nw) else []

/-- What A gives of a transfer with the wire shape `w` for the operand B, repetition by repetition until a segment fails: the parts with
their bytes, and the status of the failure, 0 for none. -/
def sendReps (c : Nat) (m : Mop) (w : WireShape) : List Nat → State → MRes (List WirePart × List Byte × Nat)
  | [], s => .val ([], [], 0) s
  | k :: ks, s =>
    let a := opdOf m.copy 0
    (readRowsUpTo c a k (List.range a.rows) s).andThen fun x s =>
      let rows := regroupUpTo c m a.fmt a.cols w.fmt w.cols (k * w.elems) x.2.2 x.1 x.2.1
      let parts := rows.zipIdx.flatMap fun y => partsUpTo (wireRow c a (opdOf m.copy 1) w k y.2) y.1.length
      if x.2.2 = 0 then (sendReps c m w ks s).andThen fun y s => .val (parts ++ y.1, rows.flatten ++ y.2.1, y.2.2) s
      else .val (parts, rows.flatten, x.2.2) s

/-- SEND SUB 0 (R330): A's elements in their order fill the rows of B; what was read before an error is still sent. -/
def runSendPut (c q : Nat) (m : Mop) (s : State) : MRes Unit :=
  let a := opdOf m.copy 0
  let b := opdOf m.copy 1
  let w : WireShape := ⟨b.fmt, a.rows * a.cols, b.cols, 1⟩
  (sendReps c m w (List.range (mopRepeat m.copy)) s).andThen fun r s =>
    endWith r.2.2 (sendXfer c q m (specDst m) (specClass m) (specOrd m) r.1 r.2.1 s)

def execSendPut (c : ClusterId) (s : State) : Res := ok (mopStart 0x11 0 c 2 runSendPut s)

/-! SEND SUB 1 (R331). -/

/-- The entry of a group that cluster `c` contributes by. -/
def clusterRank (g : Coll) (c : Nat) : Option Nat :=
  (List.range g.members.length).find? fun r =>
    let x := memberAt g.members r
    x.kind == 1 && x.id == c && x.c

/-- Header of a CONTRIB (R218). -/
def sendHeader (c : Nat) (m : Mop) (x step cls addr seq len : Nat) (s : State) : Header :=
  { moveHeader c m (selfId s) cls 8 false addr seq len s with ctx := BitVec.ofNat 12 x, step := BitVec.ofNat 16 step }

/-- Parts of a contribution: the elements of each repetition follow one another from B's base. -/
def contribShape (g : Coll) (a : Opd) : WireShape :=
  let fmt := typeFmt g.hdr.type
  ⟨fmt, a.rows * a.cols, a.rows * a.cols, g.hdr.esize * 8 / elemBits fmt⟩

/-- SEND SUB 1: the context and this cluster's entry are checked at start. -/
def runSendContrib (c q : Nat) (m : Mop) (s : State) : MRes Unit :=
  let a := opdOf m.copy 0
  let b := opdOf m.copy 1
  let x := fieldOf (mopFspec m.copy) 0 12
  let step := fieldOf (mopFspec m.copy) 12 16
  let g := s.coll x
  let h := g.hdr
  let st := collState s x
  match clusterRank g c with
  | none => .err 0x01 s
  | some r =>
    if st = xFree ∨ st = xLoading ∨ st = xDestroying ∨ pairListed a.fmt (typeFmt h.type) = false ∨ b.base % h.esize ≠ 0 then
      .err 0x01 s
    else
      let head := contribHeader h r
      let begin_ := fun (packets : List (List WirePart × List Byte)) (s : State) =>
        beginXfer c q m.seq x 2 (packets.zipIdx.map fun (p, i) =>
          ((firstPart p.1).pos, p.1.length,
            sendHeader c m x step g.contribClass (firstPart p.1).rem i (16 + p.2.length) s, head ++ p.2)) s
      if h.oper = opBarrier then .val () (begin_ [([], [])] s)
      else
        (sendReps c m (contribShape g a) (List.range (mopRepeat m.copy)) s).andThen fun r s =>
          let limit := if g.express then 240 else 4080
          let chunk := if g.express then 2 ^ 48 else h.dchunk false
          endWith r.2.2 (begin_ (fillParts (gatherParts limit chunk r.1 [] 0) r.2.1) s)

def execSendContrib (c : ClusterId) (s : State) : Res := ok (mopStart 0x11 1 c 2 runSendContrib s)

/-! RECV (R330). -/

/-- RECV asks for A's bytes with GET packets; RADDR names the local address that a packet's bytes go to. -/
def runRecv (c q : Nat) (m : Mop) (s : State) : MRes Unit :=
  let parts := transferParts c (opdOf m.copy 1) (opdOf m.copy 0) (recvShape m) (mopRepeat m.copy)
  let packets := gatherParts 4096 (2 ^ 48) parts [] 0
  let (reqs, _) := packets.foldl (fun (l, n) ps =>
    let len := ps.foldl (fun n p => n + p.nw) 0
    let h := moveHeader c m (specDst m) (specClass m) 2 (specOrd m) (firstPart ps).rem l.length 8 s
    (l ++ [(n, ps.length, h, toBytes 8 ((firstPart ps).loc % 2 ^ 48 + len * 2 ^ 48))], n + ps.length))
    (([] : List (Nat × Nat × Header × List Byte)), 0)
  .val () (beginXfer c q m.seq (specDst m) 1 reqs s)

def execRecv (c : ClusterId) (s : State) : Res := ok (mopStart 0x12 0 c 2 runRecv s)

end Sys2Proof.Machine
end

