-- ==== Sys2Proof/Machine/SortHash.lean ====
section
/-! DEFINITION. The SORTHASH families but ROUTE (R398 to R414): SORT, TOPK, FILTER, COMPRESS and SCATTERADD with its spill
list. -/

namespace Sys2Proof.Machine

/-! Keys and order (R401 to R404). -/

/-- Inserts after every element that stands before it or is equal. -/
def stableInsert {α : Type} (before : Int → Int → Bool) (x : Int × α) (l : List (Int × α)) : List (Int × α) :=
  l.takeWhile (fun y => !before x.1 y.1) ++ x :: l.dropWhile (fun y => !before x.1 y.1)

/-- A stable sort by key: ascending, or descending. -/
def stableSort {α : Type} (desc : Bool) (l : List (Int × α)) : List (Int × α) :=
  l.foldl (fun out x => stableInsert (fun a b => if desc then decide (b < a) else decide (a < b)) x out) []

/-- The key of a record. -/
def recordKey (o : Opd) (col : Nat) (bs : List Byte) : Int := orderKey o.fmt ((rowCodes o.fmt o.cols bs).getD col 0)

/-- One repetition of a SORT (R403). -/
def sortRep (c : Nat) (m : Mop) (k : Nat) (s : State) : MRes Unit :=
  let a := opdOf m.copy 0
  let b := opdOf m.copy 1
  let o := opdOf m.copy 2
  let fs := mopFspec m.copy
  (readRows c a k s).andThen fun rows s =>
    let sorted := stableSort (fs.testBit 8) (rows.zipIdx.map fun x => (recordKey a (fs % 256) x.1, x))
    let out := sorted.map fun x => x.2.1
    let work := List.replicate a.rows (List.replicate (rowBytes b.fmt b.cols) (0 : Byte))
    (MRes.each (out ++ work).zipIdx (fun x s => writeRow c b k x.2 x.1 s) s).andThen fun _ s =>
      if fs.testBit 9 then MRes.each sorted.zipIdx (fun x s => writeRow c o k x.2 (toBytes 4 x.1.2.2) s) s else .val () s

def runSort (c _q : Nat) (m : Mop) (s : State) : MRes Unit := eachRep m (sortRep c m) s

def execSort (c : ClusterId) (s : State) : Res := ok (mopStart 0x18 0 c 3 runSort s)

/-- The rank of an element in a TOPK: a NaN stands last where NANLAST is 1 (R404). -/
def topRank (fmt code : Nat) (least nanLast : Bool) : Int :=
  if isFloat fmt && (decodeFlt fmt code).isNan && nanLast then (if least then 2 ^ 41 else -(2 ^ 41)) else orderKey fmt code

/-- One row of a TOPK. -/
def topRow (c : Nat) (m : Mop) (k r : Nat) (s : State) : MRes Unit :=
  let a := opdOf m.copy 0
  let fs := mopFspec m.copy
  let least := fs.testBit 16
  (readRow c a k r s).andThen fun bs s =>
    let codes := rowCodes a.fmt a.cols bs
    let top := (stableSort (!least) (codes.zipIdx.map fun x => (topRank a.fmt x.1 least (fs.testBit 17), x))).take (fs % 65536)
    (writeRow c (opdOf m.copy 1) k r (codeBytes a.fmt (top.map fun x => x.2.1)) s).andThen fun _ s =>
      writeRow c (opdOf m.copy 2) k r (codeBytes fINT32 (top.map fun x => x.2.2)) s

def runTopk (c _q : Nat) (m : Mop) (s : State) : MRes Unit :=
  eachRep m (fun k s => MRes.each (List.range (opdOf m.copy 0).rows) (topRow c m k) s) s

def execTopk (c : ClusterId) (s : State) : Res := ok (mopStart 0x19 0 c 3 runTopk s)

/-! FILTER (R405). -/

/-- CMP of a key and a threshold as ranks. -/
def filterHolds (cmp : Nat) (x y : Int) : Bool :=
  match cmp with
  | 0 => x == y
  | 1 => x != y
  | 2 => decide (x < y)
  | 3 => decide (x ≤ y)
  | 4 => decide (y < x)
  | _ => decide (y ≤ x)

/-- A key widened to the threshold's type, as a rank. -/
def filterKey (fmt code : Nat) : Int :=
  if isFloat fmt then orderKey fFP32 (if fmt = fFP32 then code else roundNum fFP32 0 0 (decodeFlt fmt code)) else intOf fmt code

/-- The threshold word as a rank. -/
def thresholdKey (fmt w : Nat) : Int :=
  if isFloat fmt then orderKey fFP32 w else if fmt = fINT32 ∨ fmt = fINT8 then signed 32 w else (w : Int)

/-- One repetition of a FILTER. -/
def filterRep (c : Nat) (m : Mop) (k : Nat) (s : State) : MRes Unit :=
  let a := opdOf m.copy 0
  let o := opdOf m.copy 2
  let fs := mopFspec m.copy
  (readAt c o (o.rowAddr c k 0) 4 s).andThen fun w s =>
    let t := thresholdKey a.fmt (ofBytes w)
    (readRows c a k s).andThen fun rows s =>
      let kept := rows.filter fun bs =>
        filterHolds (fieldOf fs 8 3) (filterKey a.fmt ((rowCodes a.fmt a.cols bs).getD (fs % 256) 0)) t
      (MRes.each kept.zipIdx (fun x s => writeRow c (opdOf m.copy 1) k x.2 x.1 s) s).andThen fun _ s =>
        writeAt c o (o.rowAddr c k 0 + 4) (toBytes 4 kept.length) s

def runFilter (c _q : Nat) (m : Mop) (s : State) : MRes Unit := eachRep m (filterRep c m) s

def execFilter (c : ClusterId) (s : State) : Res := ok (mopStart 0x1A 0 c 3 runFilter s)

/-! COMPRESS (R394, R398). -/

/-- One group of a bitmap row. -/
def bitmapGroup (fmt : Nat) (codes : List Nat) : List Byte :=
  let set := codes.map fun x => !isZeroCode fmt x
  let bits := set.zipIdx.foldl (fun n x => n + b2n x.1 * 2 ^ x.2) 0
  let vals := codeBytes fmt (codes.filter fun x => !isZeroCode fmt x)
  toBytes 8 bits ++ vals ++ List.replicate (ceilDiv vals.length 8 * 8 - vals.length) 0

/-- A dense row in bitmap form. -/
def bitmapRow (fmt : Nat) (codes : List Nat) : List Byte := (piecesOf 64 codes).flatMap (bitmapGroup fmt)

/-- One repetition of a COMPRESS. -/
def compressRep (c : Nat) (m : Mop) (k : Nat) (s : State) : MRes Unit :=
  let a := opdOf m.copy 0
  let o := opdOf m.copy 2
  (MRes.collect (List.range a.rows) (fun r s =>
    (readRow c a k r s).andThen fun bs s =>
      let row := bitmapRow a.fmt (rowCodes a.fmt a.cols bs)
      (writeRow c (opdOf m.copy 1) k r row s).andThen fun _ s => .val row.length s) s).andThen fun lens s =>
    writeRow c o k 0 (toBytes 4 (lens.foldl (· + ·) 0)) s

def runCompress (c _q : Nat) (m : Mop) (s : State) : MRes Unit := eachRep m (compressRep c m) s

def execCompress (c : ClusterId) (s : State) : Res := ok (mopStart 0x1B 0 c 3 runCompress s)

/-! The hash accumulator (R406, R407). -/

/-- The set of a key. -/
def hashSet (k : Nat) : Nat := ((k * 0x9E3779B1) % 2 ^ 32) >>> 19

/-- `combine` of two values of a type (R407). -/
def hashCombine (type op a b : Nat) : Nat :=
  match op with
  | 0 => if type = fFP32 then fp32Add a b else (a + b) % 2 ^ 32
  | 1 => pickCode type true a b
  | _ => pickCode type false a b

/-- `canon(widen(x))`: a value as the accumulator takes it. -/
def hashValue (o : Opd) (bs : List Byte) : List Nat := (rowVec o bs).map (canonCode (hashType o.fmt))

/-- A key and value applied where the key is resident or its set has room; none where they must spill. -/
def HashAcc.apply (h : HashAcc) (type op k v : Nat) : Option HashAcc :=
  let base := 8 * hashSet k
  match (List.range 8).find? fun w => (lookup h.ways (base + w)).map Prod.fst == some k with
  | some w => some { h with ways := place h.ways (base + w) (k, hashCombine type op (((lookup h.ways (base + w)).map Prod.snd).getD 0) v) }
  | none =>
    match (List.range 8).find? fun w => (lookup h.ways (base + w)).isNone with
    | some w => some { h with ways := place h.ways (base + w) (k, v) }
    | none => none

/-- Spill records held, and chunks. -/
def HashAcc.records (h : HashAcc) : Nat := h.chunks.foldl (fun n x => n + (x.last - x.first) + x.kept.toList.length) 0
def HashAcc.held (h : HashAcc) : Nat := (h.chunks.filter fun x => x.buf.isSome).length
def HashAcc.isEmpty (h : HashAcc) : Bool := h.ways.isEmpty && h.records == 0

/-- Settings of a macro-op: OP, POOL and value type; a MERGE takes the type that is latched. -/
def hashOp (m : Mop) : Nat := mopFspec m.copy % 4
def hashPool (m : Mop) : Nat := fieldOf (mopFspec m.copy) 2 4

/-- Replaces the accumulator of a cluster. -/
def setHash (c : Nat) (h : HashAcc) (s : State) : State := s.setClu c { s.clu c with hash := h }

/-- How far a macro-op has come: elements of an ADD; tokens of a ROUTE; of a MERGE the records of repetition `k`, as k × 2^40 and their number. -/
def setDone (c : Nat) (m : Mop) (n : Nat) (s : State) : State :=
  s.setClu c ((s.clu c).mapMop 3 m.seq fun x => { x with done := n })

/-! Spilling (R408). -/

/-- A spill chunk from the pool: one granted, or none where the allocation waits. -/
def spillBuffer (c pool job : Nat) (s : State) : Option Nat × State :=
  let owner := stevedoreId c
  let take := fun (t : State) =>
    match (t.pool pool).granted.find? fun e => e.1 == owner with
    | some e => (some e.2, t.setPool pool { t.pool pool with granted := (t.pool pool).granted.erase e })
    | none => (none, t)
  if (s.pool pool).granted.any (fun e => e.1 == owner) then take s
  else if (s.pool pool).waiting.any (fun w => w.owner == owner) then (none, s)
  else take (poolAlloc pool owner 1 1 job s)

/-- Records that a chunk of a pool holds. -/
def chunkRecords (s : State) (pool : Nat) : Nat := chunkBytes s pool / 8

/-- Writes a record into entry `i` of the spill list, with hint STREAM (R449). -/
def spillWrite (c pool i : Nat) (r : Nat × Nat) (s : State) : MRes Unit :=
  let h := (s.clu c).hash
  match h.chunks[i]? with
  | some ⟨some b, first, last, kept⟩ =>
    let (res, s) := moveWrite c 1 (stagingAddr s pool b + 8 * last) (toBytes 4 r.1 ++ toBytes 4 r.2) s
    (MRes.ofAccess res s).andThen fun _ s =>
      let h := (s.clu c).hash
      .val () (setHash c { h with chunks := h.chunks.set i ⟨some b, first, last + 1, kept⟩ } s)
  | _ => .err 0x0B s

/-- Releases whatever spill chunks are held (R140, R413). -/
def dropSpill (c : Nat) (s : State) : State :=
  let h := (s.clu c).hash
  match h.settings with
  | none => s
  | some (_, k, _) => releaseAll k (stevedoreId c) (h.chunks.filterMap SpillChunk.buf) (setHash c { h with chunks := [], merged := 0 } s)

/-- The latched settings end with an accumulator that holds nothing (R406); a chunk that no record came to is released with them. -/
def endSettings (c : Nat) (s : State) : State :=
  let s := dropSpill c s
  setHash c { (s.clu c).hash with settings := none } s

/-- Appends a record to the first `n` entries of the spill list; answers whether that took a new chunk. -/
def spillAppend (c pool job n : Nat) (r : Nat × Nat) (s : State) : MRes Bool :=
  let h := (s.clu c).hash
  let room := match h.chunks[n - 1]? with
    | some x => n != 0 && x.buf.isSome && decide (x.last < chunkRecords s pool)
    | none => false
  if room then (spillWrite c pool (n - 1) r s).andThen fun _ s => .val false s
  else match spillBuffer c pool job s with
    | (none, s) => .hold s
    | (some b, s) =>
      let h := (s.clu c).hash
      let s := setHash c { h with chunks := h.chunks.take n ++ ⟨some b, 0, 0, none⟩ :: h.chunks.drop n } s
      (spillWrite c pool n r s).andThen fun _ s => .val true s

/-! SCATTERADD SUB 0 (R407, R408). -/

/-- Whether an ADD that must spill finds the list full. -/
def spillFull (c pool : Nat) (s : State) : Bool :=
  let h := (s.clu c).hash
  let room := match h.chunks.getLast? with
    | some x => x.buf.isSome && decide (x.last < chunkRecords s pool)
    | none => false
  pool == 0 || !s.flag F.POOL_CTL_EN pool || (!room && 63 ≤ h.held)

/-- Places of the accumulator are read (R489, class 3): where a word is uncorrectable its entry is invalidated and the macro-op ends. -/
def hashTouch (c : Nat) (at_ : Nat → Bool) (s : State) : MRes Unit :=
  let slot := slotOf s c
  let here := fun (x : Spot) => match x with
    | .hash k i => k == slot && at_ i
    | _ => false
  match s.touch 3 c 0 here with
  | (false, s) => .val () s
  | (true, s) =>
    let lost := s.upsets.filterMap fun u => match u.spot with
      | .hash k i => if k = slot ∧ at_ i then some i else none
      | _ => none
    let h := (s.clu c).hash
    .err 0x05 ((setHash c { h with ways := h.ways.filter fun e => !lost.contains e.1 } s).heal here)

/-- The set of a key is read. -/
def hashMeet (c k : Nat) (s : State) : MRes Unit := hashTouch c (fun i => i / 8 == hashSet k) s

/-- One element of an ADD. -/
def addElement (c : Nat) (m : Mop) (n : Nat) (k v : Nat) (s : State) : MRes Unit :=
  (hashMeet c k s).andThen fun _ s =>
  let h := (s.clu c).hash
  match h.apply (hashType (opdOf m.copy 0).fmt) (hashOp m) k v with
  | some h => .val () (setDone c m (n + 1) (setHash c h s))
  | none =>
    if spillFull c (hashPool m) s then .err 0x0B s
    else (spillAppend c (hashPool m) (cluJob s c) h.chunks.length (k, v) s).andThen fun _ s => .val () (setDone c m (n + 1) s)

/-- Row `i` of an ADD, counted over all repetitions, from the element that has not been applied. -/
def addRow (c : Nat) (m : Mop) (i : Nat) (s : State) : MRes Unit :=
  let a := opdOf m.copy 0
  let o := opdOf m.copy 2
  let k := i / max 1 a.rows
  let r := i % max 1 a.rows
  (readRow c o k r s).andThen fun kb s => (readRow c a k r s).andThen fun ab s =>
    let vs := (hashValue a ab).zipIdx.filter fun x => m.done ≤ i * a.cols + x.2
    MRes.each vs (fun x s => addElement c m (i * a.cols + x.2) ((ofBytes kb * a.cols + x.2) % 2 ^ 32) x.1 s) s

/-- ADD: the settings are latched where the accumulator is empty, and must match where it is not (R406). -/
def runAdd (c _q : Nat) (m : Mop) (s : State) : MRes Unit :=
  let a := opdOf m.copy 0
  let h := (s.clu c).hash
  let want := (hashOp m, hashPool m, hashType a.fmt)
  if h.isEmpty = false ∧ h.settings ≠ some want then .err 0x01 s
  else
    let first := m.done / max 1 a.cols
    let s := if h.isEmpty then endSettings c s else s
    let h := (s.clu c).hash
    MRes.each ((List.range (mopRepeat m.copy * a.rows - first)).map (· + first)) (addRow c m) (setHash c { h with settings := some want } s)

def execScatteraddAdd (c : ClusterId) (s : State) : Res := ok (mopStart 0x1C 0 c 3 runAdd s)

/-! SCATTERADD SUB 1 (R414). -/

/-- Row `r` of an INTO ROWS. -/
def intoRow (c : Nat) (m : Mop) (k r : Nat) (s : State) : MRes Unit :=
  let a := opdOf m.copy 0
  let b := opdOf m.copy 1
  (gatherIndex c m b.rows k r s).andThen fun i s =>
    match i with
    | none => outOfRange c m s
    | some i =>
      (readRow c a k r s).andThen fun ab s => (readRow c b k i s).andThen fun bb s =>
        let old := rowCodes b.fmt b.cols bb
        let new := (hashValue a ab).zipIdx.map fun x => hashCombine b.fmt (hashOp m) (old.getD x.2 0) x.1
        writeRow c b k i (codeBytes b.fmt new) s

def execScatteraddIntoRows (c : ClusterId) (s : State) : Res :=
  ok (mopStart 0x1C 1 c 3 (fun c _ m s =>
    eachRep m (fun k s => MRes.each (List.range (opdOf m.copy 0).rows) (intoRow c m k) s) s) s)

/-! SCATTERADD SUB 2 and 3 (R409 to R412). -/

/-- The status record. -/
def hashStatus (c : Nat) (m : Mop) (k n : Nat) (s : State) : MRes Unit :=
  let h := (s.clu c).hash
  writeRow c (opdOf m.copy 2) k 0 (toBytes 4 n ++ toBytes 4 h.ways.length ++ toBytes 4 h.records ++ toBytes 4 h.held) s

/-- A record that MERGE has read is applied or spills again. -/
def mergeRecord (c : Nat) (m : Mop) (r : Nat × Nat) (s : State) : MRes Unit :=
  (hashMeet c r.1 s).andThen fun _ s =>
  let h := (s.clu c).hash
  let (op, pool, type) := h.settings.getD (hashOp m, hashPool m, fUINT32)
  match h.apply type op r.1 r.2 with
  | some h => .val () (setHash c h s)
  | none =>
    (spillAppend c pool (cluJob s c) h.merged r s).andThen fun opened s =>
      let h := (s.clu c).hash
      .val () (if opened then setHash c { h with merged := h.merged + 1 } s else s)

/-- Replaces entry `merged` of the spill list, the oldest that is left to read. -/
def setOldest (c : Nat) (x : Option SpillChunk) (s : State) : State :=
  let h := (s.clu c).hash
  setHash c { h with chunks := h.chunks.take h.merged ++ x.toList ++ h.chunks.drop (h.merged + 1) } s

/-- A record has been read from the oldest entry: the chunk is released with its last one (R410), which the list keeps until it
has been applied. -/
def takeOldest (c pool b first last : Nat) (r : Option (Nat × Nat)) (s : State) : State :=
  if first + 1 < last then (if r.isSome then s else setOldest c (some ⟨some b, first + 1, last, none⟩) s)
  else setOldest c (r.map fun r => ⟨none, 0, 0, some r⟩) (release pool b (stevedoreId c) s)

/-- MERGE's records in append order (R410, R411); `n` have been read. -/
def mergeFrom (c : Nat) (m : Mop) : Nat → Nat → State → MRes Nat
  | 0, n, s => .val n s
  | fuel + 1, n, s =>
    let h := (s.clu c).hash
    let pool := ((h.settings.map fun x => x.2.1)).getD (hashPool m)
    match h.chunks[h.merged]? with
    | none => .val n s
    | some x =>
      match x.kept, x.buf with
      | some r, _ =>
        (mergeRecord c m r s).andThen fun _ s => mergeFrom c m fuel (n + 1) (setDone c m (n + 1) (setOldest c none s))
      | none, none => mergeFrom c m fuel n (setOldest c none s)
      | none, some b =>
        if x.last ≤ x.first then mergeFrom c m fuel n (setOldest c none (release pool b (stevedoreId c) s))
        else match moveRead c 1 (stagingAddr s pool b + 8 * x.first) 8 s with
          | (.data bs, s) =>
            let r := (ofBytes (bs.take 4), ofBytes (bs.drop 4))
            let s := takeOldest c pool b x.first x.last (some r) s
            if x.first + 1 < x.last then
              (mergeRecord c m r s).andThen fun _ s =>
                mergeFrom c m fuel (n + 1) (setDone c m (n + 1) (setOldest c (some ⟨some b, x.first + 1, x.last, none⟩) s))
            else mergeFrom c m fuel n s
          | (.bad, s) => .err 0x05 (takeOldest c pool b x.first x.last none s)
          | (.refused _, s) => .err 0x02 s
          | (.wait, _) => .wait

/-- A MERGE has ended: the new list and what is left of the old are one list. -/
def mergeEnd (c : Nat) (s : State) : State := setHash c { (s.clu c).hash with merged := 0 } s

/-- One repetition of a MERGE; `n` records have been read before it was held. -/
def mergeRep (c : Nat) (m : Mop) (k n : Nat) (s : State) : MRes Unit :=
  let h := (s.clu c).hash
  if h.isEmpty = false ∧ h.settings.map (fun x => (x.1, x.2.1)) ≠ some (hashOp m, hashPool m) then .err 0x01 s
  else match mergeFrom c m (2 * h.records + 2 * h.chunks.length + 1) (k * 2 ^ 40 + n) (setDone c m (k * 2 ^ 40 + n) s) with
    | .val n s => hashStatus c m k (n % 2 ^ 40) (mergeEnd c s)
    | .err st s => .err st (mergeEnd c s)
    | .hold s => .hold s
    | .wait => .wait

def runMerge (c _q : Nat) (m : Mop) (s : State) : MRes Unit :=
  let k := m.done / 2 ^ 40
  MRes.each (List.range (mopRepeat m.copy - k)) (fun i s => mergeRep c m (k + i) (if i = 0 then m.done % 2 ^ 40 else 0) s) s

def execScatteraddMerge (c : ClusterId) (s : State) : Res := ok (mopStart 0x1C 2 c 3 runMerge s)

/-- One repetition of a DRAIN (R409): the settings are released where nothing is left. -/
def drainRep (c : Nat) (m : Mop) (k : Nat) (s : State) : MRes Unit :=
  let b := opdOf m.copy 1
  let out := (s.clu c).hash.ways.take b.rows
  (MRes.each out.zipIdx (fun x s =>
    (hashTouch c (· == x.1.1) s).andThen fun _ s =>
    (writeRow c b k x.2 (toBytes 4 x.1.2.1 ++ toBytes 4 x.1.2.2) s).andThen fun _ s =>
      let h := (s.clu c).hash
      .val () (setHash c { h with ways := erase h.ways x.1.1 } s)) s).andThen fun _ s =>
    let h := (s.clu c).hash
    hashStatus c m k out.length (if h.isEmpty then endSettings c s else s)

def execScatteraddDrain (c : ClusterId) (s : State) : Res :=
  ok (mopStart 0x1C 3 c 3 (fun c _ m s => eachRep m (drainRep c m) s) s)

end Sys2Proof.Machine
end

