-- ==== Sys2Proof/Machine/Route.lean ====
section
/-! DEFINITION. ROUTE (R333): experts chosen per token, rows sent to them, route records written. -/

namespace Sys2Proof.Machine

/-- The FP32 quotient, rounded to nearest even. -/
def fp32Div (a b : Nat) : Nat :=
  roundNum fFP32 0 0 (match decodeFlt fFP32 a, decodeFlt fFP32 b with
    | .nan, _ | _, .nan => .nan
    | .inf _, .inf _ => .nan
    | .inf n, .fin n' _ _ => .inf (n != n')
    | .fin n _ _, .inf n' => .fin (n != n') 0 0
    | .fin n m e, .fin n' m' e' =>
      if m' = 0 then (if m = 0 then .nan else .inf (n != n'))
      else .fin (n != n') (2 * (m <<< 100 / m') + b2n (m <<< 100 % m' != 0)) (e - e' - 101))

/-- Experts in descending score order: equal scores lower expert first, NaN below every number. -/
def routeOrder (scores : List Nat) : List Nat :=
  (stableSort true (scores.zipIdx.map fun x => (topRank fFP32 x.1 false true, x.2))).map Prod.snd

/-- What a repetition of a ROUTE works with: E, CAP, K, OVF and the block. -/
structure RouteSt where
  e : Nat
  cap : Nat
  k : Nat
  ovf : Nat
  rep : Nat
  deriving DecidableEq, Repr

/-- FILL of an expert in the block. -/
def fillAt (r : RouteSt) (e : Nat) : Nat := 0x40 + 16 * r.e + 4 * e

/-- Writes a route record (R333). -/
def putRecord (c : Nat) (m : Mop) (r : RouteSt) (t i expert slot weight : Nat) (s : State) : MRes Unit :=
  let o := opdOf m.copy 2
  let at_ := recordAt r.e r.k (opdOf m.copy 0).rows r.rep t i
  (putBlockWord c o r.rep at_ (expert + slot % 2 ^ 20 * 4096) s).andThen fun _ s => putBlockWord c o r.rep (at_ + 4) weight s

/-- Row `t` of B goes to slot `slot` of expert `e` as a SEND SUB 0. -/
def routeSend (c q : Nat) (m : Mop) (r : RouteSt) (t e slot : Nat) (s : State) : MRes Unit :=
  let b := opdOf m.copy 1
  let o := opdOf m.copy 2
  (MRes.collect (List.range 4) (fun i s => blockWord c o r.rep (0x40 + 16 * e + 4 * i) s) s).andThen fun ws s =>
    let w0 := ws.getD 0 0
    let addr := (ws.getD 1 0 + ws.getD 2 0 % 65536 * 2 ^ 32 + slot * ws.getD 3 0) % 2 ^ 48
    (readRowUpTo c b r.rep t s).andThen fun x s =>
      let parts := partsUpTo (rowParts c b ⟨b.fmt, b.rows * b.cols, b.cols, 1⟩ r.rep t addr) x.1.length
      endWith x.2 (sendXfer c q m (fieldOf w0 0 20) (fieldOf w0 20 3) (w0.testBit 23) parts x.1 s)

/-- One choice of a token: the FILL counts after it, and its weight where it is kept. -/
def routeChoice (c q : Nat) (m : Mop) (r : RouteSt) (t i : Nat) (order scores fill : List Nat) (s : State) :
    MRes (List Nat × Option (Nat × Nat × Nat)) :=
  let full := fun (e : Nat) => decide (r.cap ≤ fill.getD e 0)
  let first := order.getD i 0
  let sel := order.take r.k
  let moved := full first && r.ovf == 1
  let e := if moved then order.find? fun x => !sel.contains x && !full x else some first
  match e.filter (fun e => !full e) with
  | some e =>
    let slot := fill.getD e 0
    (putBlockWord c (opdOf m.copy 2) r.rep (fillAt r e) (slot + 1) s).andThen fun _ s =>
      (routeSend c q m r t e slot s).andThen fun _ s =>
        let w := scores.getD e 0
        (putRecord c m r t i e slot w (if moved then warn 2 3 1 c s else s)).andThen fun _ s =>
          .val (fill.set e (slot + 1), some (e, slot, w)) s
  | none =>
    if r.ovf = 2 then .err 0x0A s
    else (putRecord c m r t i 0xFFF 0 0 (warn 2 3 1 c s)).andThen fun _ s => .val (fill, none) s

/-- The choices of a token in order. -/
def routeChoices (c q : Nat) (m : Mop) (r : RouteSt) (t : Nat) (order scores : List Nat) :
    List Nat → List Nat → State → MRes (List Nat × List (Nat × Nat × Nat × Nat))
  | [], fill, s => .val (fill, []) s
  | i :: is, fill, s =>
    (routeChoice c q m r t i order scores fill s).andThen fun x s =>
      (routeChoices c q m r t order scores is x.1 s).andThen fun y s =>
        .val (y.1, (x.2.toList.map fun k => (i, k)) ++ y.2) s

/-- Weights under SOFTMAX: exp(w − w_max) over their sum, in FP32 and in the order of the choices. -/
def softmax (ws : List Nat) : List Nat :=
  let top := (ws.drop 1).foldl (pickCode fFP32 true) (canonCode fFP32 (ws.headD 0))
  let es := ws.map fun w => vecFun 11 (roundNum fFP32 0 0 ((decodeFlt fFP32 w).add (decodeFlt fFP32 top).neg))
  let sum := (es.drop 1).foldl fp32Add (es.headD 0)
  es.map fun e => fp32Div e sum

/-- One token of a ROUTE. -/
def routeToken (c q : Nat) (m : Mop) (r : RouteSt) (t : Nat) (fill : List Nat) (s : State) : MRes (List Nat) :=
  let a := opdOf m.copy 0
  (readRow c a r.rep t s).andThen fun bs s =>
    let scores := rowFp32 a bs
    (routeChoices c q m r t (routeOrder scores) scores (List.range r.k) fill s).andThen fun x s =>
      if (mopFspec m.copy).testBit 6 then
        let ws := softmax (x.2.map fun y => y.2.2.2)
        (MRes.each (x.2.zip ws) (fun y s => putRecord c m r t y.1.1 y.1.2.1 y.1.2.2.1 y.2 s) s).andThen fun _ s => .val x.1 s
      else .val x.1 s

/-- Tokens of a repetition in row order. One whose sends the stevedore has no room for holds the macro-op (R274). -/
def routeTokens (c q : Nat) (m : Mop) (r : RouteSt) : List Nat → List Nat → State → MRes Unit
  | [], _, s => .val () s
  | t :: ts, fill, s =>
    if 64 < (s.clu c).outstanding + r.k then .hold s
    else (routeToken c q m r t fill s).andThen fun fill s =>
      routeTokens c q m r ts fill (setDone c m (r.rep * (opdOf m.copy 0).rows + t + 1) s)

/-- ROUTE: E must equal A.COLS and be at least K. -/
def runRoute (c q : Nat) (m : Mop) (s : State) : MRes Unit :=
  let a := opdOf m.copy 0
  let o := opdOf m.copy 2
  let fs := mopFspec m.copy
  let first := m.done / max 1 a.rows
  MRes.each ((List.range (mopRepeat m.copy - first)).map (· + first)) (fun k s =>
    (blockHead c o k s).andThen fun (e, cap) s =>
      let r : RouteSt := ⟨e, cap, fs % 16, fieldOf fs 4 2, k⟩
      if e ≠ a.cols ∨ e < r.k then .err 0x01 s
      else
        (MRes.collect (List.range e) (fun i s => blockWord c o k (fillAt r i) s) s).andThen fun fill s =>
          routeTokens c q m r ((List.range a.rows).filter fun t => m.done ≤ k * a.rows + t) fill s) s

def execRoute (c : ClusterId) (s : State) : Res := ok (mopStart 0x1D 0 c 3 runRoute s)

/-! What was held goes on. -/

/-- A macro-op of SORTHASH held for a spill chunk or for the stevedore goes on (R274, R408, R411). -/
def resumeHeld (c : Nat) (s : State) : State :=
  let k := s.clu c
  let st := cluState s c
  match (k.queues.getD 3 IssueQ.empty).mops.find? fun m => m.blocked with
  | none => s
  | some m =>
    if (st ≠ stRunning ∧ st ≠ stHalted ∧ st ≠ stClearing) ∨ failing s c then s
    else
      let run := if mopFamily m.copy = 0x1D then runRoute else if mopSub m.copy = 2 then runMerge else runAdd
      mopOutcome c 3 m.seq k (run c 3 m s) s

/-- A granted allocation reaches who waits for it (R134). -/
def grantDone (s : State) : State :=
  let s := claimAll s
  s.clus.foldl (fun t e => resumeHeld e.1 t) s

def execAllocGrant (k : PoolId) (s : State) : Res := ok (grantDone (poolGrant k s))

end Sys2Proof.Machine
end

