-- ==== Sys2Proof/Machine/FlagOps.lean ====
section
/-! DEFINITION. The flag and cue families (R335, R336): WAITF, SETF and CUE in a queue. -/

namespace Sys2Proof.Machine

/-- A started macro-op waits from now on, for one of its repetitions. -/
def mopWaitsAt (c q done : Nat) (m : Mop) (s : State) : State :=
  s.setClu c { (s.clu c).mapMop q m.seq (fun x => { x with phase := .waiting s.fabTime, done := done }) with busyAt := s.ticks }

def mopWaits (c q : Nat) (m : Mop) (s : State) : State := mopWaitsAt c q 0 m s

/-- WAITF holds its queue until the flag reads set; a flag that is set already ends it at once. -/
def runWaitf (c q : Nat) (m : Mop) (s : State) : MRes Unit := .val () (settleWaits c (mopWaits c q m s))

def execMopWaitf (c : ClusterId) (q : Fin 4) (s : State) : Res := ok (mopStart 0x20 0 c q runWaitf s)

/-- A SETF acts once per repetition. -/
def setfEach (f : Mop → State → State) (m : Mop) (s : State) : MRes Unit := eachRep m (fun _ s => .val () (f m s)) s

/-- The flag or line of a SETF. -/
def setfFlag (m : Mop) : Nat := mopFspec m.copy % 256

def execSetfSet (c : ClusterId) (q : Fin 4) (s : State) : Res :=
  ok (mopStart 0x21 0 c q (fun c _ => setfEach fun m => setFlag c (setfFlag m)) s)

def execSetfClear (c : ClusterId) (q : Fin 4) (s : State) : Res :=
  ok (mopStart 0x21 1 c q (fun c _ => setfEach fun m => clearFlag c (setfFlag m)) s)

/-- SETF REMOTE: a stevedore write of 1 to the flag's word, checked at the target. -/
def runSetfRemote (c _q : Nat) (m : Mop) (s : State) : MRes Unit :=
  let a := pageAddr (fieldOf (mopFspec m.copy) 16 7) (4 * setfFlag m)
  eachRep m (fun _ s =>
    let (r, s) := moveWrite c 0 a (toBytes 4 1) s
    (MRes.ofAccess r s).andThen fun _ s => .val () s) s

def execSetfRemote (c : ClusterId) (q : Fin 4) (s : State) : Res := ok (mopStart 0x21 2 c q runSetfRemote s)

def execSetfCarr (c : ClusterId) (q : Fin 4) (s : State) : Res :=
  ok (mopStart 0x21 3 c q (fun c _ => setfEach fun m => curtArrive (setfFlag m % 32) c) s)

/-- CUE START takes a start kept pending at once, or waits for one in each repetition. -/
def runCueStart (c q : Nat) (m : Mop) (s : State) : MRes Unit :=
  let k := s.clu c
  let iq := k.queues.getD q IssueQ.empty
  if iq.startPending then
    let s := s.setClu c { k with queues := k.queues.set q { iq with startPending := false } }
    if mopRepeat m.copy ≤ 1 then .val () s
    else .val () (mopWaitsAt c q 1 m s)
  else .val () (mopWaits c q m s)

def execCueStart (c : ClusterId) (q : Fin 4) (s : State) : Res := ok (mopStart 0x22 0 c q runCueStart s)

/-- CUE TIME holds its queue until fabric time reaches the time in words 4 and 5. -/
def execCueTime (c : ClusterId) (q : Fin 4) (s : State) : Res := ok (mopStart 0x22 1 c q runWaitf s)

end Sys2Proof.Machine
end

