-- ==== Sys2Proof/Machine/PoolOps.lean ====
section
/-! DEFINITION. The commands that act on pools one at a time (R130, R131, R137, R151), the leak audit (R148, R149), the sample
FIFO's pop (R168), and the AON tick (R173). -/

namespace Sys2Proof.Machine

/-! Pool-manager commands (R137). -/

/-- ALLOC by an owner, with its stated count of sharers. -/
def execAlloc (k : PoolId) (owner : MasterId) (n : BitVec 16) (sharers : BitVec 10) (job : Byte) (s : State) : Res :=
  if n = 0 then ok s else ok (poolAlloc k owner.toNat n.toNat (max 1 sharers.toNat) job.toNat s)

def execAddref (k : PoolId) (buf : BitVec 24) (n : BitVec 10) (by_ : MasterId) (s : State) : Res :=
  ok (addRef k buf.toNat n.toNat by_.toNat s).2

def execPass (k : PoolId) (buf : BitVec 24) (dest by_ : MasterId) (s : State) : Res :=
  ok (passBuffer k buf.toNat dest.toNat by_.toNat s)

def execRelease (k : PoolId) (buf : BitVec 24) (by_ : MasterId) (s : State) : Res := ok (release k buf.toNat by_.toNat s)

/-! Enabling (R130, R131). -/

def execPoolEnable (m : MasterId) (k : PoolId) (s : State) : Res := ok (poolEnable k m.toNat s).2

def execPoolInitDone (k : PoolId) (s : State) : Res := ok (poolInitDone k s)

def execPoolDisable (m : MasterId) (k : PoolId) (s : State) : Res := ok (poolDisable k m.toNat s).2

def execPoolStatusClr (k : PoolId) (s : State) : Res := ok (poolStatusClear k s)

/-! The leak audit. -/

/-- Cells of pool 0 that some holder of R148 references. -/
def cellsHeld (s : State) : List Nat :=
  s.net.pkts.flatMap (fun e => e.2.cells) ++
    s.net.injq.flatMap (fun e => e.2.flatMap fun k => k.cells.getD []) ++ ((s.pool 0).granted.map Prod.snd)

/-- Chunks of staging pool `k` that some holder references: granted ones, those of data chunks in flight, and spill chunks. -/
def chunksHeld (s : State) (k : Nat) : List Nat :=
  (s.pool k).granted.map Prod.snd ++
    s.colls.flatMap (fun e => if e.2.hdr.pool = k then e.2.inflight.filterMap Flight.buf else []) ++
    s.clus.flatMap fun e =>
      if e.2.hash.settings.map (fun x => x.2.1) = some k then e.2.hash.chunks.filterMap SpillChunk.buf else []

/-- The timer of the audit. -/
def auditTimer : Nat := 11

/-- The end of a sweep: the comparison of R149. -/
def auditEnd (s : State) : State :=
  if s.flag F.BUF_AUDIT_STATUS_SWEEP = false then s
  else iterate 17 (fun k s => auditCompare s k) (s.set F.BUF_AUDIT_STATUS_SWEEP 0)

/-- PERIOD ms after the last one a sweep starts; one in progress ends first. -/
def auditStart (s : State) : State :=
  let ms := max 1 (s.get F.BUF_AUDIT_PERIOD)
  if s.flag F.BUF_AUDIT_EN = false ∨ s.passedUs ((lookup s.timers auditTimer).getD 0) (1000 * ms) = false then s
  else
    let s := auditEnd s
    let s := { s.set F.BUF_AUDIT_STATUS_SWEEP 1 with timers := place s.timers auditTimer s.ticks }
    iterate 17 (fun k s =>
      if poolState s k < 2 then s else auditPool k (if k = 0 then cellsHeld s else chunksHeld s k) s) s

def execAuditSweepStart (s : State) : Res := ok (auditStart s)

def execAuditSweepEnd (s : State) : Res := ok (auditEnd s)

/-! Reads and ticks. -/

/-- A read of TEL_SFIFO_LO (R168). -/
def execSfifoPop (m : MasterId) (s : State) : Res :=
  let (v, s) := sfifoPop s
  ok (s.emit (.readData m.toNat (toBytes 4 v)))

/-- What one unit has set off in another takes effect. -/
def carryPost (s : State) : Post → State
  | .put mid off bs => regPut mid off bs s
  | .fail c => failCluster failPrivate false c s
  | .trap c addr => trap trapAccess addr c s

def carryPosts (s : State) : State := s.posts.foldl carryPost { s with posts := [] }

/-- An AON tick (R173): waits whose fabric time is reached end, and what is on its way to another unit arrives. `upsets` are the words of
protected storage whose bits have changed meanwhile. -/
def execAonTick (upsets : List Upset) (s : State) : Res :=
  let s := aonTick { s with upsets := s.upsets ++ upsets }
  let s := carryPosts (s.clus.foldl (fun t e => fetchTouch e.1 t) s)
  ok (s.clus.foldl (fun t e => recover e.1 (resumeHeld e.1 (settleWaits e.1 t))) s)

end Sys2Proof.Machine
end

