-- ==== Sys2Proof/Machine/HostOps.lean ====
section
/-! DEFINITION. Descriptors that the host interface itself carries out (R477 to R484, R520, R553, R554), configuration batches,
and the boundaries at which armed commits apply (R16). -/

namespace Sys2Proof.Machine

/-- Runs a descriptor of kind `k` that may start, or goes on with one that has started. -/
def runDesc (k : Nat) (c : CmdRef) (run : Desc → State → State) (s : State) : State :=
  match s.desc c with
  | some d => if d.started ∧ d.word 0 % 256 = k then run d s else startDesc k c run s
  | none => s

def execNop (r : RingId) (i : BitVec 8) (s : State) : Res :=
  let cmd := nthDesc s r i
  ok (startDesc 0x00 cmd (fun _ => complete cmd csOk 0 0 []) s)

/-- A descriptor of a reserved KIND (R477). -/
def execReservedDescriptorKind (r : RingId) (i : BitVec 8) (s : State) : Res :=
  let cmd := nthDesc s r i
  match s.desc cmd with
  | none => ok s
  | some d =>
    if (kindMasks (d.word 0 % 256)).isSome ∨ mayStartDesc s cmd d = false then ok s
    else ok (complete cmd csBadDesc 0 0 [] s)

/-! Configuration batches (R484). -/

/-- `Desc.tally` while the batch waits for the commit of what it has staged (R110). -/
def batchCommits : Nat := 1025

/-- How one record of a batch ends. -/
inductive BatchRes where
  | next (s : State)
  | ends (status detail : Nat) (s : State)
  | holds
  deriving DecidableEq, Repr

/-- BAR0 as device addresses. -/
def regBase : Nat := 0x7F0000000000

/-- A word of a register read or written as master 0x000. -/
def batchRead (off : Nat) (s : State) : AccRes × State := readParts regBytes 0 0 [(regBase + off, 4)] s
def batchWrite (off v : Nat) (s : State) : AccRes × State := writeParts regPut 0 0 [(regBase + off, 4)] (toBytes 4 v) s

/-- An access of a batch: its data goes on, a refusal ends the batch. -/
def batchThen (r : AccRes × State) (f : Nat → State → BatchRes) : BatchRes :=
  match r with
  | (.data bs, s) => f (ofBytes bs) s
  | (.refused c, s) => .ends csAccess c s
  | (.bad, s) => .ends csError 0 s
  | (.wait, _) => .holds

/-- (old and not MASK) or (VALUE and MASK) (R484). -/
def maskedBits (old v mask : Nat) : Nat := (old % 2 ^ 32 &&& (2 ^ 32 - 1 - mask)) ||| (v &&& mask)

/-- Record `i` of a batch. -/
def batchRecord (i : Nat) (ws : List Word) (s : State) : BatchRes :=
  let w := fun j => (ws.getD (4 * i + j) 0).toNat
  let op := w 0 % 16
  let off := w 1 % 2 ^ 26
  if op = 4 then .next (stageWord 0 (w 1 / 2 ^ 30) (w 1 % 2 ^ 20) (w 2) s)
  else if op = 0 ∨ 4 < op ∨ off % 4 ≠ 0 then .ends csBadDesc i s
  else match op with
    | 1 => batchThen (batchWrite off (w 2) s) fun _ s => .next s
    | 2 => batchThen (batchRead off s) fun old s => batchThen (batchWrite off (maskedBits old (w 2) (w 3)) s) fun _ s => .next s
    | _ => batchThen (batchRead off s) fun v s => if v &&& w 3 = w 2 &&& w 3 then .next s else .holds

/-- Changes an outstanding descriptor. -/
def mapDesc (c : CmdRef) (f : Desc → Desc) (s : State) : State :=
  match s.desc c with
  | some d => setDesc c (f d) s
  | none => s

/-- Arms the staging list's commit, which the batch then waits for. -/
def batchArm (c : CmdRef) (s : State) : State :=
  armCommit .fwd 0 (s.ctag .fwd) (mapDesc c (fun d => { d with tally := batchCommits }) s)

/-- A batch goes on (R484): records in order; staged words are committed after every 1,024 and at its end (R110). DESIGN
CHOICE (log entry 124): the 1,024 are the batch's own records, and a batch that a failing record ends leaves its words staged. -/
def batchFrom (c : CmdRef) (n : Nat) : Nat → State → State
  | 0, s => s
  | fuel + 1, s =>
    match s.desc c with
    | none => s
    | some d =>
      if d.tally = batchCommits ∧ s.armed .fwd then s
      else
        let d := if d.tally = batchCommits then { d with tally := 0 } else d
        if d.progress = n then
          if d.tally = 0 then complete c csOk 0 0 [d.progress] s else batchArm c (setDesc c d s)
        else if d.data.length < 4 * (d.progress + 1) then complete c csHostErr 0 0 [d.progress] s
        else match batchRecord d.progress d.data s with
          | .holds => setDesc c d s
          | .ends status detail s => complete c status 0 detail [d.progress] s
          | .next s =>
            let staged := (d.data.getD (4 * d.progress) 0).toNat % 16 = 4
            let tally := d.tally + if staged then 1 else 0
            let s := setDesc c { d with progress := d.progress + 1, tally := tally, since := s.ticks } s
            batchFrom c n fuel (if tally = 1024 then batchArm c s else s)

/-- Records of a batch. -/
def batchSize (d : Desc) : Nat := d.word 4

/-- A batch that has started goes on. -/
def batchOn (c : CmdRef) (s : State) : State :=
  match s.desc c with
  | some d => if d.started ∧ d.word 0 % 256 = 0x04 then batchFrom c (batchSize d) (batchSize d + 1) s else s
  | none => s

/-- CFG_BATCH; `records` are the words that its host address holds, fewer than four to a record where the host read fails. -/
def execCfgBatch (r : RingId) (i : BitVec 8) (records : List Word) (s : State) : Res :=
  let cmd := nthDesc s r i
  ok (startDesc 0x04 cmd (fun d s =>
    if batchSize d = 0 ∨ 65536 < batchSize d then complete cmd csBadDesc 0 4 [] s
    else batchOn cmd (mapDesc cmd (fun d => { d with data := records }) s)) s)

/-- A POLL record is tried again (R484). -/
def execPoll (r : RingId) (i : BitVec 8) (s : State) : Res := ok (batchOn (nthDesc s r i) s)

/-- TMO µs after a batch has reached a POLL record that does not match (R484). -/
def execPollTimeout (r : RingId) (i : BitVec 8) (s : State) : Res :=
  let cmd := nthDesc s r i
  match (batchOn cmd s).desc cmd with
  | none => ok (batchOn cmd s)
  | some d =>
    let s := batchOn cmd s
    let w0 := (d.data.getD (4 * d.progress) 0).toNat
    if d.started ∧ d.word 0 % 256 = 0x04 ∧ d.tally ≠ batchCommits ∧ d.progress < batchSize d ∧ w0 % 16 = 3 ∧
        s.passedUs d.since (max 1 (w0 / 65536)) then
      ok (complete cmd csTimeout 0 d.progress [d.progress] s)
    else ok s

/-! COPY (R480). -/

/-- CRC-32C of bytes that follow others of a given CRC-32C. -/
def crcMore (crc : Nat) (bs : List Byte) : Nat := (bs.foldl crc32Byte (crc ^^^ 0xFFFFFFFF)) ^^^ 0xFFFFFFFF

/-- The bytes of a segment have been moved. -/
def copyMoved (c : CmdRef) (bs : List Byte) (s : State) : State :=
  mapDesc c (fun d => { d with progress := d.progress + bs.length, tally := crcMore d.tally bs }) s

/-- RESULT of a descriptor that moves bytes. -/
def movedResult (c : CmdRef) (s : State) : List Nat :=
  match s.desc c with
  | some d => [d.progress, d.tally]
  | none => []

/-- The segments that are left of a COPY; `host` are the bytes at the host address, `limit` how many the host lets pass. -/
def copyParts (c : CmdRef) (toHost : Bool) (hint hostAddr limit : Nat) (host : List Byte) : List (Nat × Nat) → State → State
  | [], s => complete c csOk 0 0 (movedResult c s) s
  | (a, n) :: rest, s =>
    let done := ((s.desc c).map Desc.progress).getD 0
    if limit < done + n then complete c csHostErr 0 0 (movedResult c s) s
    else
      let bs := (host.drop done).take n
      match (if toHost then readParts regBytes 0 hint [(a, n)] s else writeParts regPut 0 hint [(a, n)] bs s) with
      | (.data out, t) =>
        let t := copyMoved c (if toHost then out else bs) (if toHost then t.emit (.hostWrite (hostAddr + done) out) else t)
        copyParts c toHost hint hostAddr limit host rest t
      | (.refused cause, t) => complete c csAccess 0 cause (movedResult c t) t
      | (.bad, t) => complete c csError 0 0 (movedResult c t) t
      | (.wait, _) => s

/-- COPY runs, or goes on where a segment had to wait. -/
def copyRun (c : CmdRef) (host : List Byte) (fails : Option Nat) (d : Desc) (s : State) : State :=
  let toHost := (d.word 1).testBit 0
  let hint := fieldOf (d.word 1) 1 2
  let a := d.pair 4 + d.progress
  let len := d.word 6 - d.progress
  let limit := min (if toHost then d.word 6 else host.length) (fails.getD (d.word 6))
  copyParts c toHost hint (d.pair 2) limit host (accParts s a len true) s

/-- COPY; `host` are the bytes of host memory that DIR 0 reads, and a host access beyond `fails` bytes fails. -/
def execCopy (r : RingId) (i : BitVec 8) (host : List Byte) (fails : Option Word) (s : State) : Res :=
  let cmd := nthDesc s r i
  ok (runDesc 0x07 cmd (copyRun cmd host (fails.map BitVec.toNat)) s)

/-! FENCE and UNFENCE (R481). -/

/-- The bits of word `w` that lie in `[first, last]`. -/
def rangeBits (first last w : Nat) : Nat :=
  let lo := max first (32 * w)
  let hi := min last (32 * w + 31)
  if hi < lo then 0 else (2 ^ (hi - lo + 1) - 1) <<< (lo - 32 * w)

/-- Fence bits of ports or endpoints set or cleared. -/
def fenceBits (endpoints set_ : Bool) (first last : Nat) (s : State) : State :=
  iterate (last / 32 - first / 32 + 1) (fun i s =>
    let w := first / 32 + i
    let m := rangeBits first last w
    let f := fun (old : Nat) => if set_ then old ||| m else maskedBits old 0 m
    if endpoints then { s with net.epFence := put s.net.epFence w (BitVec.ofNat 32 (f ((lookup s.net.epFence w).getD 0).toNat)) 0 }
    else s.set F.FWD_PFENCEH_HOST (f (s.get F.FWD_PFENCEH_HOST 0 w)) 0 w) s

/-- Whether no packet is queued or being sent for a port of the range. -/
def portsDrained (first last : Nat) (s : State) : Bool :=
  (List.range (last - first + 1)).all fun i =>
    let p := first + i
    (s.link p).tx.isNone && (List.range 9).all fun c => ((lookup s.net.egress (qid p c)).getD []).isEmpty

/-- A FENCE or UNFENCE: the bits change when it starts; with WAITDRAIN it completes once the ports have drained. -/
def fenceRun (set_ : Bool) (c : CmdRef) (d : Desc) (s : State) : State :=
  let endpoints := (d.word 1).testBit 0
  let wait := (d.word 1).testBit 1
  let first := d.word 2
  let last := d.word 3
  let most := if endpoints then 0xFFFFF else 511
  if most < first ∨ last < first then complete c csBadDesc 0 2 [] s
  else if most < last then complete c csBadDesc 0 3 [] s
  else
    let s := if d.progress = 0 then mapDesc c (fun d => { d with progress := 1 }) (fenceBits endpoints set_ first last s) else s
    if wait && !endpoints && !portsDrained first last s then s else complete c csOk 0 0 [] s

def execFence (r : RingId) (i : BitVec 8) (s : State) : Res :=
  let cmd := nthDesc s r i
  ok (runDesc 0x08 cmd (fenceRun true cmd) s)

def execUnfence (r : RingId) (i : BitVec 8) (s : State) : Res :=
  let cmd := nthDesc s r i
  ok (startDesc 0x09 cmd (fenceRun false cmd) s)

/-! TELEMETRY_READ (R482). -/

/-- What is left of a TELEMETRY_READ: `n` registers, or sample records; a host write beyond the first `limit` fails. -/
def telemetryFrom (c : CmdRef) (samples : Bool) (off hostAddr limit : Nat) : Nat → State → State
  | 0, s => complete c csOk 0 0 (((s.desc c).map Desc.progress).toList) s
  | n + 1, s =>
    let i := ((s.desc c).map Desc.progress).getD 0
    let a := if samples then R.TEL_SFIFO_LO.addr 0 0 else off + 4 * i
    let width := if samples then 8 else 4
    match readParts regBytes 0 0 [(regBase + a, width)] s with
    | (.data bs, s) =>
      if samples && !(ofBytes bs).testBit 63 then complete c csOk 0 0 [i] s
      else if limit ≤ i then complete c csHostErr 0 0 [i] s
      else
        telemetryFrom c samples off hostAddr limit n
          (mapDesc c (fun d => { d with progress := i + 1 }) (s.emit (.hostWrite (hostAddr + width * i) bs)))
    | (.refused cause, s) => complete c csAccess 0 cause [i] s
    | (.bad, s) => complete c csError 0 0 [i] s
    | (.wait, s) => s

/-- TELEMETRY_READ; a host write beyond the first `fails` words or records fails. -/
def execTelemetryRead (r : RingId) (i : BitVec 8) (fails : Option (BitVec 17)) (s : State) : Res :=
  let cmd := nthDesc s r i
  ok (startDesc 0x0A cmd (fun d s =>
    let samples := (d.word 1).testBit 0
    let n := d.word 3
    if samples = false ∧ d.word 2 % 4 ≠ 0 then complete cmd csBadDesc 0 2 [] s
    else if n = 0 ∨ 65536 < n then complete cmd csBadDesc 0 3 [] s
    else telemetryFrom cmd samples (d.word 2) (d.pair 4) ((fails.map BitVec.toNat).getD n) n s) s)

/-! CAL_READ and CAL_WRITE (R553, R554). -/

/-- A range outside the calibration set. -/
def calRangeBad (d : Desc) : Bool := decide (calSize < d.word 2 + d.word 3)

/-- CAL_READ; it waits while a CAL_WRITE holds the flash. `flash` says that the flash could not be read, `host` that host memory
could not be written. -/
def execCalRead (r : RingId) (i : BitVec 8) (flash host : Bool) (s : State) : Res :=
  let cmd := nthDesc s r i
  ok (runDesc 0x0B cmd (fun d s =>
    if calRangeBad d then complete cmd csBadDesc 0 3 [] s
    else if s.sec.calBusy.isSome then s
    else if flash then complete cmd csError 0 0 [] s
    else if host then complete cmd csHostErr 0 0 [] s
    else
      let bs := flashRead s (calBase + d.word 2) (d.word 3)
      complete cmd csOk 0 0 [bs.length, crc32c bs] (s.emit (.hostWrite (d.pair 4) bs))) s)

/-- First sector of a write, and number of sectors. -/
def calSectors (d : Desc) : Nat × Nat :=
  if d.word 3 = 0 then (d.word 2 / 4096, 0)
  else (d.word 2 / 4096, (d.word 2 + d.word 3 - 1) / 4096 - d.word 2 / 4096 + 1)

/-- A CAL_WRITE begins: the sectors it touches are erased, and what they will hold is kept with the descriptor. -/
def calBegin (c : CmdRef) (host : List Byte) (d : Desc) (s : State) : State :=
  let (first, n) := calSectors d
  let base := calBase + 4096 * first
  let old := flashRead s base (4096 * n)
  let at_ := d.word 2 - 4096 * first
  let new := old.take at_ ++ host.take (d.word 3) ++ old.drop (at_ + d.word 3)
  let (k, s) := s.fresh
  let s := flashWrite base ((List.range (4096 * n)).map (Config.flashByte k)) s
  mapDesc c (fun d => { d with progress := 1, data := wordsOf new }) { s with sec.calBusy := some c }

/-- A CAL_WRITE ends: `good` is the result of the read-back. -/
def calEnd (c : CmdRef) (good : Bool) (d : Desc) (s : State) : State :=
  let (first, n) := calSectors d
  let s := { s with sec.calBusy := none }
  if good then
    let s := flashWrite (calBase + 4096 * first) (bytesOfWords d.data) s
    complete c csOk 0 0 [d.word 3, n] (s.bump F.CAL_CNT_WRITE_COUNT)
  else complete c csRefused 2 0 [] s

/-- CAL_WRITE begins, and ends when it is commanded once more; `host` are the bytes at the host address, too few where the host
read fails. -/
def execCalWrite (r : RingId) (i : BitVec 8) (host : List Byte) (good : Bool) (s : State) : Res :=
  let cmd := nthDesc s r i
  ok (runDesc 0x0C cmd (fun d s =>
    if d.progress = 1 then calEnd cmd good d s
    else if d.word 1 / 65536 ≠ 0xCA1B then complete cmd csBadDesc 0 1 [] s
    else if calRangeBad d then complete cmd csBadDesc 0 3 [] s
    else if s.sec.calBusy.isSome || s.flag F.SEC_UPD_STATUS_BUSY then complete cmd csRefused 1 0 [] s
    else if host.length < d.word 3 then complete cmd csHostErr 0 0 [] s
    else calBegin cmd host d s) s)

/-! ATTEST (R519, R520). -/

/-- ATTEST; `q` is what the request's bytes spell, and `fails` says that host memory could not be reached. -/
def execAttest (r : RingId) (i : BitVec 8) (q : SpdmReq) (fails : Bool) (s : State) : Res :=
  let cmd := nthDesc s r i
  ok (startDesc 0x0D cmd (fun d s =>
    let len := d.word 4
    if len = 0 ∨ 4096 < len then complete cmd csRefused 2 0 [] s
    else if fails then complete cmd csHostErr 0 0 [] s
    else
      let (resp, stage, t) := spdmRespond s.hif.attest.stage q s
      let bs := Config.spdmBytes resp
      if d.word 7 < bs.length then complete cmd csRefused 1 bs.length [] s
      else complete cmd csOk 0 0 [bs.length] (({ t with hif.attest.stage := stage }).emit (.hostWrite (d.pair 5) bs))) s)

/-! REMAP (R483). -/

def execRemap (r : RingId) (i : BitVec 8) (s : State) : Res :=
  let cmd := nthDesc s r i
  ok (startDesc 0x0E cmd (fun d s =>
    let b := d.pair 2
    if b % 4096 ≠ 0 ∨ 2 ^ 48 < b + 2 ^ 33 then complete cmd csBadDesc 0 2 [] s
    else complete cmd csOk 0 0 [] ((s.set F.HIF_WIN_LO_BASE (b / 4096)).set F.HIF_WIN_HI_BASE (b / 2 ^ 32))) s)

/-! Commit boundaries (R16). -/

/-- The allocation boundary of an armed pool commit (R143). -/
def poolApply (k : PoolId) (s : State) : State :=
  if thresholdsOk s k then poolSettle k (commitApplied (.pool k) s) else commitRefused (.pool k) s

/-- The batches that wait for a commit of the staging list go on. -/
def batchesOn (s : State) : State :=
  s.hif.rings.foldl (fun t e =>
    (e.2.out.filter fun d => d.started && d.tally == batchCommits).foldl (fun u d => batchOn ⟨e.1, d.id⟩ u) t) s

/-- The boundary of a group whose commit is armed. -/
def applyGroup (g : CommitGroup) (s : State) : State :=
  match g with
  | .acc t => accApply t s
  | .fmc => commitApplied .fmc s
  | .layout b => layoutApply b s
  | .fwd => batchesOn (fwdApply s)
  | .pool k => poolApply k s
  | .sched p => schedApply p s
  | .gate p => gateTakeover p s
  | .time => timeApply s
  | .cue e => cueApply e s
  | .curt l => curtApply l s
  | .arr c => arrApply c s
  | .stk n => stkApply n s
  | .clk => commitApplied .clk s

def execCommitApply (g : CommitGroup) (s : State) : Res := if s.armed g then ok (applyGroup g s) else ok s

end Sys2Proof.Machine
end

