-- ==== Sys2Proof/Machine/Switch.lean ====
section
/-! DEFINITION. Switch-in of an understudy for a failed cluster (R498 to R503) and the lane drift monitor (R505). -/

namespace Sys2Proof.Machine

/-- Moves `n` bytes of device memory from one key to another; the place they came from then reads 0. -/
def memMove (src dst n : Nat) (s : State) : State :=
  let inside := fun (a x : Nat) => a ≤ x && x < a + n
  let moved := s.mem.filter fun e => inside src e.1
  let rest := s.mem.filter fun e => !inside src e.1 && !inside dst e.1
  { s with mem := moved.foldl (fun m e => put m (e.1 - src + dst) e.2 0) rest }

/-! Steps 2 and 3. -/

/-- Every issued stevedore write of a cluster has been acknowledged: packets that carry data to an endpoint. -/
def writesAcked (k : Clu) : Bool := k.xfers.all fun x => x.kind == 1 || x.reqs.isEmpty

/-- The understudy's domain is up, 2 µs after the fence at the earliest, and writes are acknowledged (R498 step 2). -/
def powerUpDone (c : Nat) (s : State) : State :=
  match (s.clu c).switch with
  | none => s
  | some w =>
    if w.step ≠ 0 ∨ s.passedUs w.since 2 = false ∨ writesAcked (s.clu c) = false then s
    else (s.set F.PWR_DOM_STATE 3 0 (5 * dieOf c + w.newSlot)).setClu c { s.clu c with switch := some { w with step := 1 } }

def execSwitchinPowerUpDone (c : ClusterId) (s : State) : Res := ok (powerUpDone c s)

/-- The spill chunks of a lost accumulator are released under the cluster's own code, with what was asked of its pool (R413). -/
def releaseHash (c : Nat) (s : State) : State :=
  let h := (s.clu c).hash
  let s := dropSpill c s
  let s := s.setClu c { s.clu c with hash := HashAcc.empty }
  match h.settings with
  | none => s
  | some (_, k, _) =>
    let owner := stevedoreId c
    let p := s.pool k
    let s := s.setPool k { p with waiting := p.waiting.filter fun w => w.owner != owner }
    releaseAll k owner ((p.granted.filter fun g => g.1 == owner).map Prod.snd) s

/-- The logical number moves to the understudy's slot (R499): memories, power, CLU_STATUS, and the understudy's bypass mask,
which nothing has set since reset (R366, R367). -/
def moveSlot (c : Nat) (w : SwitchSt) (s : State) : State :=
  let old := 5 * dieOf c + w.oldSlot
  let new := 5 * dieOf c + w.newSlot
  let s := memMove (privateKey old) (privateKey new) 0x100000 (memMove (scratchKey old) (scratchKey new) 0x800000 s)
  let s := (s.set F.CLU_STATUS_SLOT w.newSlot c).set F.CLU_STATUS_UNDERSTUDY 1 c
  let s := (s.zero R.ARR_BYPASS0 c).zero R.ARR_BYPASS1 c
  scaleChanged ((s.set F.PWR_DOM_STATE 0 0 old).set F.PWR_DOM_STATE 3 0 new)

/-- The program copy, whose CRC must be that of the program (R285, R499), written into the cluster's memories; the read is unchecked (R51),
with hint STREAM (R449). -/
def reload (c : Nat) (p : Prog) (s : State) : Option (Bool × State) :=
  match readUnchecked 1 (accParts s p.addr p.total false) s with
  | (.wait, _) => none
  | (.data img, s) =>
    if imageCrc img ≠ p.crc then some (false, s)
    else some (true, placeMops c img (placeInstr c img s))
  | (_, s) => some (false, s)

/-- The understudy fails before RUNNING (R497, R503). -/
def refailed (c : Nat) (w : SwitchSt) (s : State) : State :=
  missCluster c w.cause 5 (markSlot (5 * dieOf c + w.newSlot) s)

/-- Migration and reload end (R498 step 3). -/
def migrationDone (refail : Bool) (c : Nat) (s : State) : State :=
  match (s.clu c).switch, (s.clu c).prog with
  | some w, some p =>
    if w.step ≠ 1 then s
    else if refail then refailed c w s
    else match reload c p (moveSlot c w s) with
      | none => s
      | some (false, _) => missCluster c w.cause 4 s
      | some (true, t) => (releaseHash c t).setClu c { (releaseHash c t).clu c with switch := some { w with step := 2 } }
  | _, _ => s

/-- `refail`: the understudy fails a cause of R495. -/
def execMigrationDone (c : ClusterId) (refail : Bool) (s : State) : Res := ok (migrationDone refail c s)

/-! Steps 4 and 5. -/

/-- A panel loaded again from its retained LOADW copy (R498 step 4); none where an access must wait. One whose data can no
longer be read stays as it was. -/
def rebuildPanel (c : Nat) (s : State) (p : Panel) : Option Panel :=
  match reloadPanel c p s with
  | .val q _ => some q
  | .wait => none
  | _ => some p

/-- A panel that may be absent. -/
def rebuildSlot (c : Nat) (s : State) (p : Option Panel) : Option (Option Panel) :=
  match p with
  | none => some none
  | some p => (rebuildPanel c s p).map some

/-- Panels of macro-ops in a list. -/
def rebuildMops (c : Nat) (s : State) : List Mop → Option (List Mop)
  | [] => some []
  | m :: ms => do
    let p ← rebuildSlot c s m.panel
    let rest ← rebuildMops c s ms
    pure ({ m with panel := p } :: rest)

/-- The work of a repeatable macro-op (R344). -/
def runOf (w : List Word) : Nat → Nat → Mop → State → MRes Unit :=
  match mopFamily w with
  | 0x01 => runLoadw
  | 0x02 => runStream [] none
  | 0x08 => runVec (mopSub w)
  | 0x09 => runReduce (mopSub w)
  | 0x0A => runConvert
  | 0x0B => runCombine
  | 0x10 => runGather
  | 0x12 => runRecv
  | 0x18 => runSort
  | 0x19 => runTopk
  | 0x1A => runFilter
  | 0x1B => runCompress
  | _ => fun _ _ _ s => .val () s

/-- Running macro-ops of a cluster that a fence abandons, with their queues, in the order in which they started; waits and
flag actions are left as they are. -/
def Clu.abandoned (k : Clu) : List (Nat × Mop) :=
  let all := k.queues.zipIdx.flatMap fun (q, i) => (q.mops.filter fun m =>
    (match m.phase with | .running _ => true | _ => false) && !isFlagMop m.copy).map fun m => (i, m)
  stableSort false (all.map fun x => ((x.2.order : Int), x)) |>.map Prod.snd

/-- Bytes that an abandoned run counted are taken off again (R500). -/
def Clu.uncount (m : Mop) (k : Clu) : Clu :=
  { k with counters := k.counters.zipIdx.map fun (t, i) => { t with count := t.count - m.counted.getD i 0 } }

/-- A macro-op that will be executed again, as it stood before it started, with its copy. -/
def Mop.again (m : Mop) : Mop :=
  { m with phase := .queued, left := false, status := 0, counted := [], blocked := false, done := 0 }

/-- Execution again of one macro-op (R500); where it, or one before it, must wait for a memory it stays at its queue, and
starts from its retained copy later. -/
def reExecute (c : Nat) (x : Bool × State) (e : Nat × Mop) : Bool × State :=
  let (stalled, s) := x
  let (q, m) := e
  let hold := fun (m : Mop) (s : State) => s.setClu c ((s.clu c).mapMop q m.seq fun _ => m)
  let s := hold m.again s
  if stalled then (true, s)
  else
    let m := { m.again with phase := .running s.ticks, left := m.left }
    let t := mopGo c q m (runOf m.copy) (hold m s) s
    ((match ((t.clu c).mopOf q m.seq).map Mop.phase with | some (.running _) => false | _ => true), t)

/-- A non-repeatable macro-op is lost (R501): it will retire with UNCORRECTABLE; a SEND SUB 1 takes its instance with it. -/
def loseMop (c : Nat) (s : State) (e : Nat × Mop) : State :=
  let (q, m) := e
  let s := s.setClu c ((s.clu c).mapMop q m.seq fun m => { m with status := 0x05, blocked := false, phase := .running s.ticks })
  if mopFamily m.copy ≠ 0x11 ∨ mopSub m.copy ≠ 1 then s
  else
    let x := fieldOf (mopFspec m.copy) 0 12
    match clusterRank (s.coll x) c with
    | some r => if s.get F.COLL_STEP_RUN x = fieldOf (mopFspec m.copy) 12 16 then collAbort x clUnitLost r [r] s else s
    | none => s

/-- The TYPE 1 record (R504). -/
def switchEvent (c : Nat) (w : SwitchSt) (again : Nat) (lost : List Nat) (unc : Nat) (s : State) : State :=
  let pair := fun i => (lost[2 * i]?).getD 0x7FF + ((lost[2 * i + 1]?).getD 0x7FF) * 2 ^ 16
  let s := ((s.set F.ERR_LASTUNIT_CLUSTER c).set F.ERR_LASTUNIT_OLDSLOT w.oldSlot).set F.ERR_LASTUNIT_NEWSLOT w.newSlot
  let s := ((s.set F.ERR_LASTUNIT_CAUSE w.cause).set F.ERR_LASTUNIT_REASON 0).bump F.ERR_CNT_SWITCHIN_COUNT
  s.event 0x0B 1 (cluJob s c) c ([s.rd R.ERR_LASTUNIT 0 0, sparesLeft s, again, lost.length] ++ (List.range 4).map pair ++
    [w.hashLost, unc])

/-- The panels have been rebuilt: RUNNING, with execution again, restarted waits, STOPs and accesses that waited (R498 step 5,
R500 to R503). -/
def switchRunning (refail : Bool) (unc c : Nat) (s : State) : State :=
  let k := s.clu c
  match k.switch with
  | none => s
  | some w =>
    if w.step ≠ 2 then s
    else if refail then refailed c w s
    else match rebuildSlot c s k.active, rebuildSlot c s k.next, k.queues.mapM fun q => (rebuildMops c s q.mops).map fun ms => { q with mops := ms } with
      | some a, some n, some qs =>
        let k := { k with active := a, next := n, filling := none, queues := qs, switch := none, diag := none, recov := none }
        let all := k.abandoned
        let mine := fun (x : Xfer) => all.any fun e => e.1 == x.q && e.2.seq == x.seq
        let again := all.filter fun e => repeatable c e.2.copy
        let lost := all.filter fun e => !repeatable c e.2.copy
        let k := again.foldl (fun k e => k.uncount e.2) { k with xfers := k.xfers.filter fun x => !mine x }
        let s := enterCluster stRunning c (s.setClu c (k.restartWaits s.ticks s.fabTime))
        let s := lost.foldl (loseMop c) s
        let s := (again.foldl (reExecute c) (false, s)).2
        let s := switchEvent c w again.length (lost.map fun e => e.2.slot) unc s
        let stops := (s.clu c).stops
        let s := retryHeld (settleWaits c (s.setClu c { s.clu c with stops := [] }))
        stops.foldl (fun t d => stopNow d.1 c d.2.1 d.2.2 t) s
      | _, _, _ => s

/-- `unc`: scratch words copied uncorrectable (R499). -/
def execSwitchinRunning (c : ClusterId) (refail : Bool) (unc : BitVec 21) (s : State) : Res :=
  ok (switchRunning refail unc.toNat c s)

/-! Lane drift (R505). -/

/-- The timer of the drift monitor. -/
def driftTimer : Nat := 12

/-- The margin of one lane is compared: reported once per stay in ACTIVE. -/
def laneDrift (s : State) (m : LaneId × BitVec 6) : State :=
  let lane : Nat := m.1
  let now := m.2.toNat
  let active := (List.range 512).any fun p =>
    portState s p == 5 && portLane s p ≤ lane && (s.get F.PORT_STATUS_LMASK p).testBit (lane - portLane s p)
  match lookup s.laneMargin lane with
  | none => s
  | some was =>
    if active = false ∨ 64 ≤ was ∨ was ≤ now + s.get F.ERR_LDRIFT_MARGIN then s
    else
      let s := (s.bump F.ERR_CNT_LDRIFT_COUNT).event 0x0B 4 0 lane [lane, was, now]
      { s with laneMargin := place s.laneMargin lane 64 }

/-- Every INTERVAL ms the margins that the eye monitors read now are compared with those at ACTIVE. -/
def driftCheck (margins : List (LaneId × BitVec 6)) (s : State) : State :=
  if s.get F.ERR_LDRIFT_MARGIN = 0 ∨
      s.passedUs ((lookup s.timers driftTimer).getD 0) (1000 * max 1 (s.get F.ERR_LDRIFT_INTERVAL)) = false then s
  else margins.foldl laneDrift { s with timers := place s.timers driftTimer s.ticks }

def execLaneDriftCheck (margins : List (LaneId × BitVec 6)) (s : State) : Res := ok (driftCheck margins s)

end Sys2Proof.Machine
end

