-- ==== Sys2Proof/Machine/Boot.lean ====
section
/-! DEFINITION. Reset and the boot stages (R543 to R552). -/

namespace Sys2Proof.Machine

/-! SYS_RESET_N (R544, R548, R572). -/

/-- ARB bits that an interrupted advance leaves blown: one each millisecond (R511). -/
def arbAfterReset (s : State) : Nat :=
  if s.flag F.SEC_ARB_BUSY then
    min s.sec.advanceTo (s.fuses.arb + s.elapsed ((lookup s.timers arbTimer).getD 0) / 100000)
  else s.fuses.arb

/-- SYS_RESET_N goes low: every register takes its reset value and every stack's contents are lost. Fuses and flash stay, PERST_N
keeps its level, and SEC_PUSH_CTL.WAIT is kept but for a power-on (R523). -/
def resetLow (powerOn : Bool) (s : State) : State :=
  let (nonce, s) := randomWords s
  let r := State.reset
  let t := { r with
    freeCtr := s.freeCtr, fuses := { s.fuses with arb := arbAfterReset s }, flash := s.flash, out := s.out, pending := s.pending
    sec := { r.sec with nonce := nonce }, hif := { r.hif with inReset := s.hif.inReset } }
  if powerOn then t else t.set F.SEC_PUSH_CTL_WAIT (s.get F.SEC_PUSH_CTL_WAIT)

/-- Power domains that are ON from boot (R525): AON, management, PCIe and security root. -/
def bootDomains (s : State) : State := iterate 10 (fun i s => s.set F.PWR_DOM_STATE 3 0 (252 + i)) s

/-- SYS_RESET_N rises: GPIO0 to GPIO3 are sampled (R572) and stage AON begins. -/
def resetHigh (lands : BitVec 16) (s : State) : State :=
  if bootStage s ≠ 0 then s
  else
    let s := { s with
      board.gpioIn := lands, board.smbAddr := 0x58 + (lands.setWidth 2).setWidth 7, sec.forced := lands.getLsbD 2 }
    enterStage 1 (bootDomains s)

/-- An edge of SYS_RESET_N: `high` its new level, `powerOn` a power cycle before it, `lands` the GPIO lands. -/
def execSysReset (high powerOn : Bool) (lands : BitVec 16) (s : State) : Res :=
  ok (if high then resetHigh lands s else resetLow powerOn s)

/-! AON and ROM. -/

/-- The AON domains are up, fuses have been read and STG_PGOOD is high (R546, R567); the identity key is compared with its
certificate (R516). -/
def execAonDone (s : State) : Res :=
  if bootStage s ≠ 1 then ok s
  else
    let s := setLocked 59 true (setLocked 58 true (setLocked 57 true (setLocked 56 true s)))
    ok (enterStage 2 (s.set F.SEC_STATUS_IDVALID (b2n (Config.identityMatches (certChain s)))))

/-- Recovery (R513). -/
def enterRecovery (s : State) : State := enterStage 7 ((s.set F.SEC_STATUS_RECOVERY 1).set F.HIF_STATUS_RECOVERY 1)

/-- The ROM's check of the flash image (R510, R513); `readError` says that the flash could not be read. -/
def romCheck (readError : Bool) (s : State) : State :=
  if s.flag F.SEC_PUSH_CTL_WAIT ∨ s.sec.forced then enterRecovery s
  else
    let img := flashImage s
    let reason := if readError then 6 else checkImage s img
    let s := s.set F.SEC_STATUS_REASON reason
    if reason = 0 then enterStage 3 ((acceptImage img s).set F.SEC_SVN_FLASH (imageSvn img)) else enterRecovery s

def execRomCheckDone (readError : Bool) (s : State) : Res := ok (if bootStage s = 2 then romCheck readError s else s)

/-! The calibration set (R549 to R552). -/

/-- Bytes of the set that the layout lists. -/
def calListed (o : Nat) : Bool :=
  if o < 0x1C then !(0x15 ≤ o && o < 0x18) && o != 0x1B
  else if o < 0x1000 then 0x3C ≤ o && o < 0x40
  else if o < 0x9000 then (o % 32 < 6 || (8 ≤ o % 32 && o % 32 < 25))
  else if o < 0x13000 then true
  else if o < 0x14000 then o < 0x13000 + 4 * 200 && o % 4 < 2
  else if o < 0x15000 then o < 0x14000 + 40 * 20 && o % 4 < 2
  else o < 0x15000 + 16 * 60

/-- A little-endian word of `n` bytes at offset `o` of a set. -/
def calWord (bs : List Byte) (o n : Nat) : Nat := ofBytes ((bs.drop o).take n)

/-- The CRC that a set should carry (R549). -/
def setCrc (bs : List Byte) : Nat := crc32c (bs.take 0x3C ++ zeros 4 ++ bs.drop 0x40)

/-- V/F voltage of point `k` of die `n`, in mV. -/
def setMv (bs : List Byte) (n k : Nat) : Nat := calWord bs (0x14000 + 40 * n + 4 * k) 2 % 1024

/-- The first V/F point that R550 does not allow, numbered 10 n + k. -/
def badPoint (bs : List Byte) : Option Nat :=
  (List.range 200).find? fun i =>
    let v := setMv bs (i / 10) (i % 10)
    v < 600 || 850 < v || (i % 10 != 0 && v < setMv bs (i / 10) (i % 10 - 1))

/-- The first check of R550 that a set fails: its number and the offset of the item. -/
def setFault (s : State) (bs : List Byte) : Option (Nat × Nat) :=
  let reserved := (List.range calSize).find? fun o => !calListed o && (bs.getD o 0 != 0)
  let rate := (List.range 20).find? fun n => fieldOf (calWord bs 0x10 8) (2 * n) 2 == 3
  if calWord bs 0 4 ≠ 0x4C414356 then some (1, 0)
  else if calWord bs 4 4 ≠ 1 then some (2, 4)
  else if calWord bs 0x3C 4 ≠ setCrc bs then some (3, 0x3C)
  else if (bs.drop 8).take 8 ≠ bytesOfWords s.fuses.uid then some (4, 8)
  else match reserved, rate, badPoint bs with
    | some o, _, _ => some (5, o)
    | none, some n, _ => some (6, 0x10 + n / 4)
    | none, none, some i => some (7, 0x14000 + 4 * i)
    | none, none, none => none

/-- A valid set is taken into use: TIME_FREQ and the lanes' presets for KR1 (R187, R581). -/
def useSet (bs : List Byte) (s : State) : State :=
  let s := setMeasure 3 (Sha.digest bs) { s with cal := putBytes [] 0 bs }
  let s := (s.set F.CAL_STATUS_VALID 1).set F.TIME_FREQ_ADJ (calWord bs 0x18 3)
  iterate 1024 (fun l s => s.wr R.LINK_TXEQ l 0 (lanePreset s l 0)) s

/-- The set is read, hashed and validated (R546, R551, R552); `missing` says that it could not be read. -/
def calRead (missing : Bool) (s : State) : State :=
  if bootStage s ≠ 3 then s
  else
    let bs := flashRead s calBase calSize
    let s := setMeasure 3 (zeros 32) s
    let s := if missing then s.set F.CAL_STATUS_MISSING 1
      else
        let s := s.set F.CAL_CRC_CRC (calWord bs 0x3C 4)
        match setFault s bs with
        | none => useSet bs s
        | some (check, o) => (s.set F.CAL_STATUS_CHECK check).set F.CAL_STATUS_OFFSET (o / 4)
    enterStage 4 (measureDebug (measureState s))

def execCalreadDone (missing : Bool) (s : State) : Res := ok (calRead missing s)

/-! HARBOUR. -/

/-- The cluster map of a stage die (R25): healthy slots in ascending order back positions 0 to 3. -/
def mapDie (d : Nat) (s : State) : State :=
  let healthy := (List.range 5).filter fun k => s.fuses.slotOk.testBit (5 * d + k)
  iterate 4 (fun i s =>
    match healthy[i]? with
    | some k => enterCluster 1 (4 * d + i) (s.set F.CLU_STATUS_SLOT k (4 * d + i))
    | none => s.set F.CLU_STATUS_STATE stMissing (4 * d + i)) s

/-- A stage die starts at the frequency of R530 with the voltage that it needs. -/
def startDie (n : Nat) (s : State) : State :=
  let s := s.set F.CLK_STG_STATUS_CAP (calMax s) 0 n
  let f := goalMhz s n
  ((s.set F.CLK_STG_STATUS_CUR f 0 n).set F.CLK_STG_MV_MV (needMv s n f) 0 n).setDie n ⟨0, f, s.ticks, s.ticks⟩

/-- PLLs are locked, the harbourmaster cores run, identity and the scale table are loaded (R546). -/
def harbour (s : State) : State :=
  if bootStage s ≠ 4 then s
  else
    let s := iterate 60 (fun k s => setLocked k true s) s
    let s := requestRail (iterate 20 startDie s)
    enterStage 5 (iterate 20 mapDie s)

def execHarbourDone (s : State) : Res := ok (harbour s)

/-! BRINGUP. -/

/-- How a stack's training ended: none where it failed; else the rate that it trained at with ROM defaults, its temperature,
and the pseudo-channels that failed (R455, R459, R552). -/
abbrev StackTrained := Option (Fin 3 × Byte × Word)

/-- A stack at the end of BRINGUP (R438, R455, R547). -/
def startStack (n : Nat) (x : StackTrained) (s : State) : State :=
  match x with
  | none => scaleChanged (retireSlice n (s.set F.STK_STATUS_STATE 5 n))
  | some (rate, t, bad) =>
    let code := if s.flag F.CAL_STATUS_VALID then fieldOf (ofBytes ((List.range 8).map fun i =>
        BitVec.ofNat 8 (calByte s (0x10 + i)))) (2 * n) 2 else rate.val
    let s := ((s.set F.STK_STATUS_STATE 2 n).set F.STK_STATUS_RATE code n).set F.STK_STATUS_TEMP t.toNat n
    let s := (s.set F.STK_STATUS_HOT (b2n (decide (85 < t.toNat))) n).set F.STK_TRAIN_TEMP t.toNat n
    let s := s.set F.PWR_DOM_STATE 3 0 (160 + n)
    iterate 32 (fun p s => if bad.getLsbD p then fencePch n p 1 s else s) s

/-- BRINGUP ends (R546, R547): pool 0 is filled, quay and pier dies run, stacks and lane groups are as they came up, and READY
is set. -/
def bringup (trained : List StackTrained) (groupsBad : BitVec 64) (s : State) : State :=
  if bootStage s ≠ 5 then s
  else
    let s := poolInitDone 0 s
    let s := iterate 20 (fun n s => s.set F.PWR_DOM_STATE 3 0 (120 + n)) s
    let s := iterate 4 (fun n s => s.set F.PWR_DOM_STATE 3 0 (244 + n)) s
    let s := iterate 20 (fun n s => startStack n ((trained[n]?).getD none) s) s
    let s := { s with net.groupBad := groupsBad.toNat }
    let s := s.wr R.CAL_BOOT_TIME 0 0 (s.nowNs / 1000)
    enterStage 6 (s.set F.HIF_STATUS_READY 1)

def execBringupDone (trained : List (Option (Fin 3 × Byte × Word))) (groupsBad : BitVec 64) (s : State) : Res :=
  ok (bringup trained groupsBad s)

end Sys2Proof.Machine
end

