-- ==== Sys2Proof/Machine/Service.lean ====
section
/-! DEFINITION. The board's service ports: JTAG boundary instructions (R63, R521) and the SMBus target (R571 to R576). -/

namespace Sys2Proof.Machine

/-! JTAG. Each command loads the instruction and makes one data-register scan under it, as IEEE 1149.1 describes. -/

/-- Whether an instruction puts the preloaded cells on the lands. -/
def JtagInstr.drives : JtagInstr → Bool
  | .extest | .clamp | .extestPulse | .extestTrain => true
  | _ => false

/-- Loads an instruction. -/
def loadJtag (i : JtagInstr) (s : State) : State := { s with board.jtag := i }

/-- A scan of the one-bit bypass register: the captured 0 comes out, and the last bit shifted in stays. -/
def scanBypass (tdi : Bool) (s : State) : State := ({ s with board.bypass := tdi }).emit (.tdo [false])

/-- A scan of the boundary register: the lands are captured and shifted out. -/
def scanLands (lands : List Bool) (s : State) : State := ({ s with board.captured := lands }).emit (.tdo lands)

/-- Cells are updated with what was shifted in. -/
def updateCells (cells : List Bool) (s : State) : State := { s with board.preloaded := cells }

def execBypass (tdi : Bool) (s : State) : Res := ok (scanBypass tdi (loadJtag .bypass s))

/-- IDCODE shifts out the 32-bit identification code. -/
def execIdcode (s : State) : Res := ok ((loadJtag .idcode s).emit (.tdo ((List.range 32).map Config.idcode.getLsbD)))

def execSample (lands : List Bool) (s : State) : Res := ok (scanLands lands (loadJtag .sample s))

def execPreload (cells : List Bool) (s : State) : Res := ok (updateCells cells (loadJtag .preload s))

/-- EXTEST: lands captured, then driven from the new cells. -/
def execExtest (lands cells : List Bool) (s : State) : Res := ok (updateCells cells (scanLands lands (loadJtag .extest s)))

def execHighz (tdi : Bool) (s : State) : Res := ok (scanBypass tdi (loadJtag .highz s))

def execClamp (tdi : Bool) (s : State) : Res := ok (scanBypass tdi (loadJtag .clamp s))

/-- EXTEST_PULSE and EXTEST_TRAIN (IEEE 1149.6): as EXTEST, through the lanes' AC-coupled drivers and test receivers. -/
def execExtestPulse (lands cells : List Bool) (s : State) : Res :=
  ok (updateCells cells (scanLands lands (loadJtag .extestPulse s)))

def execExtestTrain (lands cells : List Bool) (s : State) : Res :=
  ok (updateCells cells (scanLands lands (loadJtag .extestTrain s)))

/-! SMBus (R574). -/

/-- One bit of the SMBus packet error code, CRC-8 with x^8 + x^2 + x + 1. -/
def pecShift (c : Nat) : Nat := if 128 ≤ c then ((2 * c) ^^^ 0x107) % 256 else 2 * c

/-- The packet error code of a message's bytes. -/
def pecOf (bs : List Nat) : Nat := bs.foldl (fun c b => iterate 8 (fun _ c => pecShift c) (c ^^^ b)) 0

/-- Whether every command but STATUS and HOTTEST is acknowledged: once HARBOUR has ended. -/
def smbReady (s : State) : Bool := decide (5 ≤ bootStage s) && bootStage s != 7

/-- Address byte of a write or a read. -/
def smbByte (s : State) (read : Bool) : Nat := 2 * s.board.smbAddr.toNat + b2n read

/-- A command that is not acknowledged. -/
def smbNack (s : State) : State := s.emit .nack

/-- A write of data bytes, acknowledged where its packet error code, if present, is right. -/
def smbWrite (code : Nat) (data : List Nat) (pec : Option Byte) (act : State → State) (s : State) : State :=
  let good := match pec with
    | some p => p.toNat == pecOf (smbByte s false :: code :: data)
    | none => true
  if smbReady s && good then act s else smbNack s

/-- The answer to a read: data bytes, and the packet error code where the controller takes one more byte. -/
def smbAnswer (code : Nat) (data : List Nat) (pec : Bool) (s : State) : State :=
  let more := if pec then [pecOf (smbByte s false :: code :: smbByte s true :: data)] else []
  s.emit (.answer 3 ((data ++ more).map (BitVec.ofNat 8)))

/-- Bytes of a word or a block on the bus. -/
def smbWord (v : Nat) : List Nat := [v % 256, v / 256 % 256]
def smbBlock (v : Nat) : List Nat := 4 :: [v % 256, v / 2 ^ 8 % 256, v / 2 ^ 16 % 256, v / 2 ^ 24 % 256]

/-- STATUS, acknowledged in every stage; the thermal state is that of the hottest sensor's die. -/
def execSmbStatus (pec : Bool) (s : State) : Res :=
  if bootStage s = 0 then ok s
  else
    let v := b2n (s.flag F.HIF_STATUS_READY) + b2n (s.flag F.HIF_STATUS_RECOVERY) <<< 1 +
      s.get F.PWR_TS_STATE 0 (s.get F.PWR_THOT_SENSOR) <<< 2
    ok (smbAnswer 0x01 [v] pec s)

def execSmbHottest (pec : Bool) (s : State) : Res :=
  if bootStage s = 0 then ok s else ok (smbAnswer 0x02 (smbWord (s.get F.PWR_THOT_TEMP)) pec s)

/-- REGADDR: a BAR0 offset that is a multiple of 4; another is not acknowledged. -/
def execSmbRegaddr (v : Word) (pec : Option Byte) (s : State) : Res :=
  if bootStage s = 0 then ok s
  else if v.toNat % 4 ≠ 0 then ok (smbNack s)
  else ok (smbWrite 0x10 (smbBlock v.toNat) pec (fun s => { s with board.regAddr := v }) s)

/-- REGDATA: the register at REGADDR, as master 0x001 (R47); a refused access is not acknowledged. -/
def smbRegister (w : Option Word) (pec : Option Byte) (s : State) : State :=
  let a := 0x7F0000000000 + s.board.regAddr.toNat % 2 ^ 26
  if 2 ^ 26 ≤ s.board.regAddr.toNat then smbNack s
  else match w with
    | some v =>
      smbWrite 0x11 (smbBlock v.toNat) pec (fun s =>
        match writeParts regPut 1 0 [(a, 4)] (toBytes 4 v.toNat) s with
        | (.data _, s) => s
        | (_, s) => smbNack s) s
    | none =>
      if smbReady s = false then smbNack s
      else match readParts regBytes 1 0 [(a, 4)] s with
        | (.data bs, s) => smbAnswer 0x11 (smbBlock (ofBytes bs)) pec.isSome s
        | (_, s) => smbNack s

def execSmbRegdata (w : Option Word) (pec : Option Byte) (s : State) : Res :=
  if bootStage s = 0 then ok s else ok (smbRegister w pec s)

/-- A word that is read or written. -/
def smbReadWrite (code : Nat) (w : Option (BitVec 16)) (pec : Option Byte) (value : State → Nat) (put : BitVec 16 → State → State)
    (s : State) : State :=
  match w with
  | some v => smbWrite code (smbWord v.toNat) pec (put v) s
  | none => if smbReady s then smbAnswer code (smbWord (value s)) pec.isSome s else smbNack s

def execSmbGpiodir (w : Option (BitVec 16)) (pec : Option Byte) (s : State) : Res :=
  if bootStage s = 0 then ok s
  else ok (smbReadWrite 0x20 w pec (fun s => s.board.gpioDir.toNat) (fun v s => { s with board.gpioDir := v }) s)

def execSmbGpioout (w : Option (BitVec 16)) (pec : Option Byte) (s : State) : Res :=
  if bootStage s = 0 then ok s
  else ok (smbReadWrite 0x21 w pec (fun s => s.board.gpioOut.toNat) (fun v s => { s with board.gpioOut := v }) s)

/-- GPIOIN: an output land has the value that it is driven to, an input land what the board gives it now. -/
def execSmbGpioin (lands : BitVec 16) (pec : Bool) (s : State) : Res :=
  if bootStage s = 0 then ok s
  else
    let s := { s with board.gpioIn := lands }
    let v := (s.board.gpioDir &&& s.board.gpioOut) ||| (~~~s.board.gpioDir &&& lands)
    ok (if smbReady s then smbAnswer 0x22 (smbWord v.toNat) pec s else smbNack s)

def execSmbSlew (w : Option (BitVec 16)) (pec : Option Byte) (s : State) : Res :=
  if bootStage s = 0 then ok s
  else ok (smbReadWrite 0x23 w pec (fun s => s.board.slew.toNat) (fun v s => { s with board.slew := v.setWidth 10 }) s)

/-- A command that the table does not list is not acknowledged. -/
def execSmbUnlistedCommand (_code : Byte) (s : State) : Res := if bootStage s = 0 then ok s else ok (smbNack s)

/-- The clock has been low for 25 to 35 ms (R576): the target gives up the transfer under way. Each command here is a whole
transfer, so nothing else of the state tells of it. -/
def execSmbusClockLowTimeout (s : State) : Res := ok s

end Sys2Proof.Machine
end

