-- ==== Sys2Proof/Machine/Dispatch.lean ====
section
/-! DEFINITION. One arm per command. -/

namespace Sys2Proof.Machine

def exec (i : Instr) (s : State) : Host.Outcome State Fault Refusal :=
  match i with
  | .registerWrite m off v => Sys2Proof.Machine.execRegisterWrite m off v s
  | .blockCommit m g tag => Sys2Proof.Machine.execBlockCommit m g tag s
  | .commitApply g => Sys2Proof.Machine.execCommitApply g s
  | .accDenyClr t => Sys2Proof.Machine.execAccDenyClr t s
  | .accessDrained t => Sys2Proof.Machine.execAccessDrained t s
  | .bar0Access off len write => Sys2Proof.Machine.execBar0Access off len write s
  | .bar2Access off len write => Sys2Proof.Machine.execBar2Access off len write s
  | .portEnable m p => Sys2Proof.Machine.execPortEnable m p s
  | .portDisable p => Sys2Proof.Machine.execPortDisable p s
  | .portRetrain p => Sys2Proof.Machine.execPortRetrain p s
  | .portRewiden p => Sys2Proof.Machine.execPortRewiden p s
  | .wakePllLocked p => Sys2Proof.Machine.execWakePllLocked p s
  | .wakeTimeout p => Sys2Proof.Machine.execWakeTimeout p s
  | .trainingDone p => Sys2Proof.Machine.execTrainingDone p s
  | .trainingTimeout p => Sys2Proof.Machine.execTrainingTimeout p s
  | .lockAligned p => Sys2Proof.Machine.execLockAligned p s
  | .lockTimeout p => Sys2Proof.Machine.execLockTimeout p s
  | .initWordRx p index value done => Sys2Proof.Machine.execInitWordRx p index value done s
  | .initRepeat p => Sys2Proof.Machine.execInitRepeat p s
  | .initTimeout p => Sys2Proof.Machine.execInitTimeout p s
  | .retrainTimeout p => Sys2Proof.Machine.execRetrainTimeout p s
  | .laneFail lane sig cdr align => Sys2Proof.Machine.execLaneFail lane sig cdr align s
  | .frameRx p f => Sys2Proof.Machine.execFrameRx p f s
  | .controlWordProterr p word inFrame => Sys2Proof.Machine.execControlWordProterr p word inFrame s
  | .crdRx p c count => Sys2Proof.Machine.execCrdRx p c count s
  | .linkAckRx p lseq => Sys2Proof.Machine.execLinkAckRx p lseq s
  | .nakRx p e => Sys2Proof.Machine.execNakRx p e s
  | .ackDelayExpiry p => Sys2Proof.Machine.execAckDelayExpiry p s
  | .creditRefresh p => Sys2Proof.Machine.execCreditRefresh p s
  | .acktmoExpiry p => Sys2Proof.Machine.execAcktmoExpiry p s
  | .egressChoose p => Sys2Proof.Machine.execEgressChoose p s
  | .cutThroughStart p c => Sys2Proof.Machine.execCutThroughStart p c s
  | .frameTxEnd p err => Sys2Proof.Machine.execFrameTxEnd p err s
  | .fenceDrain p => Sys2Proof.Machine.execFenceDrain p s
  | .layoutApply b => Sys2Proof.Machine.execLayoutApply b s
  | .formWrite m lane form => Sys2Proof.Machine.execFormWrite m lane form s
  | .portCntClr p => Sys2Proof.Machine.execPortCntClr p s
  | .packetIngress p sofClass lseq h => Sys2Proof.Machine.execPacketIngress p sofClass lseq h s
  | .lookupComplete p => Sys2Proof.Machine.execLookupComplete p s
  | .devicePacketDeliver p => Sys2Proof.Machine.execDevicePacketDeliver p s
  | .put q => Sys2Proof.Machine.execPut q s
  | .putAck q => Sys2Proof.Machine.execPutAck q s
  | .get q => Sys2Proof.Machine.execGet q s
  | .getresp q => Sys2Proof.Machine.execGetresp q s
  | .ack q => Sys2Proof.Machine.execAck q s
  | .injectedPacketStart m q => Sys2Proof.Machine.execInjectedPacketStart m q s
  | .fwdStageWord m v => Sys2Proof.Machine.execFwdStageWord m v s
  | .fwdCntClr => Sys2Proof.Machine.execFwdCntClr s
  | .alloc k owner n sharers job => Sys2Proof.Machine.execAlloc k owner n sharers job s
  | .allocGrant k => Sys2Proof.Machine.execAllocGrant k s
  | .addref k buf n by_ => Sys2Proof.Machine.execAddref k buf n by_ s
  | .pass k buf dest by_ => Sys2Proof.Machine.execPass k buf dest by_ s
  | .release k buf by_ => Sys2Proof.Machine.execRelease k buf by_ s
  | .poolEnable m k => Sys2Proof.Machine.execPoolEnable m k s
  | .poolInitDone k => Sys2Proof.Machine.execPoolInitDone k s
  | .poolDisable m k => Sys2Proof.Machine.execPoolDisable m k s
  | .poolStatusClr k => Sys2Proof.Machine.execPoolStatusClr k s
  | .auditSweepStart => Sys2Proof.Machine.execAuditSweepStart s
  | .auditSweepEnd => Sys2Proof.Machine.execAuditSweepEnd s
  | .bufCntClr => Sys2Proof.Machine.execBufCntClr s
  | .gateEdge p => Sys2Proof.Machine.execGateEdge p s
  | .gateTakeover p => Sys2Proof.Machine.execGateTakeover p s
  | .schedCntClr p => Sys2Proof.Machine.execSchedCntClr p s
  | .telQClr q => Sys2Proof.Machine.execTelQClr q s
  | .sfifoPop m => Sys2Proof.Machine.execSfifoPop m s
  | .aonTick upsets => Sys2Proof.Machine.execAonTick upsets s
  | .timeNowRead m => Sys2Proof.Machine.execTimeNowRead m s
  | .timeSet => Sys2Proof.Machine.execTimeSet s
  | .timeStep => Sys2Proof.Machine.execTimeStep s
  | .timeSlew => Sys2Proof.Machine.execTimeSlew s
  | .timeCntClr => Sys2Proof.Machine.execTimeCntClr s
  | .syncSend => Sys2Proof.Machine.execSyncSend s
  | .sync q => Sys2Proof.Machine.execSync q s
  | .dreq q => Sys2Proof.Machine.execDreq q s
  | .dresp q => Sys2Proof.Machine.execDresp q s
  | .holdoverEntry => Sys2Proof.Machine.execHoldoverEntry s
  | .ppsEdge => Sys2Proof.Machine.execPpsEdge s
  | .refLoss => Sys2Proof.Machine.execRefLoss s
  | .ppsLoss => Sys2Proof.Machine.execPpsLoss s
  | .ppsOutRise => Sys2Proof.Machine.execPpsOutRise s
  | .ppsOutFall => Sys2Proof.Machine.execPpsOutFall s
  | .cueEntryDue e => Sys2Proof.Machine.execCueEntryDue e s
  | .cueEarlyWake e => Sys2Proof.Machine.execCueEarlyWake e s
  | .cueEnable e => Sys2Proof.Machine.execCueEnable e s
  | .cueDisable e => Sys2Proof.Machine.execCueDisable e s
  | .cueCntClr e => Sys2Proof.Machine.execCueCntClr e s
  | .curtainTimeout l => Sys2Proof.Machine.execCurtainTimeout l s
  | .curtClr l => Sys2Proof.Machine.execCurtClr l s
  | .groupCreate r q => Sys2Proof.Machine.execGroupCreate r q s
  | .groupLoaded x => Sys2Proof.Machine.execGroupLoaded x s
  | .groupDestroy r q => Sys2Proof.Machine.execGroupDestroy r q s
  | .destroyDone x => Sys2Proof.Machine.execDestroyDone x s
  | .contrib q => Sys2Proof.Machine.execContrib q s
  | .partial_ q => Sys2Proof.Machine.execPartial q s
  | .xpartial q => Sys2Proof.Machine.execXpartial q s
  | .result q => Sys2Proof.Machine.execResult q s
  | .cerr q => Sys2Proof.Machine.execCerr q s
  | .chunkCombined x k err => Sys2Proof.Machine.execChunkCombined x k err s
  | .drainDone x => Sys2Proof.Machine.execDrainDone x s
  | .abortDone x => Sys2Proof.Machine.execAbortDone x s
  | .instanceTimeout x => Sys2Proof.Machine.execInstanceTimeout x s
  | .collStart m x => Sys2Proof.Machine.execCollStart m x s
  | .collAbort x => Sys2Proof.Machine.execCollAbort x s
  | .collStragWrite x v => Sys2Proof.Machine.execCollStragWrite x v s
  | .collCntClr x => Sys2Proof.Machine.execCollCntClr x s
  | .xredCntClr n => Sys2Proof.Machine.execXredCntClr n s
  | .loadProgram r q => Sys2Proof.Machine.execLoadProgram r q s
  | .imageLoaded c => Sys2Proof.Machine.execImageLoaded c s
  | .rehearsalDone c => Sys2Proof.Machine.execRehearsalDone c s
  | .start r q => Sys2Proof.Machine.execStart r q s
  | .startTimeReached c => Sys2Proof.Machine.execStartTimeReached c s
  | .stop r q => Sys2Proof.Machine.execStop r q s
  | .clearingDone c => Sys2Proof.Machine.execClearingDone c s
  | .clusterPowerUpDone c => Sys2Proof.Machine.execClusterPowerUpDone c s
  | .programEnd c => Sys2Proof.Machine.execProgramEnd c s
  | .dozeEntry c => Sys2Proof.Machine.execDozeEntry c s
  | .retainEntry c => Sys2Proof.Machine.execRetainEntry c s
  | .clusterWake c => Sys2Proof.Machine.execClusterWake c s
  | .halt c => Sys2Proof.Machine.execHalt c s
  | .resume m c => Sys2Proof.Machine.execResume m c s
  | .progressTimeout c => Sys2Proof.Machine.execProgressTimeout c s
  | .cluCntClr c => Sys2Proof.Machine.execCluCntClr c s
  | .aluAdd c rd ra rb => Sys2Proof.Machine.execAluAdd c rd ra rb s
  | .aluSub c rd ra rb => Sys2Proof.Machine.execAluSub c rd ra rb s
  | .aluAnd c rd ra rb => Sys2Proof.Machine.execAluAnd c rd ra rb s
  | .aluOr c rd ra rb => Sys2Proof.Machine.execAluOr c rd ra rb s
  | .aluXor c rd ra rb => Sys2Proof.Machine.execAluXor c rd ra rb s
  | .aluSll c rd ra rb => Sys2Proof.Machine.execAluSll c rd ra rb s
  | .aluSrl c rd ra rb => Sys2Proof.Machine.execAluSrl c rd ra rb s
  | .aluSra c rd ra rb => Sys2Proof.Machine.execAluSra c rd ra rb s
  | .aluSlt c rd ra rb => Sys2Proof.Machine.execAluSlt c rd ra rb s
  | .aluSltu c rd ra rb => Sys2Proof.Machine.execAluSltu c rd ra rb s
  | .aluMul c rd ra rb => Sys2Proof.Machine.execAluMul c rd ra rb s
  | .aluMulh c rd ra rb => Sys2Proof.Machine.execAluMulh c rd ra rb s
  | .aluMulhu c rd ra rb => Sys2Proof.Machine.execAluMulhu c rd ra rb s
  | .aluMin c rd ra rb => Sys2Proof.Machine.execAluMin c rd ra rb s
  | .aluMax c rd ra rb => Sys2Proof.Machine.execAluMax c rd ra rb s
  | .aluMinu c rd ra rb => Sys2Proof.Machine.execAluMinu c rd ra rb s
  | .aluMaxu c rd ra rb => Sys2Proof.Machine.execAluMaxu c rd ra rb s
  | .aluRotl c rd ra rb => Sys2Proof.Machine.execAluRotl c rd ra rb s
  | .aluClz c rd ra => Sys2Proof.Machine.execAluClz c rd ra s
  | .aluPopc c rd ra => Sys2Proof.Machine.execAluPopc c rd ra s
  | .addi c rd ra imm => Sys2Proof.Machine.execAddi c rd ra imm s
  | .andi c rd ra imm => Sys2Proof.Machine.execAndi c rd ra imm s
  | .ori c rd ra imm => Sys2Proof.Machine.execOri c rd ra imm s
  | .xori c rd ra imm => Sys2Proof.Machine.execXori c rd ra imm s
  | .slti c rd ra imm => Sys2Proof.Machine.execSlti c rd ra imm s
  | .sltiu c rd ra imm => Sys2Proof.Machine.execSltiu c rd ra imm s
  | .shi c rd ra kind amt => Sys2Proof.Machine.execShi c rd ra kind amt s
  | .lui c rd imm => Sys2Proof.Machine.execLui c rd imm s
  | .lb c rd ra imm => Sys2Proof.Machine.execLb c rd ra imm s
  | .lbu c rd ra imm => Sys2Proof.Machine.execLbu c rd ra imm s
  | .lh c rd ra imm => Sys2Proof.Machine.execLh c rd ra imm s
  | .lhu c rd ra imm => Sys2Proof.Machine.execLhu c rd ra imm s
  | .lw c rd ra imm => Sys2Proof.Machine.execLw c rd ra imm s
  | .sb c rs ra imm => Sys2Proof.Machine.execSb c rs ra imm s
  | .sh c rs ra imm => Sys2Proof.Machine.execSh c rs ra imm s
  | .sw c rs ra imm => Sys2Proof.Machine.execSw c rs ra imm s
  | .lbx c rd ra imm => Sys2Proof.Machine.execLbx c rd ra imm s
  | .lbux c rd ra imm => Sys2Proof.Machine.execLbux c rd ra imm s
  | .lhx c rd ra imm => Sys2Proof.Machine.execLhx c rd ra imm s
  | .lhux c rd ra imm => Sys2Proof.Machine.execLhux c rd ra imm s
  | .lwx c rd ra imm => Sys2Proof.Machine.execLwx c rd ra imm s
  | .sbx c rs ra imm => Sys2Proof.Machine.execSbx c rs ra imm s
  | .shx c rs ra imm => Sys2Proof.Machine.execShx c rs ra imm s
  | .swx c rs ra imm => Sys2Proof.Machine.execSwx c rs ra imm s
  | .farStoreAck c q => Sys2Proof.Machine.execFarStoreAck c q s
  | .beq c ra rb off => Sys2Proof.Machine.execBeq c ra rb off s
  | .bne c ra rb off => Sys2Proof.Machine.execBne c ra rb off s
  | .blt c ra rb off => Sys2Proof.Machine.execBlt c ra rb off s
  | .bge c ra rb off => Sys2Proof.Machine.execBge c ra rb off s
  | .bltu c ra rb off => Sys2Proof.Machine.execBltu c ra rb off s
  | .bgeu c ra rb off => Sys2Proof.Machine.execBgeu c ra rb off s
  | .jal c rd off => Sys2Proof.Machine.execJal c rd off s
  | .jalr c rd ra imm => Sys2Proof.Machine.execJalr c rd ra imm s
  | .loop c n ra last => Sys2Proof.Machine.execLoop c n ra last s
  | .loopi c n count last => Sys2Proof.Machine.execLoopi c n count last s
  | .csrr c rd csr => Sys2Proof.Machine.execCsrr c rd csr s
  | .csrw c rs csr => Sys2Proof.Machine.execCsrw c rs csr s
  | .setf c x => Sys2Proof.Machine.execSetf c x s
  | .clrf c x => Sys2Proof.Machine.execClrf c x s
  | .tstf c x => Sys2Proof.Machine.execTstf c x s
  | .waitf c x => Sys2Proof.Machine.execWaitf c x s
  | .carr c x => Sys2Proof.Machine.execCarr c x s
  | .time c rd => Sys2Proof.Machine.execTime c rd s
  | .waitt c ra => Sys2Proof.Machine.execWaitt c ra s
  | .issue c rd ra slot => Sys2Proof.Machine.execIssue c rd ra slot s
  | .issuer c rd ra rb => Sys2Proof.Machine.execIssuer c rd ra rb s
  | .mqry c rd ra sel => Sys2Proof.Machine.execMqry c rd ra sel s
  | .mwait c x => Sys2Proof.Machine.execMwait c x s
  | .end_ c => Sys2Proof.Machine.execEnd c s
  | .waitTimeout c => Sys2Proof.Machine.execWaitTimeout c s
  | .loadw c => Sys2Proof.Machine.execLoadw c s
  | .stream c once again => Sys2Proof.Machine.execStream c once again s
  | .diagnosisDone c cols other further => Sys2Proof.Machine.execDiagnosisDone c cols other further s
  | .arrCntClr c => Sys2Proof.Machine.execArrCntClr c s
  | .vecAdd c => Sys2Proof.Machine.execVecAdd c s
  | .vecSub c => Sys2Proof.Machine.execVecSub c s
  | .vecMul c => Sys2Proof.Machine.execVecMul c s
  | .vecFma c => Sys2Proof.Machine.execVecFma c s
  | .vecMax c => Sys2Proof.Machine.execVecMax c s
  | .vecMin c => Sys2Proof.Machine.execVecMin c s
  | .vecAdds c => Sys2Proof.Machine.execVecAdds c s
  | .vecMuls c => Sys2Proof.Machine.execVecMuls c s
  | .vecAbs c => Sys2Proof.Machine.execVecAbs c s
  | .vecNeg c => Sys2Proof.Machine.execVecNeg c s
  | .vecRelu c => Sys2Proof.Machine.execVecRelu c s
  | .vecExp c => Sys2Proof.Machine.execVecExp c s
  | .vecRecip c => Sys2Proof.Machine.execVecRecip c s
  | .vecRsqrt c => Sys2Proof.Machine.execVecRsqrt c s
  | .vecAnd c => Sys2Proof.Machine.execVecAnd c s
  | .vecOr c => Sys2Proof.Machine.execVecOr c s
  | .vecXor c => Sys2Proof.Machine.execVecXor c s
  | .reduceSum c => Sys2Proof.Machine.execReduceSum c s
  | .reduceMax c => Sys2Proof.Machine.execReduceMax c s
  | .reduceMin c => Sys2Proof.Machine.execReduceMin c s
  | .reduceSumsq c => Sys2Proof.Machine.execReduceSumsq c s
  | .convert c => Sys2Proof.Machine.execConvert c s
  | .combine c => Sys2Proof.Machine.execCombine c s
  | .gather c => Sys2Proof.Machine.execGather c s
  | .sendPut c => Sys2Proof.Machine.execSendPut c s
  | .sendContrib c => Sys2Proof.Machine.execSendContrib c s
  | .recv c => Sys2Proof.Machine.execRecv c s
  | .norespTimeout c => Sys2Proof.Machine.execNorespTimeout c s
  | .sort c => Sys2Proof.Machine.execSort c s
  | .topk c => Sys2Proof.Machine.execTopk c s
  | .filter c => Sys2Proof.Machine.execFilter c s
  | .compress c => Sys2Proof.Machine.execCompress c s
  | .scatteraddAdd c => Sys2Proof.Machine.execScatteraddAdd c s
  | .scatteraddIntoRows c => Sys2Proof.Machine.execScatteraddIntoRows c s
  | .scatteraddMerge c => Sys2Proof.Machine.execScatteraddMerge c s
  | .scatteraddDrain c => Sys2Proof.Machine.execScatteraddDrain c s
  | .route c => Sys2Proof.Machine.execRoute c s
  | .mopWaitf c q => Sys2Proof.Machine.execMopWaitf c q s
  | .setfSet c q => Sys2Proof.Machine.execSetfSet c q s
  | .setfClear c q => Sys2Proof.Machine.execSetfClear c q s
  | .setfRemote c q => Sys2Proof.Machine.execSetfRemote c q s
  | .setfCarr c q => Sys2Proof.Machine.execSetfCarr c q s
  | .cueStart c q => Sys2Proof.Machine.execCueStart c q s
  | .cueTime c q => Sys2Proof.Machine.execCueTime c q s
  | .mopComplete c q n => Sys2Proof.Machine.execMopComplete c q n s
  | .devJobSeedLoWrite j v => Sys2Proof.Machine.execDevJobSeedLoWrite j v s
  | .devJobSeedHiWrite j v => Sys2Proof.Machine.execDevJobSeedHiWrite j v s
  | .devJobSeedLoRead m j => Sys2Proof.Machine.execDevJobSeedLoRead m j s
  | .devJobStepLoWrite j v => Sys2Proof.Machine.execDevJobStepLoWrite j v s
  | .devJobStepHiWrite j v => Sys2Proof.Machine.execDevJobStepHiWrite j v s
  | .devJobStepLoRead m j => Sys2Proof.Machine.execDevJobStepLoRead m j s
  | .devJobAdvance j => Sys2Proof.Machine.execDevJobAdvance j s
  | .flagWrite m c f v => Sys2Proof.Machine.execFlagWrite m c f v s
  | .scratchWriteCounted m c off data => Sys2Proof.Machine.execScratchWriteCounted m c off data s
  | .cntAnnounce m c slot v => Sys2Proof.Machine.execCntAnnounce m c slot v s
  | .mbPushLo m c box wide v => Sys2Proof.Machine.execMbPushLo m c box wide v s
  | .mbPushHi m c box v => Sys2Proof.Machine.execMbPushHi m c box v s
  | .mbPopLo m c box wide => Sys2Proof.Machine.execMbPopLo m c box wide s
  | .mbPopHi m c box => Sys2Proof.Machine.execMbPopHi m c box s
  | .mbStatusClr m c box => Sys2Proof.Machine.execMbStatusClr m c box s
  | .stackAccess m n off len hint write => Sys2Proof.Machine.execStackAccess m n off len hint write s
  | .refresh n p => Sys2Proof.Machine.execRefresh n p s
  | .scrubRead n flips => Sys2Proof.Machine.execScrubRead n flips s
  | .stackTempRead n t => Sys2Proof.Machine.execStackTempRead n t s
  | .recentre n p d => Sys2Proof.Machine.execRecentre n p d s
  | .retrainRequest n => Sys2Proof.Machine.execRetrainRequest n s
  | .pchRetrainDone n good => Sys2Proof.Machine.execPchRetrainDone n good s
  | .stkFenceWrite n mask => Sys2Proof.Machine.execStkFenceWrite n mask s
  | .writeback m n => Sys2Proof.Machine.execWriteback m n s
  | .invalidate m n => Sys2Proof.Machine.execInvalidate m n s
  | .unprotect m n => Sys2Proof.Machine.execUnprotect m n s
  | .discard m n => Sys2Proof.Machine.execDiscard m n s
  | .cacheopDone n => Sys2Proof.Machine.execCacheopDone n s
  | .stkCntClr n => Sys2Proof.Machine.execStkCntClr n s
  | .sqDoorbell r v => Sys2Proof.Machine.execSqDoorbell r v s
  | .cqDoorbell r v => Sys2Proof.Machine.execCqDoorbell r v s
  | .evqDoorbell v => Sys2Proof.Machine.execEvqDoorbell v s
  | .descriptorFetch r words => Sys2Proof.Machine.execDescriptorFetch r words s
  | .nop r q => Sys2Proof.Machine.execNop r q s
  | .cfgBatch r q records => Sys2Proof.Machine.execCfgBatch r q records s
  | .poll r q => Sys2Proof.Machine.execPoll r q s
  | .pollTimeout r q => Sys2Proof.Machine.execPollTimeout r q s
  | .copy r q host fails => Sys2Proof.Machine.execCopy r q host fails s
  | .fence r q => Sys2Proof.Machine.execFence r q s
  | .unfence r q => Sys2Proof.Machine.execUnfence r q s
  | .telemetryRead r q fails => Sys2Proof.Machine.execTelemetryRead r q fails s
  | .calRead r q flash host => Sys2Proof.Machine.execCalRead r q flash host s
  | .calWrite r q host good => Sys2Proof.Machine.execCalWrite r q host good s
  | .attest r n q fails => Sys2Proof.Machine.execAttest r n q fails s
  | .remap r q => Sys2Proof.Machine.execRemap r q s
  | .interruptTimer r => Sys2Proof.Machine.execInterruptTimer r s
  | .ringEnable m r => Sys2Proof.Machine.execRingEnable m r s
  | .ringDisable r => Sys2Proof.Machine.execRingDisable r s
  | .hostMemoryError r fetch status => Sys2Proof.Machine.execHostMemoryError r fetch status s
  | .eventWrite => Sys2Proof.Machine.execEventWrite s
  | .evqEnable m en => Sys2Proof.Machine.execEvqEnable m en s
  | .hifCntClr => Sys2Proof.Machine.execHifCntClr s
  | .pcieLinkDown => Sys2Proof.Machine.execPcieLinkDown s
  | .perst => Sys2Proof.Machine.execPerst s
  | .ufail m c => Sys2Proof.Machine.execUfail m c s
  | .switchinPowerUpDone c => Sys2Proof.Machine.execSwitchinPowerUpDone c s
  | .migrationDone c refail => Sys2Proof.Machine.execMigrationDone c refail s
  | .switchinRunning c refail unc => Sys2Proof.Machine.execSwitchinRunning c refail unc s
  | .laneDriftCheck margins => Sys2Proof.Machine.execLaneDriftCheck margins s
  | .rejectClear => Sys2Proof.Machine.execRejectClear s
  | .errCntClr => Sys2Proof.Machine.execErrCntClr s
  | .arbAdvance m v => Sys2Proof.Machine.execArbAdvance m v s
  | .arbAdvanceDone => Sys2Proof.Machine.execArbAdvanceDone s
  | .updateGo => Sys2Proof.Machine.execUpdateGo s
  | .updateDone good => Sys2Proof.Machine.execUpdateDone good s
  | .pushGo good => Sys2Proof.Machine.execPushGo good s
  | .debugTokenSubmit jtag => Sys2Proof.Machine.execDebugTokenSubmit jtag s
  | .getVersion => Sys2Proof.Machine.execGetVersion s
  | .getCapabilities => Sys2Proof.Machine.execGetCapabilities s
  | .negotiateAlgorithms p256 sha256 dmtf => Sys2Proof.Machine.execNegotiateAlgorithms p256 sha256 dmtf s
  | .getDigests => Sys2Proof.Machine.execGetDigests s
  | .getCertificate slot off len => Sys2Proof.Machine.execGetCertificate slot off len s
  | .challenge slot summary => Sys2Proof.Machine.execChallenge slot summary s
  | .getMeasurements index signed => Sys2Proof.Machine.execGetMeasurements index signed s
  | .doeAbort => Sys2Proof.Machine.execDoeAbort s
  | .bypass tdi => Sys2Proof.Machine.execBypass tdi s
  | .idcode => Sys2Proof.Machine.execIdcode s
  | .sample lands => Sys2Proof.Machine.execSample lands s
  | .preload cells => Sys2Proof.Machine.execPreload cells s
  | .extest lands cells => Sys2Proof.Machine.execExtest lands cells s
  | .highz tdi => Sys2Proof.Machine.execHighz tdi s
  | .clamp tdi => Sys2Proof.Machine.execClamp tdi s
  | .extestPulse lands cells => Sys2Proof.Machine.execExtestPulse lands cells s
  | .extestTrain lands cells => Sys2Proof.Machine.execExtestTrain lands cells s
  | .sensorRead temps => Sys2Proof.Machine.execSensorRead temps s
  | .capStepDown n => Sys2Proof.Machine.execCapStepDown n s
  | .capStepUp n => Sys2Proof.Machine.execCapStepUp n s
  | .stgTargetWrite n mhz => Sys2Proof.Machine.execStgTargetWrite n mhz s
  | .vsettleDone n => Sys2Proof.Machine.execVsettleDone n s
  | .slewDone n => Sys2Proof.Machine.execSlewDone n s
  | .pllUnlock k => Sys2Proof.Machine.execPllUnlock k s
  | .pllRelock k => Sys2Proof.Machine.execPllRelock k s
  | .pllRelockRetry k => Sys2Proof.Machine.execPllRelockRetry k s
  | .domainWake d => Sys2Proof.Machine.execDomainWake d s
  | .engineIdleOff n => Sys2Proof.Machine.execEngineIdleOff n s
  | .sscApply => Sys2Proof.Machine.execSscApply s
  | .pwrCntClr => Sys2Proof.Machine.execPwrCntClr s
  | .clkCntUnlockClr => Sys2Proof.Machine.execClkCntUnlockClr s
  | .sysReset high powerOn lands => Sys2Proof.Machine.execSysReset high powerOn lands s
  | .aonDone => Sys2Proof.Machine.execAonDone s
  | .romCheckDone readError => Sys2Proof.Machine.execRomCheckDone readError s
  | .calreadDone missing => Sys2Proof.Machine.execCalreadDone missing s
  | .harbourDone => Sys2Proof.Machine.execHarbourDone s
  | .bringupDone trained groupsBad => Sys2Proof.Machine.execBringupDone trained groupsBad s
  | .smbStatus pec => Sys2Proof.Machine.execSmbStatus pec s
  | .smbHottest pec => Sys2Proof.Machine.execSmbHottest pec s
  | .smbRegaddr v pec => Sys2Proof.Machine.execSmbRegaddr v pec s
  | .smbRegdata w pec => Sys2Proof.Machine.execSmbRegdata w pec s
  | .smbGpiodir w pec => Sys2Proof.Machine.execSmbGpiodir w pec s
  | .smbGpioout w pec => Sys2Proof.Machine.execSmbGpioout w pec s
  | .smbGpioin lands pec => Sys2Proof.Machine.execSmbGpioin lands pec s
  | .smbSlew w pec => Sys2Proof.Machine.execSmbSlew w pec s
  | .farLoadDataReturn c q => Sys2Proof.Machine.execFarLoadDataReturn c q s
  | .msixTableAccess write word v => Sys2Proof.Machine.execMsixTableAccess write word v s
  | .configRequest write reg v => Sys2Proof.Machine.execConfigRequest write reg v s
  | .pcieLinkUp gen width => Sys2Proof.Machine.execPcieLinkUp gen width s
  | .perstRelease => Sys2Proof.Machine.execPerstRelease s
  | .ref10mRestore => Sys2Proof.Machine.execRef10mRestore s
  | .illegalInstruction c => Sys2Proof.Machine.execIllegalInstruction c s
  | .unsupportedRequest code => Sys2Proof.Machine.execUnsupportedRequest code s
  | .smbUnlistedCommand code => Sys2Proof.Machine.execSmbUnlistedCommand code s
  | .smbusClockLowTimeout => Sys2Proof.Machine.execSmbusClockLowTimeout s
  | .reservedDescriptorKind r q => Sys2Proof.Machine.execReservedDescriptorKind r q s

end Sys2Proof.Machine
end

