-- ==== Sys2Proof/Laws/State.lean ====
section
/-! SUPPORT. What each plain update of the state leaves as it was: one lemma per update and field, and per update and
accessor. -/

namespace Sys2Proof.Laws

open Sys2Proof.Machine

/-! `wr`. -/

@[simp] theorem wr_shadow (s : State) (r : Reg) (i j v : Nat) : (s.wr r i j v).shadow = s.shadow := rfl
@[simp] theorem wr_armedBy (s : State) (r : Reg) (i j v : Nat) : (s.wr r i j v).armedBy = s.armedBy := rfl
@[simp] theorem wr_ticks (s : State) (r : Reg) (i j v : Nat) : (s.wr r i j v).ticks = s.ticks := rfl
@[simp] theorem wr_fabTime (s : State) (r : Reg) (i j v : Nat) : (s.wr r i j v).fabTime = s.fabTime := rfl
@[simp] theorem wr_freeCtr (s : State) (r : Reg) (i j v : Nat) : (s.wr r i j v).freeCtr = s.freeCtr := rfl
@[simp] theorem wr_events (s : State) (r : Reg) (i j v : Nat) : (s.wr r i j v).events = s.events := rfl
@[simp] theorem wr_eventSeq (s : State) (r : Reg) (i j v : Nat) : (s.wr r i j v).eventSeq = s.eventSeq := rfl
@[simp] theorem wr_net (s : State) (r : Reg) (i j v : Nat) : (s.wr r i j v).net = s.net := rfl
@[simp] theorem wr_pools (s : State) (r : Reg) (i j v : Nat) : (s.wr r i j v).pools = s.pools := rfl
@[simp] theorem wr_timers (s : State) (r : Reg) (i j v : Nat) : (s.wr r i j v).timers = s.timers := rfl
@[simp] theorem wr_fuses (s : State) (r : Reg) (i j v : Nat) : (s.wr r i j v).fuses = s.fuses := rfl
@[simp] theorem wr_tm (s : State) (r : Reg) (i j v : Nat) : (s.wr r i j v).tm = s.tm := rfl
@[simp] theorem wr_mem (s : State) (r : Reg) (i j v : Nat) : (s.wr r i j v).mem = s.mem := rfl
@[simp] theorem wr_stackMem (s : State) (r : Reg) (i j v : Nat) : (s.wr r i j v).stackMem = s.stackMem := rfl
@[simp] theorem wr_cal (s : State) (r : Reg) (i j v : Nat) : (s.wr r i j v).cal = s.cal := rfl
@[simp] theorem wr_out (s : State) (r : Reg) (i j v : Nat) : (s.wr r i j v).out = s.out := rfl
@[simp] theorem wr_clus (s : State) (r : Reg) (i j v : Nat) : (s.wr r i j v).clus = s.clus := rfl
@[simp] theorem wr_colls (s : State) (r : Reg) (i j v : Nat) : (s.wr r i j v).colls = s.colls := rfl
@[simp] theorem wr_held (s : State) (r : Reg) (i j v : Nat) : (s.wr r i j v).held = s.held := rfl
@[simp] theorem wr_hif (s : State) (r : Reg) (i j v : Nat) : (s.wr r i j v).hif = s.hif := rfl
@[simp] theorem wr_sec (s : State) (r : Reg) (i j v : Nat) : (s.wr r i j v).sec = s.sec := rfl
@[simp] theorem wr_dies (s : State) (r : Reg) (i j v : Nat) : (s.wr r i j v).dies = s.dies := rfl
@[simp] theorem wr_heat (s : State) (r : Reg) (i j v : Nat) : (s.wr r i j v).heat = s.heat := rfl
@[simp] theorem wr_board (s : State) (r : Reg) (i j v : Nat) : (s.wr r i j v).board = s.board := rfl
@[simp] theorem wr_flash (s : State) (r : Reg) (i j v : Nat) : (s.wr r i j v).flash = s.flash := rfl
@[simp] theorem wr_jobs (s : State) (r : Reg) (i j v : Nat) : (s.wr r i j v).jobs = s.jobs := rfl
@[simp] theorem wr_laneMargin (s : State) (r : Reg) (i j v : Nat) : (s.wr r i j v).laneMargin = s.laneMargin := rfl
@[simp] theorem wr_upsets (s : State) (r : Reg) (i j v : Nat) : (s.wr r i j v).upsets = s.upsets := rfl
@[simp] theorem wr_posts (s : State) (r : Reg) (i j v : Nat) : (s.wr r i j v).posts = s.posts := rfl
@[simp] theorem wr_pending (s : State) (r : Reg) (i j v : Nat) : (s.wr r i j v).pending = s.pending := rfl
@[simp] theorem wr_clu_of (s : State) (r : Reg) (i j v : Nat) (c' : Nat) : (s.wr r i j v).clu c' = s.clu c' := rfl
@[simp] theorem wr_coll_of (s : State) (r : Reg) (i j v : Nat) (x' : Nat) : (s.wr r i j v).coll x' = s.coll x' := rfl
@[simp] theorem wr_ring_of (s : State) (r : Reg) (i j v : Nat) (r' : Nat) : (s.wr r i j v).ring r' = s.ring r' := rfl
@[simp] theorem wr_job_of (s : State) (r : Reg) (i j v : Nat) (j' : Nat) : (s.wr r i j v).job j' = s.job j' := rfl
@[simp] theorem wr_pool_of (s : State) (r : Reg) (i j v : Nat) (k' : Nat) : (s.wr r i j v).pool k' = s.pool k' := rfl
@[simp] theorem wr_link_of (s : State) (r : Reg) (i j v : Nat) (p' : Nat) : (s.wr r i j v).link p' = s.link p' := rfl
@[simp] theorem wr_queue_of (s : State) (r : Reg) (i j v : Nat) (p' c' : Nat) : (s.wr r i j v).queue p' c' = s.queue p' c' := rfl
@[simp] theorem wr_pkt_of (s : State) (r : Reg) (i j v : Nat) (n' : Nat) : (s.wr r i j v).pkt n' = s.pkt n' := rfl
@[simp] theorem wr_die_of (s : State) (r : Reg) (i j v : Nat) (n' : Nat) : (s.wr r i j v).die n' = s.die n' := rfl
@[simp] theorem wr_stack_of (s : State) (r : Reg) (i j v : Nat) (n' : Nat) : (s.wr r i j v).stack n' = s.stack n' := rfl
@[simp] theorem wr_nowNs_of (s : State) (r : Reg) (i j v : Nat) : (s.wr r i j v).nowNs = s.nowNs := rfl
@[simp] theorem wr_memRead_of (s : State) (r : Reg) (i j v : Nat) (a' n' : Nat) : (s.wr r i j v).memRead a' n' = s.memRead a' n' := rfl
@[simp] theorem wr_passedUs_of (s : State) (r : Reg) (i j v : Nat) (t' us' : Nat) : (s.wr r i j v).passedUs t' us' = s.passedUs t' us' := rfl

/-! `set`. -/

@[simp] theorem set_shadow (s : State) (f : Fld) (v i j : Nat) : (s.set f v i j).shadow = s.shadow := rfl
@[simp] theorem set_armedBy (s : State) (f : Fld) (v i j : Nat) : (s.set f v i j).armedBy = s.armedBy := rfl
@[simp] theorem set_ticks (s : State) (f : Fld) (v i j : Nat) : (s.set f v i j).ticks = s.ticks := rfl
@[simp] theorem set_fabTime (s : State) (f : Fld) (v i j : Nat) : (s.set f v i j).fabTime = s.fabTime := rfl
@[simp] theorem set_freeCtr (s : State) (f : Fld) (v i j : Nat) : (s.set f v i j).freeCtr = s.freeCtr := rfl
@[simp] theorem set_events (s : State) (f : Fld) (v i j : Nat) : (s.set f v i j).events = s.events := rfl
@[simp] theorem set_eventSeq (s : State) (f : Fld) (v i j : Nat) : (s.set f v i j).eventSeq = s.eventSeq := rfl
@[simp] theorem set_net (s : State) (f : Fld) (v i j : Nat) : (s.set f v i j).net = s.net := rfl
@[simp] theorem set_pools (s : State) (f : Fld) (v i j : Nat) : (s.set f v i j).pools = s.pools := rfl
@[simp] theorem set_timers (s : State) (f : Fld) (v i j : Nat) : (s.set f v i j).timers = s.timers := rfl
@[simp] theorem set_fuses (s : State) (f : Fld) (v i j : Nat) : (s.set f v i j).fuses = s.fuses := rfl
@[simp] theorem set_tm (s : State) (f : Fld) (v i j : Nat) : (s.set f v i j).tm = s.tm := rfl
@[simp] theorem set_mem (s : State) (f : Fld) (v i j : Nat) : (s.set f v i j).mem = s.mem := rfl
@[simp] theorem set_stackMem (s : State) (f : Fld) (v i j : Nat) : (s.set f v i j).stackMem = s.stackMem := rfl
@[simp] theorem set_cal (s : State) (f : Fld) (v i j : Nat) : (s.set f v i j).cal = s.cal := rfl
@[simp] theorem set_out (s : State) (f : Fld) (v i j : Nat) : (s.set f v i j).out = s.out := rfl
@[simp] theorem set_clus (s : State) (f : Fld) (v i j : Nat) : (s.set f v i j).clus = s.clus := rfl
@[simp] theorem set_colls (s : State) (f : Fld) (v i j : Nat) : (s.set f v i j).colls = s.colls := rfl
@[simp] theorem set_held (s : State) (f : Fld) (v i j : Nat) : (s.set f v i j).held = s.held := rfl
@[simp] theorem set_hif (s : State) (f : Fld) (v i j : Nat) : (s.set f v i j).hif = s.hif := rfl
@[simp] theorem set_sec (s : State) (f : Fld) (v i j : Nat) : (s.set f v i j).sec = s.sec := rfl
@[simp] theorem set_dies (s : State) (f : Fld) (v i j : Nat) : (s.set f v i j).dies = s.dies := rfl
@[simp] theorem set_heat (s : State) (f : Fld) (v i j : Nat) : (s.set f v i j).heat = s.heat := rfl
@[simp] theorem set_board (s : State) (f : Fld) (v i j : Nat) : (s.set f v i j).board = s.board := rfl
@[simp] theorem set_flash (s : State) (f : Fld) (v i j : Nat) : (s.set f v i j).flash = s.flash := rfl
@[simp] theorem set_jobs (s : State) (f : Fld) (v i j : Nat) : (s.set f v i j).jobs = s.jobs := rfl
@[simp] theorem set_laneMargin (s : State) (f : Fld) (v i j : Nat) : (s.set f v i j).laneMargin = s.laneMargin := rfl
@[simp] theorem set_upsets (s : State) (f : Fld) (v i j : Nat) : (s.set f v i j).upsets = s.upsets := rfl
@[simp] theorem set_posts (s : State) (f : Fld) (v i j : Nat) : (s.set f v i j).posts = s.posts := rfl
@[simp] theorem set_pending (s : State) (f : Fld) (v i j : Nat) : (s.set f v i j).pending = s.pending := rfl
@[simp] theorem set_clu_of (s : State) (f : Fld) (v i j : Nat) (c' : Nat) : (s.set f v i j).clu c' = s.clu c' := rfl
@[simp] theorem set_coll_of (s : State) (f : Fld) (v i j : Nat) (x' : Nat) : (s.set f v i j).coll x' = s.coll x' := rfl
@[simp] theorem set_ring_of (s : State) (f : Fld) (v i j : Nat) (r' : Nat) : (s.set f v i j).ring r' = s.ring r' := rfl
@[simp] theorem set_job_of (s : State) (f : Fld) (v i j : Nat) (j' : Nat) : (s.set f v i j).job j' = s.job j' := rfl
@[simp] theorem set_pool_of (s : State) (f : Fld) (v i j : Nat) (k' : Nat) : (s.set f v i j).pool k' = s.pool k' := rfl
@[simp] theorem set_link_of (s : State) (f : Fld) (v i j : Nat) (p' : Nat) : (s.set f v i j).link p' = s.link p' := rfl
@[simp] theorem set_queue_of (s : State) (f : Fld) (v i j : Nat) (p' c' : Nat) : (s.set f v i j).queue p' c' = s.queue p' c' := rfl
@[simp] theorem set_pkt_of (s : State) (f : Fld) (v i j : Nat) (n' : Nat) : (s.set f v i j).pkt n' = s.pkt n' := rfl
@[simp] theorem set_die_of (s : State) (f : Fld) (v i j : Nat) (n' : Nat) : (s.set f v i j).die n' = s.die n' := rfl
@[simp] theorem set_stack_of (s : State) (f : Fld) (v i j : Nat) (n' : Nat) : (s.set f v i j).stack n' = s.stack n' := rfl
@[simp] theorem set_nowNs_of (s : State) (f : Fld) (v i j : Nat) : (s.set f v i j).nowNs = s.nowNs := rfl
@[simp] theorem set_memRead_of (s : State) (f : Fld) (v i j : Nat) (a' n' : Nat) : (s.set f v i j).memRead a' n' = s.memRead a' n' := rfl
@[simp] theorem set_passedUs_of (s : State) (f : Fld) (v i j : Nat) (t' us' : Nat) : (s.set f v i j).passedUs t' us' = s.passedUs t' us' := rfl

/-! `bump`. -/

@[simp] theorem bump_shadow (s : State) (f : Fld) (n i j : Nat) : (s.bump f n i j).shadow = s.shadow := rfl
@[simp] theorem bump_armedBy (s : State) (f : Fld) (n i j : Nat) : (s.bump f n i j).armedBy = s.armedBy := rfl
@[simp] theorem bump_ticks (s : State) (f : Fld) (n i j : Nat) : (s.bump f n i j).ticks = s.ticks := rfl
@[simp] theorem bump_fabTime (s : State) (f : Fld) (n i j : Nat) : (s.bump f n i j).fabTime = s.fabTime := rfl
@[simp] theorem bump_freeCtr (s : State) (f : Fld) (n i j : Nat) : (s.bump f n i j).freeCtr = s.freeCtr := rfl
@[simp] theorem bump_events (s : State) (f : Fld) (n i j : Nat) : (s.bump f n i j).events = s.events := rfl
@[simp] theorem bump_eventSeq (s : State) (f : Fld) (n i j : Nat) : (s.bump f n i j).eventSeq = s.eventSeq := rfl
@[simp] theorem bump_net (s : State) (f : Fld) (n i j : Nat) : (s.bump f n i j).net = s.net := rfl
@[simp] theorem bump_pools (s : State) (f : Fld) (n i j : Nat) : (s.bump f n i j).pools = s.pools := rfl
@[simp] theorem bump_timers (s : State) (f : Fld) (n i j : Nat) : (s.bump f n i j).timers = s.timers := rfl
@[simp] theorem bump_fuses (s : State) (f : Fld) (n i j : Nat) : (s.bump f n i j).fuses = s.fuses := rfl
@[simp] theorem bump_tm (s : State) (f : Fld) (n i j : Nat) : (s.bump f n i j).tm = s.tm := rfl
@[simp] theorem bump_mem (s : State) (f : Fld) (n i j : Nat) : (s.bump f n i j).mem = s.mem := rfl
@[simp] theorem bump_stackMem (s : State) (f : Fld) (n i j : Nat) : (s.bump f n i j).stackMem = s.stackMem := rfl
@[simp] theorem bump_cal (s : State) (f : Fld) (n i j : Nat) : (s.bump f n i j).cal = s.cal := rfl
@[simp] theorem bump_out (s : State) (f : Fld) (n i j : Nat) : (s.bump f n i j).out = s.out := rfl
@[simp] theorem bump_clus (s : State) (f : Fld) (n i j : Nat) : (s.bump f n i j).clus = s.clus := rfl
@[simp] theorem bump_colls (s : State) (f : Fld) (n i j : Nat) : (s.bump f n i j).colls = s.colls := rfl
@[simp] theorem bump_held (s : State) (f : Fld) (n i j : Nat) : (s.bump f n i j).held = s.held := rfl
@[simp] theorem bump_hif (s : State) (f : Fld) (n i j : Nat) : (s.bump f n i j).hif = s.hif := rfl
@[simp] theorem bump_sec (s : State) (f : Fld) (n i j : Nat) : (s.bump f n i j).sec = s.sec := rfl
@[simp] theorem bump_dies (s : State) (f : Fld) (n i j : Nat) : (s.bump f n i j).dies = s.dies := rfl
@[simp] theorem bump_heat (s : State) (f : Fld) (n i j : Nat) : (s.bump f n i j).heat = s.heat := rfl
@[simp] theorem bump_board (s : State) (f : Fld) (n i j : Nat) : (s.bump f n i j).board = s.board := rfl
@[simp] theorem bump_flash (s : State) (f : Fld) (n i j : Nat) : (s.bump f n i j).flash = s.flash := rfl
@[simp] theorem bump_jobs (s : State) (f : Fld) (n i j : Nat) : (s.bump f n i j).jobs = s.jobs := rfl
@[simp] theorem bump_laneMargin (s : State) (f : Fld) (n i j : Nat) : (s.bump f n i j).laneMargin = s.laneMargin := rfl
@[simp] theorem bump_upsets (s : State) (f : Fld) (n i j : Nat) : (s.bump f n i j).upsets = s.upsets := rfl
@[simp] theorem bump_posts (s : State) (f : Fld) (n i j : Nat) : (s.bump f n i j).posts = s.posts := rfl
@[simp] theorem bump_pending (s : State) (f : Fld) (n i j : Nat) : (s.bump f n i j).pending = s.pending := rfl
@[simp] theorem bump_clu_of (s : State) (f : Fld) (n i j : Nat) (c' : Nat) : (s.bump f n i j).clu c' = s.clu c' := rfl
@[simp] theorem bump_coll_of (s : State) (f : Fld) (n i j : Nat) (x' : Nat) : (s.bump f n i j).coll x' = s.coll x' := rfl
@[simp] theorem bump_ring_of (s : State) (f : Fld) (n i j : Nat) (r' : Nat) : (s.bump f n i j).ring r' = s.ring r' := rfl
@[simp] theorem bump_job_of (s : State) (f : Fld) (n i j : Nat) (j' : Nat) : (s.bump f n i j).job j' = s.job j' := rfl
@[simp] theorem bump_pool_of (s : State) (f : Fld) (n i j : Nat) (k' : Nat) : (s.bump f n i j).pool k' = s.pool k' := rfl
@[simp] theorem bump_link_of (s : State) (f : Fld) (n i j : Nat) (p' : Nat) : (s.bump f n i j).link p' = s.link p' := rfl
@[simp] theorem bump_queue_of (s : State) (f : Fld) (n i j : Nat) (p' c' : Nat) : (s.bump f n i j).queue p' c' = s.queue p' c' := rfl
@[simp] theorem bump_pkt_of (s : State) (f : Fld) (n i j : Nat) (n' : Nat) : (s.bump f n i j).pkt n' = s.pkt n' := rfl
@[simp] theorem bump_die_of (s : State) (f : Fld) (n i j : Nat) (n' : Nat) : (s.bump f n i j).die n' = s.die n' := rfl
@[simp] theorem bump_stack_of (s : State) (f : Fld) (n i j : Nat) (n' : Nat) : (s.bump f n i j).stack n' = s.stack n' := rfl
@[simp] theorem bump_nowNs_of (s : State) (f : Fld) (n i j : Nat) : (s.bump f n i j).nowNs = s.nowNs := rfl
@[simp] theorem bump_memRead_of (s : State) (f : Fld) (n i j : Nat) (a' n' : Nat) : (s.bump f n i j).memRead a' n' = s.memRead a' n' := rfl
@[simp] theorem bump_passedUs_of (s : State) (f : Fld) (n i j : Nat) (t' us' : Nat) : (s.bump f n i j).passedUs t' us' = s.passedUs t' us' := rfl

/-! `zero`. -/

@[simp] theorem zero_shadow (s : State) (r : Reg) (i j : Nat) : (s.zero r i j).shadow = s.shadow := rfl
@[simp] theorem zero_armedBy (s : State) (r : Reg) (i j : Nat) : (s.zero r i j).armedBy = s.armedBy := rfl
@[simp] theorem zero_ticks (s : State) (r : Reg) (i j : Nat) : (s.zero r i j).ticks = s.ticks := rfl
@[simp] theorem zero_fabTime (s : State) (r : Reg) (i j : Nat) : (s.zero r i j).fabTime = s.fabTime := rfl
@[simp] theorem zero_freeCtr (s : State) (r : Reg) (i j : Nat) : (s.zero r i j).freeCtr = s.freeCtr := rfl
@[simp] theorem zero_events (s : State) (r : Reg) (i j : Nat) : (s.zero r i j).events = s.events := rfl
@[simp] theorem zero_eventSeq (s : State) (r : Reg) (i j : Nat) : (s.zero r i j).eventSeq = s.eventSeq := rfl
@[simp] theorem zero_net (s : State) (r : Reg) (i j : Nat) : (s.zero r i j).net = s.net := rfl
@[simp] theorem zero_pools (s : State) (r : Reg) (i j : Nat) : (s.zero r i j).pools = s.pools := rfl
@[simp] theorem zero_timers (s : State) (r : Reg) (i j : Nat) : (s.zero r i j).timers = s.timers := rfl
@[simp] theorem zero_fuses (s : State) (r : Reg) (i j : Nat) : (s.zero r i j).fuses = s.fuses := rfl
@[simp] theorem zero_tm (s : State) (r : Reg) (i j : Nat) : (s.zero r i j).tm = s.tm := rfl
@[simp] theorem zero_mem (s : State) (r : Reg) (i j : Nat) : (s.zero r i j).mem = s.mem := rfl
@[simp] theorem zero_stackMem (s : State) (r : Reg) (i j : Nat) : (s.zero r i j).stackMem = s.stackMem := rfl
@[simp] theorem zero_cal (s : State) (r : Reg) (i j : Nat) : (s.zero r i j).cal = s.cal := rfl
@[simp] theorem zero_out (s : State) (r : Reg) (i j : Nat) : (s.zero r i j).out = s.out := rfl
@[simp] theorem zero_clus (s : State) (r : Reg) (i j : Nat) : (s.zero r i j).clus = s.clus := rfl
@[simp] theorem zero_colls (s : State) (r : Reg) (i j : Nat) : (s.zero r i j).colls = s.colls := rfl
@[simp] theorem zero_held (s : State) (r : Reg) (i j : Nat) : (s.zero r i j).held = s.held := rfl
@[simp] theorem zero_hif (s : State) (r : Reg) (i j : Nat) : (s.zero r i j).hif = s.hif := rfl
@[simp] theorem zero_sec (s : State) (r : Reg) (i j : Nat) : (s.zero r i j).sec = s.sec := rfl
@[simp] theorem zero_dies (s : State) (r : Reg) (i j : Nat) : (s.zero r i j).dies = s.dies := rfl
@[simp] theorem zero_heat (s : State) (r : Reg) (i j : Nat) : (s.zero r i j).heat = s.heat := rfl
@[simp] theorem zero_board (s : State) (r : Reg) (i j : Nat) : (s.zero r i j).board = s.board := rfl
@[simp] theorem zero_flash (s : State) (r : Reg) (i j : Nat) : (s.zero r i j).flash = s.flash := rfl
@[simp] theorem zero_jobs (s : State) (r : Reg) (i j : Nat) : (s.zero r i j).jobs = s.jobs := rfl
@[simp] theorem zero_laneMargin (s : State) (r : Reg) (i j : Nat) : (s.zero r i j).laneMargin = s.laneMargin := rfl
@[simp] theorem zero_upsets (s : State) (r : Reg) (i j : Nat) : (s.zero r i j).upsets = s.upsets := rfl
@[simp] theorem zero_posts (s : State) (r : Reg) (i j : Nat) : (s.zero r i j).posts = s.posts := rfl
@[simp] theorem zero_pending (s : State) (r : Reg) (i j : Nat) : (s.zero r i j).pending = s.pending := rfl
@[simp] theorem zero_clu_of (s : State) (r : Reg) (i j : Nat) (c' : Nat) : (s.zero r i j).clu c' = s.clu c' := rfl
@[simp] theorem zero_coll_of (s : State) (r : Reg) (i j : Nat) (x' : Nat) : (s.zero r i j).coll x' = s.coll x' := rfl
@[simp] theorem zero_ring_of (s : State) (r : Reg) (i j : Nat) (r' : Nat) : (s.zero r i j).ring r' = s.ring r' := rfl
@[simp] theorem zero_job_of (s : State) (r : Reg) (i j : Nat) (j' : Nat) : (s.zero r i j).job j' = s.job j' := rfl
@[simp] theorem zero_pool_of (s : State) (r : Reg) (i j : Nat) (k' : Nat) : (s.zero r i j).pool k' = s.pool k' := rfl
@[simp] theorem zero_link_of (s : State) (r : Reg) (i j : Nat) (p' : Nat) : (s.zero r i j).link p' = s.link p' := rfl
@[simp] theorem zero_queue_of (s : State) (r : Reg) (i j : Nat) (p' c' : Nat) : (s.zero r i j).queue p' c' = s.queue p' c' := rfl
@[simp] theorem zero_pkt_of (s : State) (r : Reg) (i j : Nat) (n' : Nat) : (s.zero r i j).pkt n' = s.pkt n' := rfl
@[simp] theorem zero_die_of (s : State) (r : Reg) (i j : Nat) (n' : Nat) : (s.zero r i j).die n' = s.die n' := rfl
@[simp] theorem zero_stack_of (s : State) (r : Reg) (i j : Nat) (n' : Nat) : (s.zero r i j).stack n' = s.stack n' := rfl
@[simp] theorem zero_nowNs_of (s : State) (r : Reg) (i j : Nat) : (s.zero r i j).nowNs = s.nowNs := rfl
@[simp] theorem zero_memRead_of (s : State) (r : Reg) (i j : Nat) (a' n' : Nat) : (s.zero r i j).memRead a' n' = s.memRead a' n' := rfl
@[simp] theorem zero_passedUs_of (s : State) (r : Reg) (i j : Nat) (t' us' : Nat) : (s.zero r i j).passedUs t' us' = s.passedUs t' us' := rfl

/-! `wrShadow`. -/

@[simp] theorem wrShadow_regs (s : State) (r : Reg) (i j v : Nat) : (s.wrShadow r i j v).regs = s.regs := rfl
@[simp] theorem wrShadow_armedBy (s : State) (r : Reg) (i j v : Nat) : (s.wrShadow r i j v).armedBy = s.armedBy := rfl
@[simp] theorem wrShadow_ticks (s : State) (r : Reg) (i j v : Nat) : (s.wrShadow r i j v).ticks = s.ticks := rfl
@[simp] theorem wrShadow_fabTime (s : State) (r : Reg) (i j v : Nat) : (s.wrShadow r i j v).fabTime = s.fabTime := rfl
@[simp] theorem wrShadow_freeCtr (s : State) (r : Reg) (i j v : Nat) : (s.wrShadow r i j v).freeCtr = s.freeCtr := rfl
@[simp] theorem wrShadow_events (s : State) (r : Reg) (i j v : Nat) : (s.wrShadow r i j v).events = s.events := rfl
@[simp] theorem wrShadow_eventSeq (s : State) (r : Reg) (i j v : Nat) : (s.wrShadow r i j v).eventSeq = s.eventSeq := rfl
@[simp] theorem wrShadow_net (s : State) (r : Reg) (i j v : Nat) : (s.wrShadow r i j v).net = s.net := rfl
@[simp] theorem wrShadow_pools (s : State) (r : Reg) (i j v : Nat) : (s.wrShadow r i j v).pools = s.pools := rfl
@[simp] theorem wrShadow_timers (s : State) (r : Reg) (i j v : Nat) : (s.wrShadow r i j v).timers = s.timers := rfl
@[simp] theorem wrShadow_fuses (s : State) (r : Reg) (i j v : Nat) : (s.wrShadow r i j v).fuses = s.fuses := rfl
@[simp] theorem wrShadow_tm (s : State) (r : Reg) (i j v : Nat) : (s.wrShadow r i j v).tm = s.tm := rfl
@[simp] theorem wrShadow_mem (s : State) (r : Reg) (i j v : Nat) : (s.wrShadow r i j v).mem = s.mem := rfl
@[simp] theorem wrShadow_stackMem (s : State) (r : Reg) (i j v : Nat) : (s.wrShadow r i j v).stackMem = s.stackMem := rfl
@[simp] theorem wrShadow_cal (s : State) (r : Reg) (i j v : Nat) : (s.wrShadow r i j v).cal = s.cal := rfl
@[simp] theorem wrShadow_out (s : State) (r : Reg) (i j v : Nat) : (s.wrShadow r i j v).out = s.out := rfl
@[simp] theorem wrShadow_clus (s : State) (r : Reg) (i j v : Nat) : (s.wrShadow r i j v).clus = s.clus := rfl
@[simp] theorem wrShadow_colls (s : State) (r : Reg) (i j v : Nat) : (s.wrShadow r i j v).colls = s.colls := rfl
@[simp] theorem wrShadow_held (s : State) (r : Reg) (i j v : Nat) : (s.wrShadow r i j v).held = s.held := rfl
@[simp] theorem wrShadow_hif (s : State) (r : Reg) (i j v : Nat) : (s.wrShadow r i j v).hif = s.hif := rfl
@[simp] theorem wrShadow_sec (s : State) (r : Reg) (i j v : Nat) : (s.wrShadow r i j v).sec = s.sec := rfl
@[simp] theorem wrShadow_dies (s : State) (r : Reg) (i j v : Nat) : (s.wrShadow r i j v).dies = s.dies := rfl
@[simp] theorem wrShadow_heat (s : State) (r : Reg) (i j v : Nat) : (s.wrShadow r i j v).heat = s.heat := rfl
@[simp] theorem wrShadow_board (s : State) (r : Reg) (i j v : Nat) : (s.wrShadow r i j v).board = s.board := rfl
@[simp] theorem wrShadow_flash (s : State) (r : Reg) (i j v : Nat) : (s.wrShadow r i j v).flash = s.flash := rfl
@[simp] theorem wrShadow_jobs (s : State) (r : Reg) (i j v : Nat) : (s.wrShadow r i j v).jobs = s.jobs := rfl
@[simp] theorem wrShadow_laneMargin (s : State) (r : Reg) (i j v : Nat) : (s.wrShadow r i j v).laneMargin = s.laneMargin := rfl
@[simp] theorem wrShadow_upsets (s : State) (r : Reg) (i j v : Nat) : (s.wrShadow r i j v).upsets = s.upsets := rfl
@[simp] theorem wrShadow_posts (s : State) (r : Reg) (i j v : Nat) : (s.wrShadow r i j v).posts = s.posts := rfl
@[simp] theorem wrShadow_pending (s : State) (r : Reg) (i j v : Nat) : (s.wrShadow r i j v).pending = s.pending := rfl
@[simp] theorem wrShadow_rd_of (s : State) (r : Reg) (i j v : Nat) (r' : Reg) (i' j' : Nat) : (s.wrShadow r i j v).rd r' i' j' = s.rd r' i' j' := rfl
@[simp] theorem wrShadow_get_of (s : State) (r : Reg) (i j v : Nat) (f' : Fld) (i' j' : Nat) : (s.wrShadow r i j v).get f' i' j' = s.get f' i' j' := rfl
@[simp] theorem wrShadow_flag_of (s : State) (r : Reg) (i j v : Nat) (f' : Fld) (i' j' : Nat) : (s.wrShadow r i j v).flag f' i' j' = s.flag f' i' j' := rfl
@[simp] theorem wrShadow_clu_of (s : State) (r : Reg) (i j v : Nat) (c' : Nat) : (s.wrShadow r i j v).clu c' = s.clu c' := rfl
@[simp] theorem wrShadow_coll_of (s : State) (r : Reg) (i j v : Nat) (x' : Nat) : (s.wrShadow r i j v).coll x' = s.coll x' := rfl
@[simp] theorem wrShadow_ring_of (s : State) (r : Reg) (i j v : Nat) (r' : Nat) : (s.wrShadow r i j v).ring r' = s.ring r' := rfl
@[simp] theorem wrShadow_job_of (s : State) (r : Reg) (i j v : Nat) (j' : Nat) : (s.wrShadow r i j v).job j' = s.job j' := rfl
@[simp] theorem wrShadow_pool_of (s : State) (r : Reg) (i j v : Nat) (k' : Nat) : (s.wrShadow r i j v).pool k' = s.pool k' := rfl
@[simp] theorem wrShadow_link_of (s : State) (r : Reg) (i j v : Nat) (p' : Nat) : (s.wrShadow r i j v).link p' = s.link p' := rfl
@[simp] theorem wrShadow_queue_of (s : State) (r : Reg) (i j v : Nat) (p' c' : Nat) : (s.wrShadow r i j v).queue p' c' = s.queue p' c' := rfl
@[simp] theorem wrShadow_pkt_of (s : State) (r : Reg) (i j v : Nat) (n' : Nat) : (s.wrShadow r i j v).pkt n' = s.pkt n' := rfl
@[simp] theorem wrShadow_die_of (s : State) (r : Reg) (i j v : Nat) (n' : Nat) : (s.wrShadow r i j v).die n' = s.die n' := rfl
@[simp] theorem wrShadow_stack_of (s : State) (r : Reg) (i j v : Nat) (n' : Nat) : (s.wrShadow r i j v).stack n' = s.stack n' := rfl
@[simp] theorem wrShadow_nowNs_of (s : State) (r : Reg) (i j v : Nat) : (s.wrShadow r i j v).nowNs = s.nowNs := rfl
@[simp] theorem wrShadow_memRead_of (s : State) (r : Reg) (i j v : Nat) (a' n' : Nat) : (s.wrShadow r i j v).memRead a' n' = s.memRead a' n' := rfl
@[simp] theorem wrShadow_passedUs_of (s : State) (r : Reg) (i j v : Nat) (t' us' : Nat) : (s.wrShadow r i j v).passedUs t' us' = s.passedUs t' us' := rfl

/-! `setClu`. -/

@[simp] theorem setClu_regs (s : State) (c : Nat) (k : Clu) : (s.setClu c k).regs = s.regs := rfl
@[simp] theorem setClu_shadow (s : State) (c : Nat) (k : Clu) : (s.setClu c k).shadow = s.shadow := rfl
@[simp] theorem setClu_armedBy (s : State) (c : Nat) (k : Clu) : (s.setClu c k).armedBy = s.armedBy := rfl
@[simp] theorem setClu_ticks (s : State) (c : Nat) (k : Clu) : (s.setClu c k).ticks = s.ticks := rfl
@[simp] theorem setClu_fabTime (s : State) (c : Nat) (k : Clu) : (s.setClu c k).fabTime = s.fabTime := rfl
@[simp] theorem setClu_freeCtr (s : State) (c : Nat) (k : Clu) : (s.setClu c k).freeCtr = s.freeCtr := rfl
@[simp] theorem setClu_events (s : State) (c : Nat) (k : Clu) : (s.setClu c k).events = s.events := rfl
@[simp] theorem setClu_eventSeq (s : State) (c : Nat) (k : Clu) : (s.setClu c k).eventSeq = s.eventSeq := rfl
@[simp] theorem setClu_net (s : State) (c : Nat) (k : Clu) : (s.setClu c k).net = s.net := rfl
@[simp] theorem setClu_pools (s : State) (c : Nat) (k : Clu) : (s.setClu c k).pools = s.pools := rfl
@[simp] theorem setClu_timers (s : State) (c : Nat) (k : Clu) : (s.setClu c k).timers = s.timers := rfl
@[simp] theorem setClu_fuses (s : State) (c : Nat) (k : Clu) : (s.setClu c k).fuses = s.fuses := rfl
@[simp] theorem setClu_tm (s : State) (c : Nat) (k : Clu) : (s.setClu c k).tm = s.tm := rfl
@[simp] theorem setClu_mem (s : State) (c : Nat) (k : Clu) : (s.setClu c k).mem = s.mem := rfl
@[simp] theorem setClu_stackMem (s : State) (c : Nat) (k : Clu) : (s.setClu c k).stackMem = s.stackMem := rfl
@[simp] theorem setClu_cal (s : State) (c : Nat) (k : Clu) : (s.setClu c k).cal = s.cal := rfl
@[simp] theorem setClu_out (s : State) (c : Nat) (k : Clu) : (s.setClu c k).out = s.out := rfl
@[simp] theorem setClu_colls (s : State) (c : Nat) (k : Clu) : (s.setClu c k).colls = s.colls := rfl
@[simp] theorem setClu_held (s : State) (c : Nat) (k : Clu) : (s.setClu c k).held = s.held := rfl
@[simp] theorem setClu_hif (s : State) (c : Nat) (k : Clu) : (s.setClu c k).hif = s.hif := rfl
@[simp] theorem setClu_sec (s : State) (c : Nat) (k : Clu) : (s.setClu c k).sec = s.sec := rfl
@[simp] theorem setClu_dies (s : State) (c : Nat) (k : Clu) : (s.setClu c k).dies = s.dies := rfl
@[simp] theorem setClu_heat (s : State) (c : Nat) (k : Clu) : (s.setClu c k).heat = s.heat := rfl
@[simp] theorem setClu_board (s : State) (c : Nat) (k : Clu) : (s.setClu c k).board = s.board := rfl
@[simp] theorem setClu_flash (s : State) (c : Nat) (k : Clu) : (s.setClu c k).flash = s.flash := rfl
@[simp] theorem setClu_jobs (s : State) (c : Nat) (k : Clu) : (s.setClu c k).jobs = s.jobs := rfl
@[simp] theorem setClu_laneMargin (s : State) (c : Nat) (k : Clu) : (s.setClu c k).laneMargin = s.laneMargin := rfl
@[simp] theorem setClu_upsets (s : State) (c : Nat) (k : Clu) : (s.setClu c k).upsets = s.upsets := rfl
@[simp] theorem setClu_posts (s : State) (c : Nat) (k : Clu) : (s.setClu c k).posts = s.posts := rfl
@[simp] theorem setClu_pending (s : State) (c : Nat) (k : Clu) : (s.setClu c k).pending = s.pending := rfl
@[simp] theorem setClu_rd_of (s : State) (c : Nat) (k : Clu) (r' : Reg) (i' j' : Nat) : (s.setClu c k).rd r' i' j' = s.rd r' i' j' := rfl
@[simp] theorem setClu_get_of (s : State) (c : Nat) (k : Clu) (f' : Fld) (i' j' : Nat) : (s.setClu c k).get f' i' j' = s.get f' i' j' := rfl
@[simp] theorem setClu_flag_of (s : State) (c : Nat) (k : Clu) (f' : Fld) (i' j' : Nat) : (s.setClu c k).flag f' i' j' = s.flag f' i' j' := rfl
@[simp] theorem setClu_coll_of (s : State) (c : Nat) (k : Clu) (x' : Nat) : (s.setClu c k).coll x' = s.coll x' := rfl
@[simp] theorem setClu_ring_of (s : State) (c : Nat) (k : Clu) (r' : Nat) : (s.setClu c k).ring r' = s.ring r' := rfl
@[simp] theorem setClu_job_of (s : State) (c : Nat) (k : Clu) (j' : Nat) : (s.setClu c k).job j' = s.job j' := rfl
@[simp] theorem setClu_pool_of (s : State) (c : Nat) (k : Clu) (k' : Nat) : (s.setClu c k).pool k' = s.pool k' := rfl
@[simp] theorem setClu_link_of (s : State) (c : Nat) (k : Clu) (p' : Nat) : (s.setClu c k).link p' = s.link p' := rfl
@[simp] theorem setClu_queue_of (s : State) (c : Nat) (k : Clu) (p' c' : Nat) : (s.setClu c k).queue p' c' = s.queue p' c' := rfl
@[simp] theorem setClu_pkt_of (s : State) (c : Nat) (k : Clu) (n' : Nat) : (s.setClu c k).pkt n' = s.pkt n' := rfl
@[simp] theorem setClu_die_of (s : State) (c : Nat) (k : Clu) (n' : Nat) : (s.setClu c k).die n' = s.die n' := rfl
@[simp] theorem setClu_stack_of (s : State) (c : Nat) (k : Clu) (n' : Nat) : (s.setClu c k).stack n' = s.stack n' := rfl
@[simp] theorem setClu_nowNs_of (s : State) (c : Nat) (k : Clu) : (s.setClu c k).nowNs = s.nowNs := rfl
@[simp] theorem setClu_memRead_of (s : State) (c : Nat) (k : Clu) (a' n' : Nat) : (s.setClu c k).memRead a' n' = s.memRead a' n' := rfl
@[simp] theorem setClu_passedUs_of (s : State) (c : Nat) (k : Clu) (t' us' : Nat) : (s.setClu c k).passedUs t' us' = s.passedUs t' us' := rfl

/-! `setColl`. -/

@[simp] theorem setColl_regs (s : State) (x : Nat) (g : Coll) : (s.setColl x g).regs = s.regs := rfl
@[simp] theorem setColl_shadow (s : State) (x : Nat) (g : Coll) : (s.setColl x g).shadow = s.shadow := rfl
@[simp] theorem setColl_armedBy (s : State) (x : Nat) (g : Coll) : (s.setColl x g).armedBy = s.armedBy := rfl
@[simp] theorem setColl_ticks (s : State) (x : Nat) (g : Coll) : (s.setColl x g).ticks = s.ticks := rfl
@[simp] theorem setColl_fabTime (s : State) (x : Nat) (g : Coll) : (s.setColl x g).fabTime = s.fabTime := rfl
@[simp] theorem setColl_freeCtr (s : State) (x : Nat) (g : Coll) : (s.setColl x g).freeCtr = s.freeCtr := rfl
@[simp] theorem setColl_events (s : State) (x : Nat) (g : Coll) : (s.setColl x g).events = s.events := rfl
@[simp] theorem setColl_eventSeq (s : State) (x : Nat) (g : Coll) : (s.setColl x g).eventSeq = s.eventSeq := rfl
@[simp] theorem setColl_net (s : State) (x : Nat) (g : Coll) : (s.setColl x g).net = s.net := rfl
@[simp] theorem setColl_pools (s : State) (x : Nat) (g : Coll) : (s.setColl x g).pools = s.pools := rfl
@[simp] theorem setColl_timers (s : State) (x : Nat) (g : Coll) : (s.setColl x g).timers = s.timers := rfl
@[simp] theorem setColl_fuses (s : State) (x : Nat) (g : Coll) : (s.setColl x g).fuses = s.fuses := rfl
@[simp] theorem setColl_tm (s : State) (x : Nat) (g : Coll) : (s.setColl x g).tm = s.tm := rfl
@[simp] theorem setColl_mem (s : State) (x : Nat) (g : Coll) : (s.setColl x g).mem = s.mem := rfl
@[simp] theorem setColl_stackMem (s : State) (x : Nat) (g : Coll) : (s.setColl x g).stackMem = s.stackMem := rfl
@[simp] theorem setColl_cal (s : State) (x : Nat) (g : Coll) : (s.setColl x g).cal = s.cal := rfl
@[simp] theorem setColl_out (s : State) (x : Nat) (g : Coll) : (s.setColl x g).out = s.out := rfl
@[simp] theorem setColl_clus (s : State) (x : Nat) (g : Coll) : (s.setColl x g).clus = s.clus := rfl
@[simp] theorem setColl_held (s : State) (x : Nat) (g : Coll) : (s.setColl x g).held = s.held := rfl
@[simp] theorem setColl_hif (s : State) (x : Nat) (g : Coll) : (s.setColl x g).hif = s.hif := rfl
@[simp] theorem setColl_sec (s : State) (x : Nat) (g : Coll) : (s.setColl x g).sec = s.sec := rfl
@[simp] theorem setColl_dies (s : State) (x : Nat) (g : Coll) : (s.setColl x g).dies = s.dies := rfl
@[simp] theorem setColl_heat (s : State) (x : Nat) (g : Coll) : (s.setColl x g).heat = s.heat := rfl
@[simp] theorem setColl_board (s : State) (x : Nat) (g : Coll) : (s.setColl x g).board = s.board := rfl
@[simp] theorem setColl_flash (s : State) (x : Nat) (g : Coll) : (s.setColl x g).flash = s.flash := rfl
@[simp] theorem setColl_jobs (s : State) (x : Nat) (g : Coll) : (s.setColl x g).jobs = s.jobs := rfl
@[simp] theorem setColl_laneMargin (s : State) (x : Nat) (g : Coll) : (s.setColl x g).laneMargin = s.laneMargin := rfl
@[simp] theorem setColl_upsets (s : State) (x : Nat) (g : Coll) : (s.setColl x g).upsets = s.upsets := rfl
@[simp] theorem setColl_posts (s : State) (x : Nat) (g : Coll) : (s.setColl x g).posts = s.posts := rfl
@[simp] theorem setColl_pending (s : State) (x : Nat) (g : Coll) : (s.setColl x g).pending = s.pending := rfl
@[simp] theorem setColl_rd_of (s : State) (x : Nat) (g : Coll) (r' : Reg) (i' j' : Nat) : (s.setColl x g).rd r' i' j' = s.rd r' i' j' := rfl
@[simp] theorem setColl_get_of (s : State) (x : Nat) (g : Coll) (f' : Fld) (i' j' : Nat) : (s.setColl x g).get f' i' j' = s.get f' i' j' := rfl
@[simp] theorem setColl_flag_of (s : State) (x : Nat) (g : Coll) (f' : Fld) (i' j' : Nat) : (s.setColl x g).flag f' i' j' = s.flag f' i' j' := rfl
@[simp] theorem setColl_clu_of (s : State) (x : Nat) (g : Coll) (c' : Nat) : (s.setColl x g).clu c' = s.clu c' := rfl
@[simp] theorem setColl_ring_of (s : State) (x : Nat) (g : Coll) (r' : Nat) : (s.setColl x g).ring r' = s.ring r' := rfl
@[simp] theorem setColl_job_of (s : State) (x : Nat) (g : Coll) (j' : Nat) : (s.setColl x g).job j' = s.job j' := rfl
@[simp] theorem setColl_pool_of (s : State) (x : Nat) (g : Coll) (k' : Nat) : (s.setColl x g).pool k' = s.pool k' := rfl
@[simp] theorem setColl_link_of (s : State) (x : Nat) (g : Coll) (p' : Nat) : (s.setColl x g).link p' = s.link p' := rfl
@[simp] theorem setColl_queue_of (s : State) (x : Nat) (g : Coll) (p' c' : Nat) : (s.setColl x g).queue p' c' = s.queue p' c' := rfl
@[simp] theorem setColl_pkt_of (s : State) (x : Nat) (g : Coll) (n' : Nat) : (s.setColl x g).pkt n' = s.pkt n' := rfl
@[simp] theorem setColl_die_of (s : State) (x : Nat) (g : Coll) (n' : Nat) : (s.setColl x g).die n' = s.die n' := rfl
@[simp] theorem setColl_stack_of (s : State) (x : Nat) (g : Coll) (n' : Nat) : (s.setColl x g).stack n' = s.stack n' := rfl
@[simp] theorem setColl_nowNs_of (s : State) (x : Nat) (g : Coll) : (s.setColl x g).nowNs = s.nowNs := rfl
@[simp] theorem setColl_memRead_of (s : State) (x : Nat) (g : Coll) (a' n' : Nat) : (s.setColl x g).memRead a' n' = s.memRead a' n' := rfl
@[simp] theorem setColl_passedUs_of (s : State) (x : Nat) (g : Coll) (t' us' : Nat) : (s.setColl x g).passedUs t' us' = s.passedUs t' us' := rfl

/-! `setCue`. -/

@[simp] theorem setCue_regs (s : State) (e : Nat) (q : CueSt) : (s.setCue e q).regs = s.regs := rfl
@[simp] theorem setCue_shadow (s : State) (e : Nat) (q : CueSt) : (s.setCue e q).shadow = s.shadow := rfl
@[simp] theorem setCue_armedBy (s : State) (e : Nat) (q : CueSt) : (s.setCue e q).armedBy = s.armedBy := rfl
@[simp] theorem setCue_ticks (s : State) (e : Nat) (q : CueSt) : (s.setCue e q).ticks = s.ticks := rfl
@[simp] theorem setCue_fabTime (s : State) (e : Nat) (q : CueSt) : (s.setCue e q).fabTime = s.fabTime := rfl
@[simp] theorem setCue_freeCtr (s : State) (e : Nat) (q : CueSt) : (s.setCue e q).freeCtr = s.freeCtr := rfl
@[simp] theorem setCue_events (s : State) (e : Nat) (q : CueSt) : (s.setCue e q).events = s.events := rfl
@[simp] theorem setCue_eventSeq (s : State) (e : Nat) (q : CueSt) : (s.setCue e q).eventSeq = s.eventSeq := rfl
@[simp] theorem setCue_net (s : State) (e : Nat) (q : CueSt) : (s.setCue e q).net = s.net := rfl
@[simp] theorem setCue_pools (s : State) (e : Nat) (q : CueSt) : (s.setCue e q).pools = s.pools := rfl
@[simp] theorem setCue_timers (s : State) (e : Nat) (q : CueSt) : (s.setCue e q).timers = s.timers := rfl
@[simp] theorem setCue_fuses (s : State) (e : Nat) (q : CueSt) : (s.setCue e q).fuses = s.fuses := rfl
@[simp] theorem setCue_mem (s : State) (e : Nat) (q : CueSt) : (s.setCue e q).mem = s.mem := rfl
@[simp] theorem setCue_stackMem (s : State) (e : Nat) (q : CueSt) : (s.setCue e q).stackMem = s.stackMem := rfl
@[simp] theorem setCue_cal (s : State) (e : Nat) (q : CueSt) : (s.setCue e q).cal = s.cal := rfl
@[simp] theorem setCue_out (s : State) (e : Nat) (q : CueSt) : (s.setCue e q).out = s.out := rfl
@[simp] theorem setCue_clus (s : State) (e : Nat) (q : CueSt) : (s.setCue e q).clus = s.clus := rfl
@[simp] theorem setCue_colls (s : State) (e : Nat) (q : CueSt) : (s.setCue e q).colls = s.colls := rfl
@[simp] theorem setCue_held (s : State) (e : Nat) (q : CueSt) : (s.setCue e q).held = s.held := rfl
@[simp] theorem setCue_hif (s : State) (e : Nat) (q : CueSt) : (s.setCue e q).hif = s.hif := rfl
@[simp] theorem setCue_sec (s : State) (e : Nat) (q : CueSt) : (s.setCue e q).sec = s.sec := rfl
@[simp] theorem setCue_dies (s : State) (e : Nat) (q : CueSt) : (s.setCue e q).dies = s.dies := rfl
@[simp] theorem setCue_heat (s : State) (e : Nat) (q : CueSt) : (s.setCue e q).heat = s.heat := rfl
@[simp] theorem setCue_board (s : State) (e : Nat) (q : CueSt) : (s.setCue e q).board = s.board := rfl
@[simp] theorem setCue_flash (s : State) (e : Nat) (q : CueSt) : (s.setCue e q).flash = s.flash := rfl
@[simp] theorem setCue_jobs (s : State) (e : Nat) (q : CueSt) : (s.setCue e q).jobs = s.jobs := rfl
@[simp] theorem setCue_laneMargin (s : State) (e : Nat) (q : CueSt) : (s.setCue e q).laneMargin = s.laneMargin := rfl
@[simp] theorem setCue_upsets (s : State) (e : Nat) (q : CueSt) : (s.setCue e q).upsets = s.upsets := rfl
@[simp] theorem setCue_posts (s : State) (e : Nat) (q : CueSt) : (s.setCue e q).posts = s.posts := rfl
@[simp] theorem setCue_pending (s : State) (e : Nat) (q : CueSt) : (s.setCue e q).pending = s.pending := rfl
@[simp] theorem setCue_rd_of (s : State) (e : Nat) (q : CueSt) (r' : Reg) (i' j' : Nat) : (s.setCue e q).rd r' i' j' = s.rd r' i' j' := rfl
@[simp] theorem setCue_get_of (s : State) (e : Nat) (q : CueSt) (f' : Fld) (i' j' : Nat) : (s.setCue e q).get f' i' j' = s.get f' i' j' := rfl
@[simp] theorem setCue_flag_of (s : State) (e : Nat) (q : CueSt) (f' : Fld) (i' j' : Nat) : (s.setCue e q).flag f' i' j' = s.flag f' i' j' := rfl
@[simp] theorem setCue_clu_of (s : State) (e : Nat) (q : CueSt) (c' : Nat) : (s.setCue e q).clu c' = s.clu c' := rfl
@[simp] theorem setCue_coll_of (s : State) (e : Nat) (q : CueSt) (x' : Nat) : (s.setCue e q).coll x' = s.coll x' := rfl
@[simp] theorem setCue_ring_of (s : State) (e : Nat) (q : CueSt) (r' : Nat) : (s.setCue e q).ring r' = s.ring r' := rfl
@[simp] theorem setCue_job_of (s : State) (e : Nat) (q : CueSt) (j' : Nat) : (s.setCue e q).job j' = s.job j' := rfl
@[simp] theorem setCue_pool_of (s : State) (e : Nat) (q : CueSt) (k' : Nat) : (s.setCue e q).pool k' = s.pool k' := rfl
@[simp] theorem setCue_link_of (s : State) (e : Nat) (q : CueSt) (p' : Nat) : (s.setCue e q).link p' = s.link p' := rfl
@[simp] theorem setCue_queue_of (s : State) (e : Nat) (q : CueSt) (p' c' : Nat) : (s.setCue e q).queue p' c' = s.queue p' c' := rfl
@[simp] theorem setCue_pkt_of (s : State) (e : Nat) (q : CueSt) (n' : Nat) : (s.setCue e q).pkt n' = s.pkt n' := rfl
@[simp] theorem setCue_die_of (s : State) (e : Nat) (q : CueSt) (n' : Nat) : (s.setCue e q).die n' = s.die n' := rfl
@[simp] theorem setCue_stack_of (s : State) (e : Nat) (q : CueSt) (n' : Nat) : (s.setCue e q).stack n' = s.stack n' := rfl
@[simp] theorem setCue_nowNs_of (s : State) (e : Nat) (q : CueSt) : (s.setCue e q).nowNs = s.nowNs := rfl
@[simp] theorem setCue_memRead_of (s : State) (e : Nat) (q : CueSt) (a' n' : Nat) : (s.setCue e q).memRead a' n' = s.memRead a' n' := rfl
@[simp] theorem setCue_passedUs_of (s : State) (e : Nat) (q : CueSt) (t' us' : Nat) : (s.setCue e q).passedUs t' us' = s.passedUs t' us' := rfl

/-! `setGate`. -/

@[simp] theorem setGate_regs (s : State) (p : Nat) (g : GateSt) : (s.setGate p g).regs = s.regs := rfl
@[simp] theorem setGate_shadow (s : State) (p : Nat) (g : GateSt) : (s.setGate p g).shadow = s.shadow := rfl
@[simp] theorem setGate_armedBy (s : State) (p : Nat) (g : GateSt) : (s.setGate p g).armedBy = s.armedBy := rfl
@[simp] theorem setGate_ticks (s : State) (p : Nat) (g : GateSt) : (s.setGate p g).ticks = s.ticks := rfl
@[simp] theorem setGate_fabTime (s : State) (p : Nat) (g : GateSt) : (s.setGate p g).fabTime = s.fabTime := rfl
@[simp] theorem setGate_freeCtr (s : State) (p : Nat) (g : GateSt) : (s.setGate p g).freeCtr = s.freeCtr := rfl
@[simp] theorem setGate_events (s : State) (p : Nat) (g : GateSt) : (s.setGate p g).events = s.events := rfl
@[simp] theorem setGate_eventSeq (s : State) (p : Nat) (g : GateSt) : (s.setGate p g).eventSeq = s.eventSeq := rfl
@[simp] theorem setGate_pools (s : State) (p : Nat) (g : GateSt) : (s.setGate p g).pools = s.pools := rfl
@[simp] theorem setGate_timers (s : State) (p : Nat) (g : GateSt) : (s.setGate p g).timers = s.timers := rfl
@[simp] theorem setGate_fuses (s : State) (p : Nat) (g : GateSt) : (s.setGate p g).fuses = s.fuses := rfl
@[simp] theorem setGate_tm (s : State) (p : Nat) (g : GateSt) : (s.setGate p g).tm = s.tm := rfl
@[simp] theorem setGate_mem (s : State) (p : Nat) (g : GateSt) : (s.setGate p g).mem = s.mem := rfl
@[simp] theorem setGate_stackMem (s : State) (p : Nat) (g : GateSt) : (s.setGate p g).stackMem = s.stackMem := rfl
@[simp] theorem setGate_cal (s : State) (p : Nat) (g : GateSt) : (s.setGate p g).cal = s.cal := rfl
@[simp] theorem setGate_out (s : State) (p : Nat) (g : GateSt) : (s.setGate p g).out = s.out := rfl
@[simp] theorem setGate_clus (s : State) (p : Nat) (g : GateSt) : (s.setGate p g).clus = s.clus := rfl
@[simp] theorem setGate_colls (s : State) (p : Nat) (g : GateSt) : (s.setGate p g).colls = s.colls := rfl
@[simp] theorem setGate_held (s : State) (p : Nat) (g : GateSt) : (s.setGate p g).held = s.held := rfl
@[simp] theorem setGate_hif (s : State) (p : Nat) (g : GateSt) : (s.setGate p g).hif = s.hif := rfl
@[simp] theorem setGate_sec (s : State) (p : Nat) (g : GateSt) : (s.setGate p g).sec = s.sec := rfl
@[simp] theorem setGate_dies (s : State) (p : Nat) (g : GateSt) : (s.setGate p g).dies = s.dies := rfl
@[simp] theorem setGate_heat (s : State) (p : Nat) (g : GateSt) : (s.setGate p g).heat = s.heat := rfl
@[simp] theorem setGate_board (s : State) (p : Nat) (g : GateSt) : (s.setGate p g).board = s.board := rfl
@[simp] theorem setGate_flash (s : State) (p : Nat) (g : GateSt) : (s.setGate p g).flash = s.flash := rfl
@[simp] theorem setGate_jobs (s : State) (p : Nat) (g : GateSt) : (s.setGate p g).jobs = s.jobs := rfl
@[simp] theorem setGate_laneMargin (s : State) (p : Nat) (g : GateSt) : (s.setGate p g).laneMargin = s.laneMargin := rfl
@[simp] theorem setGate_upsets (s : State) (p : Nat) (g : GateSt) : (s.setGate p g).upsets = s.upsets := rfl
@[simp] theorem setGate_posts (s : State) (p : Nat) (g : GateSt) : (s.setGate p g).posts = s.posts := rfl
@[simp] theorem setGate_pending (s : State) (p : Nat) (g : GateSt) : (s.setGate p g).pending = s.pending := rfl
@[simp] theorem setGate_rd_of (s : State) (p : Nat) (g : GateSt) (r' : Reg) (i' j' : Nat) : (s.setGate p g).rd r' i' j' = s.rd r' i' j' := rfl
@[simp] theorem setGate_get_of (s : State) (p : Nat) (g : GateSt) (f' : Fld) (i' j' : Nat) : (s.setGate p g).get f' i' j' = s.get f' i' j' := rfl
@[simp] theorem setGate_flag_of (s : State) (p : Nat) (g : GateSt) (f' : Fld) (i' j' : Nat) : (s.setGate p g).flag f' i' j' = s.flag f' i' j' := rfl
@[simp] theorem setGate_clu_of (s : State) (p : Nat) (g : GateSt) (c' : Nat) : (s.setGate p g).clu c' = s.clu c' := rfl
@[simp] theorem setGate_coll_of (s : State) (p : Nat) (g : GateSt) (x' : Nat) : (s.setGate p g).coll x' = s.coll x' := rfl
@[simp] theorem setGate_ring_of (s : State) (p : Nat) (g : GateSt) (r' : Nat) : (s.setGate p g).ring r' = s.ring r' := rfl
@[simp] theorem setGate_job_of (s : State) (p : Nat) (g : GateSt) (j' : Nat) : (s.setGate p g).job j' = s.job j' := rfl
@[simp] theorem setGate_pool_of (s : State) (p : Nat) (g : GateSt) (k' : Nat) : (s.setGate p g).pool k' = s.pool k' := rfl
@[simp] theorem setGate_die_of (s : State) (p : Nat) (g : GateSt) (n' : Nat) : (s.setGate p g).die n' = s.die n' := rfl
@[simp] theorem setGate_stack_of (s : State) (p : Nat) (g : GateSt) (n' : Nat) : (s.setGate p g).stack n' = s.stack n' := rfl
@[simp] theorem setGate_nowNs_of (s : State) (p : Nat) (g : GateSt) : (s.setGate p g).nowNs = s.nowNs := rfl
@[simp] theorem setGate_memRead_of (s : State) (p : Nat) (g : GateSt) (a' n' : Nat) : (s.setGate p g).memRead a' n' = s.memRead a' n' := rfl
@[simp] theorem setGate_passedUs_of (s : State) (p : Nat) (g : GateSt) (t' us' : Nat) : (s.setGate p g).passedUs t' us' = s.passedUs t' us' := rfl

/-! `setRing`. -/

@[simp] theorem setRing_regs (s : State) (r : Nat) (x : RingSt) : (s.setRing r x).regs = s.regs := rfl
@[simp] theorem setRing_shadow (s : State) (r : Nat) (x : RingSt) : (s.setRing r x).shadow = s.shadow := rfl
@[simp] theorem setRing_armedBy (s : State) (r : Nat) (x : RingSt) : (s.setRing r x).armedBy = s.armedBy := rfl
@[simp] theorem setRing_ticks (s : State) (r : Nat) (x : RingSt) : (s.setRing r x).ticks = s.ticks := rfl
@[simp] theorem setRing_fabTime (s : State) (r : Nat) (x : RingSt) : (s.setRing r x).fabTime = s.fabTime := rfl
@[simp] theorem setRing_freeCtr (s : State) (r : Nat) (x : RingSt) : (s.setRing r x).freeCtr = s.freeCtr := rfl
@[simp] theorem setRing_events (s : State) (r : Nat) (x : RingSt) : (s.setRing r x).events = s.events := rfl
@[simp] theorem setRing_eventSeq (s : State) (r : Nat) (x : RingSt) : (s.setRing r x).eventSeq = s.eventSeq := rfl
@[simp] theorem setRing_net (s : State) (r : Nat) (x : RingSt) : (s.setRing r x).net = s.net := rfl
@[simp] theorem setRing_pools (s : State) (r : Nat) (x : RingSt) : (s.setRing r x).pools = s.pools := rfl
@[simp] theorem setRing_timers (s : State) (r : Nat) (x : RingSt) : (s.setRing r x).timers = s.timers := rfl
@[simp] theorem setRing_fuses (s : State) (r : Nat) (x : RingSt) : (s.setRing r x).fuses = s.fuses := rfl
@[simp] theorem setRing_tm (s : State) (r : Nat) (x : RingSt) : (s.setRing r x).tm = s.tm := rfl
@[simp] theorem setRing_mem (s : State) (r : Nat) (x : RingSt) : (s.setRing r x).mem = s.mem := rfl
@[simp] theorem setRing_stackMem (s : State) (r : Nat) (x : RingSt) : (s.setRing r x).stackMem = s.stackMem := rfl
@[simp] theorem setRing_cal (s : State) (r : Nat) (x : RingSt) : (s.setRing r x).cal = s.cal := rfl
@[simp] theorem setRing_out (s : State) (r : Nat) (x : RingSt) : (s.setRing r x).out = s.out := rfl
@[simp] theorem setRing_clus (s : State) (r : Nat) (x : RingSt) : (s.setRing r x).clus = s.clus := rfl
@[simp] theorem setRing_colls (s : State) (r : Nat) (x : RingSt) : (s.setRing r x).colls = s.colls := rfl
@[simp] theorem setRing_held (s : State) (r : Nat) (x : RingSt) : (s.setRing r x).held = s.held := rfl
@[simp] theorem setRing_sec (s : State) (r : Nat) (x : RingSt) : (s.setRing r x).sec = s.sec := rfl
@[simp] theorem setRing_dies (s : State) (r : Nat) (x : RingSt) : (s.setRing r x).dies = s.dies := rfl
@[simp] theorem setRing_heat (s : State) (r : Nat) (x : RingSt) : (s.setRing r x).heat = s.heat := rfl
@[simp] theorem setRing_board (s : State) (r : Nat) (x : RingSt) : (s.setRing r x).board = s.board := rfl
@[simp] theorem setRing_flash (s : State) (r : Nat) (x : RingSt) : (s.setRing r x).flash = s.flash := rfl
@[simp] theorem setRing_jobs (s : State) (r : Nat) (x : RingSt) : (s.setRing r x).jobs = s.jobs := rfl
@[simp] theorem setRing_laneMargin (s : State) (r : Nat) (x : RingSt) : (s.setRing r x).laneMargin = s.laneMargin := rfl
@[simp] theorem setRing_upsets (s : State) (r : Nat) (x : RingSt) : (s.setRing r x).upsets = s.upsets := rfl
@[simp] theorem setRing_posts (s : State) (r : Nat) (x : RingSt) : (s.setRing r x).posts = s.posts := rfl
@[simp] theorem setRing_pending (s : State) (r : Nat) (x : RingSt) : (s.setRing r x).pending = s.pending := rfl
@[simp] theorem setRing_rd_of (s : State) (r : Nat) (x : RingSt) (r' : Reg) (i' j' : Nat) : (s.setRing r x).rd r' i' j' = s.rd r' i' j' := rfl
@[simp] theorem setRing_get_of (s : State) (r : Nat) (x : RingSt) (f' : Fld) (i' j' : Nat) : (s.setRing r x).get f' i' j' = s.get f' i' j' := rfl
@[simp] theorem setRing_flag_of (s : State) (r : Nat) (x : RingSt) (f' : Fld) (i' j' : Nat) : (s.setRing r x).flag f' i' j' = s.flag f' i' j' := rfl
@[simp] theorem setRing_clu_of (s : State) (r : Nat) (x : RingSt) (c' : Nat) : (s.setRing r x).clu c' = s.clu c' := rfl
@[simp] theorem setRing_coll_of (s : State) (r : Nat) (x : RingSt) (x' : Nat) : (s.setRing r x).coll x' = s.coll x' := rfl
@[simp] theorem setRing_job_of (s : State) (r : Nat) (x : RingSt) (j' : Nat) : (s.setRing r x).job j' = s.job j' := rfl
@[simp] theorem setRing_pool_of (s : State) (r : Nat) (x : RingSt) (k' : Nat) : (s.setRing r x).pool k' = s.pool k' := rfl
@[simp] theorem setRing_link_of (s : State) (r : Nat) (x : RingSt) (p' : Nat) : (s.setRing r x).link p' = s.link p' := rfl
@[simp] theorem setRing_queue_of (s : State) (r : Nat) (x : RingSt) (p' c' : Nat) : (s.setRing r x).queue p' c' = s.queue p' c' := rfl
@[simp] theorem setRing_pkt_of (s : State) (r : Nat) (x : RingSt) (n' : Nat) : (s.setRing r x).pkt n' = s.pkt n' := rfl
@[simp] theorem setRing_die_of (s : State) (r : Nat) (x : RingSt) (n' : Nat) : (s.setRing r x).die n' = s.die n' := rfl
@[simp] theorem setRing_stack_of (s : State) (r : Nat) (x : RingSt) (n' : Nat) : (s.setRing r x).stack n' = s.stack n' := rfl
@[simp] theorem setRing_nowNs_of (s : State) (r : Nat) (x : RingSt) : (s.setRing r x).nowNs = s.nowNs := rfl
@[simp] theorem setRing_memRead_of (s : State) (r : Nat) (x : RingSt) (a' n' : Nat) : (s.setRing r x).memRead a' n' = s.memRead a' n' := rfl
@[simp] theorem setRing_passedUs_of (s : State) (r : Nat) (x : RingSt) (t' us' : Nat) : (s.setRing r x).passedUs t' us' = s.passedUs t' us' := rfl

/-! `setJob`. -/

@[simp] theorem setJob_regs (s : State) (j : Nat) (x : JobSt) : (s.setJob j x).regs = s.regs := rfl
@[simp] theorem setJob_shadow (s : State) (j : Nat) (x : JobSt) : (s.setJob j x).shadow = s.shadow := rfl
@[simp] theorem setJob_armedBy (s : State) (j : Nat) (x : JobSt) : (s.setJob j x).armedBy = s.armedBy := rfl
@[simp] theorem setJob_ticks (s : State) (j : Nat) (x : JobSt) : (s.setJob j x).ticks = s.ticks := rfl
@[simp] theorem setJob_fabTime (s : State) (j : Nat) (x : JobSt) : (s.setJob j x).fabTime = s.fabTime := rfl
@[simp] theorem setJob_freeCtr (s : State) (j : Nat) (x : JobSt) : (s.setJob j x).freeCtr = s.freeCtr := rfl
@[simp] theorem setJob_events (s : State) (j : Nat) (x : JobSt) : (s.setJob j x).events = s.events := rfl
@[simp] theorem setJob_eventSeq (s : State) (j : Nat) (x : JobSt) : (s.setJob j x).eventSeq = s.eventSeq := rfl
@[simp] theorem setJob_net (s : State) (j : Nat) (x : JobSt) : (s.setJob j x).net = s.net := rfl
@[simp] theorem setJob_pools (s : State) (j : Nat) (x : JobSt) : (s.setJob j x).pools = s.pools := rfl
@[simp] theorem setJob_timers (s : State) (j : Nat) (x : JobSt) : (s.setJob j x).timers = s.timers := rfl
@[simp] theorem setJob_fuses (s : State) (j : Nat) (x : JobSt) : (s.setJob j x).fuses = s.fuses := rfl
@[simp] theorem setJob_tm (s : State) (j : Nat) (x : JobSt) : (s.setJob j x).tm = s.tm := rfl
@[simp] theorem setJob_mem (s : State) (j : Nat) (x : JobSt) : (s.setJob j x).mem = s.mem := rfl
@[simp] theorem setJob_stackMem (s : State) (j : Nat) (x : JobSt) : (s.setJob j x).stackMem = s.stackMem := rfl
@[simp] theorem setJob_cal (s : State) (j : Nat) (x : JobSt) : (s.setJob j x).cal = s.cal := rfl
@[simp] theorem setJob_out (s : State) (j : Nat) (x : JobSt) : (s.setJob j x).out = s.out := rfl
@[simp] theorem setJob_clus (s : State) (j : Nat) (x : JobSt) : (s.setJob j x).clus = s.clus := rfl
@[simp] theorem setJob_colls (s : State) (j : Nat) (x : JobSt) : (s.setJob j x).colls = s.colls := rfl
@[simp] theorem setJob_held (s : State) (j : Nat) (x : JobSt) : (s.setJob j x).held = s.held := rfl
@[simp] theorem setJob_hif (s : State) (j : Nat) (x : JobSt) : (s.setJob j x).hif = s.hif := rfl
@[simp] theorem setJob_sec (s : State) (j : Nat) (x : JobSt) : (s.setJob j x).sec = s.sec := rfl
@[simp] theorem setJob_dies (s : State) (j : Nat) (x : JobSt) : (s.setJob j x).dies = s.dies := rfl
@[simp] theorem setJob_heat (s : State) (j : Nat) (x : JobSt) : (s.setJob j x).heat = s.heat := rfl
@[simp] theorem setJob_board (s : State) (j : Nat) (x : JobSt) : (s.setJob j x).board = s.board := rfl
@[simp] theorem setJob_flash (s : State) (j : Nat) (x : JobSt) : (s.setJob j x).flash = s.flash := rfl
@[simp] theorem setJob_laneMargin (s : State) (j : Nat) (x : JobSt) : (s.setJob j x).laneMargin = s.laneMargin := rfl
@[simp] theorem setJob_upsets (s : State) (j : Nat) (x : JobSt) : (s.setJob j x).upsets = s.upsets := rfl
@[simp] theorem setJob_posts (s : State) (j : Nat) (x : JobSt) : (s.setJob j x).posts = s.posts := rfl
@[simp] theorem setJob_pending (s : State) (j : Nat) (x : JobSt) : (s.setJob j x).pending = s.pending := rfl
@[simp] theorem setJob_rd_of (s : State) (j : Nat) (x : JobSt) (r' : Reg) (i' j' : Nat) : (s.setJob j x).rd r' i' j' = s.rd r' i' j' := rfl
@[simp] theorem setJob_get_of (s : State) (j : Nat) (x : JobSt) (f' : Fld) (i' j' : Nat) : (s.setJob j x).get f' i' j' = s.get f' i' j' := rfl
@[simp] theorem setJob_flag_of (s : State) (j : Nat) (x : JobSt) (f' : Fld) (i' j' : Nat) : (s.setJob j x).flag f' i' j' = s.flag f' i' j' := rfl
@[simp] theorem setJob_clu_of (s : State) (j : Nat) (x : JobSt) (c' : Nat) : (s.setJob j x).clu c' = s.clu c' := rfl
@[simp] theorem setJob_coll_of (s : State) (j : Nat) (x : JobSt) (x' : Nat) : (s.setJob j x).coll x' = s.coll x' := rfl
@[simp] theorem setJob_ring_of (s : State) (j : Nat) (x : JobSt) (r' : Nat) : (s.setJob j x).ring r' = s.ring r' := rfl
@[simp] theorem setJob_pool_of (s : State) (j : Nat) (x : JobSt) (k' : Nat) : (s.setJob j x).pool k' = s.pool k' := rfl
@[simp] theorem setJob_link_of (s : State) (j : Nat) (x : JobSt) (p' : Nat) : (s.setJob j x).link p' = s.link p' := rfl
@[simp] theorem setJob_queue_of (s : State) (j : Nat) (x : JobSt) (p' c' : Nat) : (s.setJob j x).queue p' c' = s.queue p' c' := rfl
@[simp] theorem setJob_pkt_of (s : State) (j : Nat) (x : JobSt) (n' : Nat) : (s.setJob j x).pkt n' = s.pkt n' := rfl
@[simp] theorem setJob_die_of (s : State) (j : Nat) (x : JobSt) (n' : Nat) : (s.setJob j x).die n' = s.die n' := rfl
@[simp] theorem setJob_stack_of (s : State) (j : Nat) (x : JobSt) (n' : Nat) : (s.setJob j x).stack n' = s.stack n' := rfl
@[simp] theorem setJob_nowNs_of (s : State) (j : Nat) (x : JobSt) : (s.setJob j x).nowNs = s.nowNs := rfl
@[simp] theorem setJob_memRead_of (s : State) (j : Nat) (x : JobSt) (a' n' : Nat) : (s.setJob j x).memRead a' n' = s.memRead a' n' := rfl
@[simp] theorem setJob_passedUs_of (s : State) (j : Nat) (x : JobSt) (t' us' : Nat) : (s.setJob j x).passedUs t' us' = s.passedUs t' us' := rfl

/-! `setPool`. -/

@[simp] theorem setPool_regs (s : State) (k : Nat) (p : PoolSt) : (s.setPool k p).regs = s.regs := rfl
@[simp] theorem setPool_shadow (s : State) (k : Nat) (p : PoolSt) : (s.setPool k p).shadow = s.shadow := rfl
@[simp] theorem setPool_armedBy (s : State) (k : Nat) (p : PoolSt) : (s.setPool k p).armedBy = s.armedBy := rfl
@[simp] theorem setPool_ticks (s : State) (k : Nat) (p : PoolSt) : (s.setPool k p).ticks = s.ticks := rfl
@[simp] theorem setPool_fabTime (s : State) (k : Nat) (p : PoolSt) : (s.setPool k p).fabTime = s.fabTime := rfl
@[simp] theorem setPool_freeCtr (s : State) (k : Nat) (p : PoolSt) : (s.setPool k p).freeCtr = s.freeCtr := rfl
@[simp] theorem setPool_events (s : State) (k : Nat) (p : PoolSt) : (s.setPool k p).events = s.events := rfl
@[simp] theorem setPool_eventSeq (s : State) (k : Nat) (p : PoolSt) : (s.setPool k p).eventSeq = s.eventSeq := rfl
@[simp] theorem setPool_net (s : State) (k : Nat) (p : PoolSt) : (s.setPool k p).net = s.net := rfl
@[simp] theorem setPool_timers (s : State) (k : Nat) (p : PoolSt) : (s.setPool k p).timers = s.timers := rfl
@[simp] theorem setPool_fuses (s : State) (k : Nat) (p : PoolSt) : (s.setPool k p).fuses = s.fuses := rfl
@[simp] theorem setPool_tm (s : State) (k : Nat) (p : PoolSt) : (s.setPool k p).tm = s.tm := rfl
@[simp] theorem setPool_mem (s : State) (k : Nat) (p : PoolSt) : (s.setPool k p).mem = s.mem := rfl
@[simp] theorem setPool_stackMem (s : State) (k : Nat) (p : PoolSt) : (s.setPool k p).stackMem = s.stackMem := rfl
@[simp] theorem setPool_cal (s : State) (k : Nat) (p : PoolSt) : (s.setPool k p).cal = s.cal := rfl
@[simp] theorem setPool_out (s : State) (k : Nat) (p : PoolSt) : (s.setPool k p).out = s.out := rfl
@[simp] theorem setPool_clus (s : State) (k : Nat) (p : PoolSt) : (s.setPool k p).clus = s.clus := rfl
@[simp] theorem setPool_colls (s : State) (k : Nat) (p : PoolSt) : (s.setPool k p).colls = s.colls := rfl
@[simp] theorem setPool_held (s : State) (k : Nat) (p : PoolSt) : (s.setPool k p).held = s.held := rfl
@[simp] theorem setPool_hif (s : State) (k : Nat) (p : PoolSt) : (s.setPool k p).hif = s.hif := rfl
@[simp] theorem setPool_sec (s : State) (k : Nat) (p : PoolSt) : (s.setPool k p).sec = s.sec := rfl
@[simp] theorem setPool_dies (s : State) (k : Nat) (p : PoolSt) : (s.setPool k p).dies = s.dies := rfl
@[simp] theorem setPool_heat (s : State) (k : Nat) (p : PoolSt) : (s.setPool k p).heat = s.heat := rfl
@[simp] theorem setPool_board (s : State) (k : Nat) (p : PoolSt) : (s.setPool k p).board = s.board := rfl
@[simp] theorem setPool_flash (s : State) (k : Nat) (p : PoolSt) : (s.setPool k p).flash = s.flash := rfl
@[simp] theorem setPool_jobs (s : State) (k : Nat) (p : PoolSt) : (s.setPool k p).jobs = s.jobs := rfl
@[simp] theorem setPool_laneMargin (s : State) (k : Nat) (p : PoolSt) : (s.setPool k p).laneMargin = s.laneMargin := rfl
@[simp] theorem setPool_upsets (s : State) (k : Nat) (p : PoolSt) : (s.setPool k p).upsets = s.upsets := rfl
@[simp] theorem setPool_posts (s : State) (k : Nat) (p : PoolSt) : (s.setPool k p).posts = s.posts := rfl
@[simp] theorem setPool_pending (s : State) (k : Nat) (p : PoolSt) : (s.setPool k p).pending = s.pending := rfl
@[simp] theorem setPool_rd_of (s : State) (k : Nat) (p : PoolSt) (r' : Reg) (i' j' : Nat) : (s.setPool k p).rd r' i' j' = s.rd r' i' j' := rfl
@[simp] theorem setPool_get_of (s : State) (k : Nat) (p : PoolSt) (f' : Fld) (i' j' : Nat) : (s.setPool k p).get f' i' j' = s.get f' i' j' := rfl
@[simp] theorem setPool_flag_of (s : State) (k : Nat) (p : PoolSt) (f' : Fld) (i' j' : Nat) : (s.setPool k p).flag f' i' j' = s.flag f' i' j' := rfl
@[simp] theorem setPool_clu_of (s : State) (k : Nat) (p : PoolSt) (c' : Nat) : (s.setPool k p).clu c' = s.clu c' := rfl
@[simp] theorem setPool_coll_of (s : State) (k : Nat) (p : PoolSt) (x' : Nat) : (s.setPool k p).coll x' = s.coll x' := rfl
@[simp] theorem setPool_ring_of (s : State) (k : Nat) (p : PoolSt) (r' : Nat) : (s.setPool k p).ring r' = s.ring r' := rfl
@[simp] theorem setPool_job_of (s : State) (k : Nat) (p : PoolSt) (j' : Nat) : (s.setPool k p).job j' = s.job j' := rfl
@[simp] theorem setPool_link_of (s : State) (k : Nat) (p : PoolSt) (p' : Nat) : (s.setPool k p).link p' = s.link p' := rfl
@[simp] theorem setPool_queue_of (s : State) (k : Nat) (p : PoolSt) (p' c' : Nat) : (s.setPool k p).queue p' c' = s.queue p' c' := rfl
@[simp] theorem setPool_pkt_of (s : State) (k : Nat) (p : PoolSt) (n' : Nat) : (s.setPool k p).pkt n' = s.pkt n' := rfl
@[simp] theorem setPool_die_of (s : State) (k : Nat) (p : PoolSt) (n' : Nat) : (s.setPool k p).die n' = s.die n' := rfl
@[simp] theorem setPool_stack_of (s : State) (k : Nat) (p : PoolSt) (n' : Nat) : (s.setPool k p).stack n' = s.stack n' := rfl
@[simp] theorem setPool_nowNs_of (s : State) (k : Nat) (p : PoolSt) : (s.setPool k p).nowNs = s.nowNs := rfl
@[simp] theorem setPool_memRead_of (s : State) (k : Nat) (p : PoolSt) (a' n' : Nat) : (s.setPool k p).memRead a' n' = s.memRead a' n' := rfl
@[simp] theorem setPool_passedUs_of (s : State) (k : Nat) (p : PoolSt) (t' us' : Nat) : (s.setPool k p).passedUs t' us' = s.passedUs t' us' := rfl

/-! `setLink`. -/

@[simp] theorem setLink_regs (s : State) (p : Nat) (l : LinkSt) : (s.setLink p l).regs = s.regs := rfl
@[simp] theorem setLink_shadow (s : State) (p : Nat) (l : LinkSt) : (s.setLink p l).shadow = s.shadow := rfl
@[simp] theorem setLink_armedBy (s : State) (p : Nat) (l : LinkSt) : (s.setLink p l).armedBy = s.armedBy := rfl
@[simp] theorem setLink_ticks (s : State) (p : Nat) (l : LinkSt) : (s.setLink p l).ticks = s.ticks := rfl
@[simp] theorem setLink_fabTime (s : State) (p : Nat) (l : LinkSt) : (s.setLink p l).fabTime = s.fabTime := rfl
@[simp] theorem setLink_freeCtr (s : State) (p : Nat) (l : LinkSt) : (s.setLink p l).freeCtr = s.freeCtr := rfl
@[simp] theorem setLink_events (s : State) (p : Nat) (l : LinkSt) : (s.setLink p l).events = s.events := rfl
@[simp] theorem setLink_eventSeq (s : State) (p : Nat) (l : LinkSt) : (s.setLink p l).eventSeq = s.eventSeq := rfl
@[simp] theorem setLink_pools (s : State) (p : Nat) (l : LinkSt) : (s.setLink p l).pools = s.pools := rfl
@[simp] theorem setLink_timers (s : State) (p : Nat) (l : LinkSt) : (s.setLink p l).timers = s.timers := rfl
@[simp] theorem setLink_fuses (s : State) (p : Nat) (l : LinkSt) : (s.setLink p l).fuses = s.fuses := rfl
@[simp] theorem setLink_tm (s : State) (p : Nat) (l : LinkSt) : (s.setLink p l).tm = s.tm := rfl
@[simp] theorem setLink_mem (s : State) (p : Nat) (l : LinkSt) : (s.setLink p l).mem = s.mem := rfl
@[simp] theorem setLink_stackMem (s : State) (p : Nat) (l : LinkSt) : (s.setLink p l).stackMem = s.stackMem := rfl
@[simp] theorem setLink_cal (s : State) (p : Nat) (l : LinkSt) : (s.setLink p l).cal = s.cal := rfl
@[simp] theorem setLink_out (s : State) (p : Nat) (l : LinkSt) : (s.setLink p l).out = s.out := rfl
@[simp] theorem setLink_clus (s : State) (p : Nat) (l : LinkSt) : (s.setLink p l).clus = s.clus := rfl
@[simp] theorem setLink_colls (s : State) (p : Nat) (l : LinkSt) : (s.setLink p l).colls = s.colls := rfl
@[simp] theorem setLink_held (s : State) (p : Nat) (l : LinkSt) : (s.setLink p l).held = s.held := rfl
@[simp] theorem setLink_hif (s : State) (p : Nat) (l : LinkSt) : (s.setLink p l).hif = s.hif := rfl
@[simp] theorem setLink_sec (s : State) (p : Nat) (l : LinkSt) : (s.setLink p l).sec = s.sec := rfl
@[simp] theorem setLink_dies (s : State) (p : Nat) (l : LinkSt) : (s.setLink p l).dies = s.dies := rfl
@[simp] theorem setLink_heat (s : State) (p : Nat) (l : LinkSt) : (s.setLink p l).heat = s.heat := rfl
@[simp] theorem setLink_board (s : State) (p : Nat) (l : LinkSt) : (s.setLink p l).board = s.board := rfl
@[simp] theorem setLink_flash (s : State) (p : Nat) (l : LinkSt) : (s.setLink p l).flash = s.flash := rfl
@[simp] theorem setLink_jobs (s : State) (p : Nat) (l : LinkSt) : (s.setLink p l).jobs = s.jobs := rfl
@[simp] theorem setLink_laneMargin (s : State) (p : Nat) (l : LinkSt) : (s.setLink p l).laneMargin = s.laneMargin := rfl
@[simp] theorem setLink_upsets (s : State) (p : Nat) (l : LinkSt) : (s.setLink p l).upsets = s.upsets := rfl
@[simp] theorem setLink_posts (s : State) (p : Nat) (l : LinkSt) : (s.setLink p l).posts = s.posts := rfl
@[simp] theorem setLink_pending (s : State) (p : Nat) (l : LinkSt) : (s.setLink p l).pending = s.pending := rfl
@[simp] theorem setLink_rd_of (s : State) (p : Nat) (l : LinkSt) (r' : Reg) (i' j' : Nat) : (s.setLink p l).rd r' i' j' = s.rd r' i' j' := rfl
@[simp] theorem setLink_get_of (s : State) (p : Nat) (l : LinkSt) (f' : Fld) (i' j' : Nat) : (s.setLink p l).get f' i' j' = s.get f' i' j' := rfl
@[simp] theorem setLink_flag_of (s : State) (p : Nat) (l : LinkSt) (f' : Fld) (i' j' : Nat) : (s.setLink p l).flag f' i' j' = s.flag f' i' j' := rfl
@[simp] theorem setLink_clu_of (s : State) (p : Nat) (l : LinkSt) (c' : Nat) : (s.setLink p l).clu c' = s.clu c' := rfl
@[simp] theorem setLink_coll_of (s : State) (p : Nat) (l : LinkSt) (x' : Nat) : (s.setLink p l).coll x' = s.coll x' := rfl
@[simp] theorem setLink_ring_of (s : State) (p : Nat) (l : LinkSt) (r' : Nat) : (s.setLink p l).ring r' = s.ring r' := rfl
@[simp] theorem setLink_job_of (s : State) (p : Nat) (l : LinkSt) (j' : Nat) : (s.setLink p l).job j' = s.job j' := rfl
@[simp] theorem setLink_pool_of (s : State) (p : Nat) (l : LinkSt) (k' : Nat) : (s.setLink p l).pool k' = s.pool k' := rfl
@[simp] theorem setLink_die_of (s : State) (p : Nat) (l : LinkSt) (n' : Nat) : (s.setLink p l).die n' = s.die n' := rfl
@[simp] theorem setLink_stack_of (s : State) (p : Nat) (l : LinkSt) (n' : Nat) : (s.setLink p l).stack n' = s.stack n' := rfl
@[simp] theorem setLink_nowNs_of (s : State) (p : Nat) (l : LinkSt) : (s.setLink p l).nowNs = s.nowNs := rfl
@[simp] theorem setLink_memRead_of (s : State) (p : Nat) (l : LinkSt) (a' n' : Nat) : (s.setLink p l).memRead a' n' = s.memRead a' n' := rfl
@[simp] theorem setLink_passedUs_of (s : State) (p : Nat) (l : LinkSt) (t' us' : Nat) : (s.setLink p l).passedUs t' us' = s.passedUs t' us' := rfl

/-! `setQueue`. -/

@[simp] theorem setQueue_regs (s : State) (p c : Nat) (q : List QEnt) : (s.setQueue p c q).regs = s.regs := rfl
@[simp] theorem setQueue_shadow (s : State) (p c : Nat) (q : List QEnt) : (s.setQueue p c q).shadow = s.shadow := rfl
@[simp] theorem setQueue_armedBy (s : State) (p c : Nat) (q : List QEnt) : (s.setQueue p c q).armedBy = s.armedBy := rfl
@[simp] theorem setQueue_ticks (s : State) (p c : Nat) (q : List QEnt) : (s.setQueue p c q).ticks = s.ticks := rfl
@[simp] theorem setQueue_fabTime (s : State) (p c : Nat) (q : List QEnt) : (s.setQueue p c q).fabTime = s.fabTime := rfl
@[simp] theorem setQueue_freeCtr (s : State) (p c : Nat) (q : List QEnt) : (s.setQueue p c q).freeCtr = s.freeCtr := rfl
@[simp] theorem setQueue_events (s : State) (p c : Nat) (q : List QEnt) : (s.setQueue p c q).events = s.events := rfl
@[simp] theorem setQueue_eventSeq (s : State) (p c : Nat) (q : List QEnt) : (s.setQueue p c q).eventSeq = s.eventSeq := rfl
@[simp] theorem setQueue_pools (s : State) (p c : Nat) (q : List QEnt) : (s.setQueue p c q).pools = s.pools := rfl
@[simp] theorem setQueue_timers (s : State) (p c : Nat) (q : List QEnt) : (s.setQueue p c q).timers = s.timers := rfl
@[simp] theorem setQueue_fuses (s : State) (p c : Nat) (q : List QEnt) : (s.setQueue p c q).fuses = s.fuses := rfl
@[simp] theorem setQueue_tm (s : State) (p c : Nat) (q : List QEnt) : (s.setQueue p c q).tm = s.tm := rfl
@[simp] theorem setQueue_mem (s : State) (p c : Nat) (q : List QEnt) : (s.setQueue p c q).mem = s.mem := rfl
@[simp] theorem setQueue_stackMem (s : State) (p c : Nat) (q : List QEnt) : (s.setQueue p c q).stackMem = s.stackMem := rfl
@[simp] theorem setQueue_cal (s : State) (p c : Nat) (q : List QEnt) : (s.setQueue p c q).cal = s.cal := rfl
@[simp] theorem setQueue_out (s : State) (p c : Nat) (q : List QEnt) : (s.setQueue p c q).out = s.out := rfl
@[simp] theorem setQueue_clus (s : State) (p c : Nat) (q : List QEnt) : (s.setQueue p c q).clus = s.clus := rfl
@[simp] theorem setQueue_colls (s : State) (p c : Nat) (q : List QEnt) : (s.setQueue p c q).colls = s.colls := rfl
@[simp] theorem setQueue_held (s : State) (p c : Nat) (q : List QEnt) : (s.setQueue p c q).held = s.held := rfl
@[simp] theorem setQueue_hif (s : State) (p c : Nat) (q : List QEnt) : (s.setQueue p c q).hif = s.hif := rfl
@[simp] theorem setQueue_sec (s : State) (p c : Nat) (q : List QEnt) : (s.setQueue p c q).sec = s.sec := rfl
@[simp] theorem setQueue_dies (s : State) (p c : Nat) (q : List QEnt) : (s.setQueue p c q).dies = s.dies := rfl
@[simp] theorem setQueue_heat (s : State) (p c : Nat) (q : List QEnt) : (s.setQueue p c q).heat = s.heat := rfl
@[simp] theorem setQueue_board (s : State) (p c : Nat) (q : List QEnt) : (s.setQueue p c q).board = s.board := rfl
@[simp] theorem setQueue_flash (s : State) (p c : Nat) (q : List QEnt) : (s.setQueue p c q).flash = s.flash := rfl
@[simp] theorem setQueue_jobs (s : State) (p c : Nat) (q : List QEnt) : (s.setQueue p c q).jobs = s.jobs := rfl
@[simp] theorem setQueue_laneMargin (s : State) (p c : Nat) (q : List QEnt) : (s.setQueue p c q).laneMargin = s.laneMargin := rfl
@[simp] theorem setQueue_upsets (s : State) (p c : Nat) (q : List QEnt) : (s.setQueue p c q).upsets = s.upsets := rfl
@[simp] theorem setQueue_posts (s : State) (p c : Nat) (q : List QEnt) : (s.setQueue p c q).posts = s.posts := rfl
@[simp] theorem setQueue_pending (s : State) (p c : Nat) (q : List QEnt) : (s.setQueue p c q).pending = s.pending := rfl
@[simp] theorem setQueue_rd_of (s : State) (p c : Nat) (q : List QEnt) (r' : Reg) (i' j' : Nat) : (s.setQueue p c q).rd r' i' j' = s.rd r' i' j' := rfl
@[simp] theorem setQueue_get_of (s : State) (p c : Nat) (q : List QEnt) (f' : Fld) (i' j' : Nat) : (s.setQueue p c q).get f' i' j' = s.get f' i' j' := rfl
@[simp] theorem setQueue_flag_of (s : State) (p c : Nat) (q : List QEnt) (f' : Fld) (i' j' : Nat) : (s.setQueue p c q).flag f' i' j' = s.flag f' i' j' := rfl
@[simp] theorem setQueue_clu_of (s : State) (p c : Nat) (q : List QEnt) (c' : Nat) : (s.setQueue p c q).clu c' = s.clu c' := rfl
@[simp] theorem setQueue_coll_of (s : State) (p c : Nat) (q : List QEnt) (x' : Nat) : (s.setQueue p c q).coll x' = s.coll x' := rfl
@[simp] theorem setQueue_ring_of (s : State) (p c : Nat) (q : List QEnt) (r' : Nat) : (s.setQueue p c q).ring r' = s.ring r' := rfl
@[simp] theorem setQueue_job_of (s : State) (p c : Nat) (q : List QEnt) (j' : Nat) : (s.setQueue p c q).job j' = s.job j' := rfl
@[simp] theorem setQueue_pool_of (s : State) (p c : Nat) (q : List QEnt) (k' : Nat) : (s.setQueue p c q).pool k' = s.pool k' := rfl
@[simp] theorem setQueue_die_of (s : State) (p c : Nat) (q : List QEnt) (n' : Nat) : (s.setQueue p c q).die n' = s.die n' := rfl
@[simp] theorem setQueue_stack_of (s : State) (p c : Nat) (q : List QEnt) (n' : Nat) : (s.setQueue p c q).stack n' = s.stack n' := rfl
@[simp] theorem setQueue_nowNs_of (s : State) (p c : Nat) (q : List QEnt) : (s.setQueue p c q).nowNs = s.nowNs := rfl
@[simp] theorem setQueue_memRead_of (s : State) (p c : Nat) (q : List QEnt) (a' n' : Nat) : (s.setQueue p c q).memRead a' n' = s.memRead a' n' := rfl
@[simp] theorem setQueue_passedUs_of (s : State) (p c : Nat) (q : List QEnt) (t' us' : Nat) : (s.setQueue p c q).passedUs t' us' = s.passedUs t' us' := rfl

/-! `setPkt`. -/

@[simp] theorem setPkt_regs (s : State) (n : Nat) (p : Pkt) : (s.setPkt n p).regs = s.regs := rfl
@[simp] theorem setPkt_shadow (s : State) (n : Nat) (p : Pkt) : (s.setPkt n p).shadow = s.shadow := rfl
@[simp] theorem setPkt_armedBy (s : State) (n : Nat) (p : Pkt) : (s.setPkt n p).armedBy = s.armedBy := rfl
@[simp] theorem setPkt_ticks (s : State) (n : Nat) (p : Pkt) : (s.setPkt n p).ticks = s.ticks := rfl
@[simp] theorem setPkt_fabTime (s : State) (n : Nat) (p : Pkt) : (s.setPkt n p).fabTime = s.fabTime := rfl
@[simp] theorem setPkt_freeCtr (s : State) (n : Nat) (p : Pkt) : (s.setPkt n p).freeCtr = s.freeCtr := rfl
@[simp] theorem setPkt_events (s : State) (n : Nat) (p : Pkt) : (s.setPkt n p).events = s.events := rfl
@[simp] theorem setPkt_eventSeq (s : State) (n : Nat) (p : Pkt) : (s.setPkt n p).eventSeq = s.eventSeq := rfl
@[simp] theorem setPkt_pools (s : State) (n : Nat) (p : Pkt) : (s.setPkt n p).pools = s.pools := rfl
@[simp] theorem setPkt_timers (s : State) (n : Nat) (p : Pkt) : (s.setPkt n p).timers = s.timers := rfl
@[simp] theorem setPkt_fuses (s : State) (n : Nat) (p : Pkt) : (s.setPkt n p).fuses = s.fuses := rfl
@[simp] theorem setPkt_tm (s : State) (n : Nat) (p : Pkt) : (s.setPkt n p).tm = s.tm := rfl
@[simp] theorem setPkt_mem (s : State) (n : Nat) (p : Pkt) : (s.setPkt n p).mem = s.mem := rfl
@[simp] theorem setPkt_stackMem (s : State) (n : Nat) (p : Pkt) : (s.setPkt n p).stackMem = s.stackMem := rfl
@[simp] theorem setPkt_cal (s : State) (n : Nat) (p : Pkt) : (s.setPkt n p).cal = s.cal := rfl
@[simp] theorem setPkt_out (s : State) (n : Nat) (p : Pkt) : (s.setPkt n p).out = s.out := rfl
@[simp] theorem setPkt_clus (s : State) (n : Nat) (p : Pkt) : (s.setPkt n p).clus = s.clus := rfl
@[simp] theorem setPkt_colls (s : State) (n : Nat) (p : Pkt) : (s.setPkt n p).colls = s.colls := rfl
@[simp] theorem setPkt_held (s : State) (n : Nat) (p : Pkt) : (s.setPkt n p).held = s.held := rfl
@[simp] theorem setPkt_hif (s : State) (n : Nat) (p : Pkt) : (s.setPkt n p).hif = s.hif := rfl
@[simp] theorem setPkt_sec (s : State) (n : Nat) (p : Pkt) : (s.setPkt n p).sec = s.sec := rfl
@[simp] theorem setPkt_dies (s : State) (n : Nat) (p : Pkt) : (s.setPkt n p).dies = s.dies := rfl
@[simp] theorem setPkt_heat (s : State) (n : Nat) (p : Pkt) : (s.setPkt n p).heat = s.heat := rfl
@[simp] theorem setPkt_board (s : State) (n : Nat) (p : Pkt) : (s.setPkt n p).board = s.board := rfl
@[simp] theorem setPkt_flash (s : State) (n : Nat) (p : Pkt) : (s.setPkt n p).flash = s.flash := rfl
@[simp] theorem setPkt_jobs (s : State) (n : Nat) (p : Pkt) : (s.setPkt n p).jobs = s.jobs := rfl
@[simp] theorem setPkt_laneMargin (s : State) (n : Nat) (p : Pkt) : (s.setPkt n p).laneMargin = s.laneMargin := rfl
@[simp] theorem setPkt_upsets (s : State) (n : Nat) (p : Pkt) : (s.setPkt n p).upsets = s.upsets := rfl
@[simp] theorem setPkt_posts (s : State) (n : Nat) (p : Pkt) : (s.setPkt n p).posts = s.posts := rfl
@[simp] theorem setPkt_pending (s : State) (n : Nat) (p : Pkt) : (s.setPkt n p).pending = s.pending := rfl
@[simp] theorem setPkt_rd_of (s : State) (n : Nat) (p : Pkt) (r' : Reg) (i' j' : Nat) : (s.setPkt n p).rd r' i' j' = s.rd r' i' j' := rfl
@[simp] theorem setPkt_get_of (s : State) (n : Nat) (p : Pkt) (f' : Fld) (i' j' : Nat) : (s.setPkt n p).get f' i' j' = s.get f' i' j' := rfl
@[simp] theorem setPkt_flag_of (s : State) (n : Nat) (p : Pkt) (f' : Fld) (i' j' : Nat) : (s.setPkt n p).flag f' i' j' = s.flag f' i' j' := rfl
@[simp] theorem setPkt_clu_of (s : State) (n : Nat) (p : Pkt) (c' : Nat) : (s.setPkt n p).clu c' = s.clu c' := rfl
@[simp] theorem setPkt_coll_of (s : State) (n : Nat) (p : Pkt) (x' : Nat) : (s.setPkt n p).coll x' = s.coll x' := rfl
@[simp] theorem setPkt_ring_of (s : State) (n : Nat) (p : Pkt) (r' : Nat) : (s.setPkt n p).ring r' = s.ring r' := rfl
@[simp] theorem setPkt_job_of (s : State) (n : Nat) (p : Pkt) (j' : Nat) : (s.setPkt n p).job j' = s.job j' := rfl
@[simp] theorem setPkt_pool_of (s : State) (n : Nat) (p : Pkt) (k' : Nat) : (s.setPkt n p).pool k' = s.pool k' := rfl
@[simp] theorem setPkt_die_of (s : State) (n : Nat) (p : Pkt) (n' : Nat) : (s.setPkt n p).die n' = s.die n' := rfl
@[simp] theorem setPkt_stack_of (s : State) (n : Nat) (p : Pkt) (n' : Nat) : (s.setPkt n p).stack n' = s.stack n' := rfl
@[simp] theorem setPkt_nowNs_of (s : State) (n : Nat) (p : Pkt) : (s.setPkt n p).nowNs = s.nowNs := rfl
@[simp] theorem setPkt_memRead_of (s : State) (n : Nat) (p : Pkt) (a' n' : Nat) : (s.setPkt n p).memRead a' n' = s.memRead a' n' := rfl
@[simp] theorem setPkt_passedUs_of (s : State) (n : Nat) (p : Pkt) (t' us' : Nat) : (s.setPkt n p).passedUs t' us' = s.passedUs t' us' := rfl

/-! `setDie`. -/

@[simp] theorem setDie_regs (s : State) (n : Nat) (d : DieClk) : (s.setDie n d).regs = s.regs := rfl
@[simp] theorem setDie_shadow (s : State) (n : Nat) (d : DieClk) : (s.setDie n d).shadow = s.shadow := rfl
@[simp] theorem setDie_armedBy (s : State) (n : Nat) (d : DieClk) : (s.setDie n d).armedBy = s.armedBy := rfl
@[simp] theorem setDie_ticks (s : State) (n : Nat) (d : DieClk) : (s.setDie n d).ticks = s.ticks := rfl
@[simp] theorem setDie_fabTime (s : State) (n : Nat) (d : DieClk) : (s.setDie n d).fabTime = s.fabTime := rfl
@[simp] theorem setDie_freeCtr (s : State) (n : Nat) (d : DieClk) : (s.setDie n d).freeCtr = s.freeCtr := rfl
@[simp] theorem setDie_events (s : State) (n : Nat) (d : DieClk) : (s.setDie n d).events = s.events := rfl
@[simp] theorem setDie_eventSeq (s : State) (n : Nat) (d : DieClk) : (s.setDie n d).eventSeq = s.eventSeq := rfl
@[simp] theorem setDie_net (s : State) (n : Nat) (d : DieClk) : (s.setDie n d).net = s.net := rfl
@[simp] theorem setDie_pools (s : State) (n : Nat) (d : DieClk) : (s.setDie n d).pools = s.pools := rfl
@[simp] theorem setDie_timers (s : State) (n : Nat) (d : DieClk) : (s.setDie n d).timers = s.timers := rfl
@[simp] theorem setDie_fuses (s : State) (n : Nat) (d : DieClk) : (s.setDie n d).fuses = s.fuses := rfl
@[simp] theorem setDie_tm (s : State) (n : Nat) (d : DieClk) : (s.setDie n d).tm = s.tm := rfl
@[simp] theorem setDie_mem (s : State) (n : Nat) (d : DieClk) : (s.setDie n d).mem = s.mem := rfl
@[simp] theorem setDie_stackMem (s : State) (n : Nat) (d : DieClk) : (s.setDie n d).stackMem = s.stackMem := rfl
@[simp] theorem setDie_cal (s : State) (n : Nat) (d : DieClk) : (s.setDie n d).cal = s.cal := rfl
@[simp] theorem setDie_out (s : State) (n : Nat) (d : DieClk) : (s.setDie n d).out = s.out := rfl
@[simp] theorem setDie_clus (s : State) (n : Nat) (d : DieClk) : (s.setDie n d).clus = s.clus := rfl
@[simp] theorem setDie_colls (s : State) (n : Nat) (d : DieClk) : (s.setDie n d).colls = s.colls := rfl
@[simp] theorem setDie_held (s : State) (n : Nat) (d : DieClk) : (s.setDie n d).held = s.held := rfl
@[simp] theorem setDie_hif (s : State) (n : Nat) (d : DieClk) : (s.setDie n d).hif = s.hif := rfl
@[simp] theorem setDie_sec (s : State) (n : Nat) (d : DieClk) : (s.setDie n d).sec = s.sec := rfl
@[simp] theorem setDie_heat (s : State) (n : Nat) (d : DieClk) : (s.setDie n d).heat = s.heat := rfl
@[simp] theorem setDie_board (s : State) (n : Nat) (d : DieClk) : (s.setDie n d).board = s.board := rfl
@[simp] theorem setDie_flash (s : State) (n : Nat) (d : DieClk) : (s.setDie n d).flash = s.flash := rfl
@[simp] theorem setDie_jobs (s : State) (n : Nat) (d : DieClk) : (s.setDie n d).jobs = s.jobs := rfl
@[simp] theorem setDie_laneMargin (s : State) (n : Nat) (d : DieClk) : (s.setDie n d).laneMargin = s.laneMargin := rfl
@[simp] theorem setDie_upsets (s : State) (n : Nat) (d : DieClk) : (s.setDie n d).upsets = s.upsets := rfl
@[simp] theorem setDie_posts (s : State) (n : Nat) (d : DieClk) : (s.setDie n d).posts = s.posts := rfl
@[simp] theorem setDie_pending (s : State) (n : Nat) (d : DieClk) : (s.setDie n d).pending = s.pending := rfl
@[simp] theorem setDie_rd_of (s : State) (n : Nat) (d : DieClk) (r' : Reg) (i' j' : Nat) : (s.setDie n d).rd r' i' j' = s.rd r' i' j' := rfl
@[simp] theorem setDie_get_of (s : State) (n : Nat) (d : DieClk) (f' : Fld) (i' j' : Nat) : (s.setDie n d).get f' i' j' = s.get f' i' j' := rfl
@[simp] theorem setDie_flag_of (s : State) (n : Nat) (d : DieClk) (f' : Fld) (i' j' : Nat) : (s.setDie n d).flag f' i' j' = s.flag f' i' j' := rfl
@[simp] theorem setDie_clu_of (s : State) (n : Nat) (d : DieClk) (c' : Nat) : (s.setDie n d).clu c' = s.clu c' := rfl
@[simp] theorem setDie_coll_of (s : State) (n : Nat) (d : DieClk) (x' : Nat) : (s.setDie n d).coll x' = s.coll x' := rfl
@[simp] theorem setDie_ring_of (s : State) (n : Nat) (d : DieClk) (r' : Nat) : (s.setDie n d).ring r' = s.ring r' := rfl
@[simp] theorem setDie_job_of (s : State) (n : Nat) (d : DieClk) (j' : Nat) : (s.setDie n d).job j' = s.job j' := rfl
@[simp] theorem setDie_pool_of (s : State) (n : Nat) (d : DieClk) (k' : Nat) : (s.setDie n d).pool k' = s.pool k' := rfl
@[simp] theorem setDie_link_of (s : State) (n : Nat) (d : DieClk) (p' : Nat) : (s.setDie n d).link p' = s.link p' := rfl
@[simp] theorem setDie_queue_of (s : State) (n : Nat) (d : DieClk) (p' c' : Nat) : (s.setDie n d).queue p' c' = s.queue p' c' := rfl
@[simp] theorem setDie_pkt_of (s : State) (n : Nat) (d : DieClk) (n' : Nat) : (s.setDie n d).pkt n' = s.pkt n' := rfl
@[simp] theorem setDie_stack_of (s : State) (n : Nat) (d : DieClk) (n' : Nat) : (s.setDie n d).stack n' = s.stack n' := rfl
@[simp] theorem setDie_nowNs_of (s : State) (n : Nat) (d : DieClk) : (s.setDie n d).nowNs = s.nowNs := rfl
@[simp] theorem setDie_memRead_of (s : State) (n : Nat) (d : DieClk) (a' n' : Nat) : (s.setDie n d).memRead a' n' = s.memRead a' n' := rfl
@[simp] theorem setDie_passedUs_of (s : State) (n : Nat) (d : DieClk) (t' us' : Nat) : (s.setDie n d).passedUs t' us' = s.passedUs t' us' := rfl

/-! `setStack`. -/

@[simp] theorem setStack_regs (s : State) (n : Nat) (k : StackSt) : (s.setStack n k).regs = s.regs := rfl
@[simp] theorem setStack_shadow (s : State) (n : Nat) (k : StackSt) : (s.setStack n k).shadow = s.shadow := rfl
@[simp] theorem setStack_armedBy (s : State) (n : Nat) (k : StackSt) : (s.setStack n k).armedBy = s.armedBy := rfl
@[simp] theorem setStack_ticks (s : State) (n : Nat) (k : StackSt) : (s.setStack n k).ticks = s.ticks := rfl
@[simp] theorem setStack_fabTime (s : State) (n : Nat) (k : StackSt) : (s.setStack n k).fabTime = s.fabTime := rfl
@[simp] theorem setStack_freeCtr (s : State) (n : Nat) (k : StackSt) : (s.setStack n k).freeCtr = s.freeCtr := rfl
@[simp] theorem setStack_events (s : State) (n : Nat) (k : StackSt) : (s.setStack n k).events = s.events := rfl
@[simp] theorem setStack_eventSeq (s : State) (n : Nat) (k : StackSt) : (s.setStack n k).eventSeq = s.eventSeq := rfl
@[simp] theorem setStack_net (s : State) (n : Nat) (k : StackSt) : (s.setStack n k).net = s.net := rfl
@[simp] theorem setStack_pools (s : State) (n : Nat) (k : StackSt) : (s.setStack n k).pools = s.pools := rfl
@[simp] theorem setStack_timers (s : State) (n : Nat) (k : StackSt) : (s.setStack n k).timers = s.timers := rfl
@[simp] theorem setStack_fuses (s : State) (n : Nat) (k : StackSt) : (s.setStack n k).fuses = s.fuses := rfl
@[simp] theorem setStack_tm (s : State) (n : Nat) (k : StackSt) : (s.setStack n k).tm = s.tm := rfl
@[simp] theorem setStack_mem (s : State) (n : Nat) (k : StackSt) : (s.setStack n k).mem = s.mem := rfl
@[simp] theorem setStack_cal (s : State) (n : Nat) (k : StackSt) : (s.setStack n k).cal = s.cal := rfl
@[simp] theorem setStack_out (s : State) (n : Nat) (k : StackSt) : (s.setStack n k).out = s.out := rfl
@[simp] theorem setStack_clus (s : State) (n : Nat) (k : StackSt) : (s.setStack n k).clus = s.clus := rfl
@[simp] theorem setStack_colls (s : State) (n : Nat) (k : StackSt) : (s.setStack n k).colls = s.colls := rfl
@[simp] theorem setStack_held (s : State) (n : Nat) (k : StackSt) : (s.setStack n k).held = s.held := rfl
@[simp] theorem setStack_hif (s : State) (n : Nat) (k : StackSt) : (s.setStack n k).hif = s.hif := rfl
@[simp] theorem setStack_sec (s : State) (n : Nat) (k : StackSt) : (s.setStack n k).sec = s.sec := rfl
@[simp] theorem setStack_dies (s : State) (n : Nat) (k : StackSt) : (s.setStack n k).dies = s.dies := rfl
@[simp] theorem setStack_heat (s : State) (n : Nat) (k : StackSt) : (s.setStack n k).heat = s.heat := rfl
@[simp] theorem setStack_board (s : State) (n : Nat) (k : StackSt) : (s.setStack n k).board = s.board := rfl
@[simp] theorem setStack_flash (s : State) (n : Nat) (k : StackSt) : (s.setStack n k).flash = s.flash := rfl
@[simp] theorem setStack_jobs (s : State) (n : Nat) (k : StackSt) : (s.setStack n k).jobs = s.jobs := rfl
@[simp] theorem setStack_laneMargin (s : State) (n : Nat) (k : StackSt) : (s.setStack n k).laneMargin = s.laneMargin := rfl
@[simp] theorem setStack_upsets (s : State) (n : Nat) (k : StackSt) : (s.setStack n k).upsets = s.upsets := rfl
@[simp] theorem setStack_posts (s : State) (n : Nat) (k : StackSt) : (s.setStack n k).posts = s.posts := rfl
@[simp] theorem setStack_pending (s : State) (n : Nat) (k : StackSt) : (s.setStack n k).pending = s.pending := rfl
@[simp] theorem setStack_rd_of (s : State) (n : Nat) (k : StackSt) (r' : Reg) (i' j' : Nat) : (s.setStack n k).rd r' i' j' = s.rd r' i' j' := rfl
@[simp] theorem setStack_get_of (s : State) (n : Nat) (k : StackSt) (f' : Fld) (i' j' : Nat) : (s.setStack n k).get f' i' j' = s.get f' i' j' := rfl
@[simp] theorem setStack_flag_of (s : State) (n : Nat) (k : StackSt) (f' : Fld) (i' j' : Nat) : (s.setStack n k).flag f' i' j' = s.flag f' i' j' := rfl
@[simp] theorem setStack_clu_of (s : State) (n : Nat) (k : StackSt) (c' : Nat) : (s.setStack n k).clu c' = s.clu c' := rfl
@[simp] theorem setStack_coll_of (s : State) (n : Nat) (k : StackSt) (x' : Nat) : (s.setStack n k).coll x' = s.coll x' := rfl
@[simp] theorem setStack_ring_of (s : State) (n : Nat) (k : StackSt) (r' : Nat) : (s.setStack n k).ring r' = s.ring r' := rfl
@[simp] theorem setStack_job_of (s : State) (n : Nat) (k : StackSt) (j' : Nat) : (s.setStack n k).job j' = s.job j' := rfl
@[simp] theorem setStack_pool_of (s : State) (n : Nat) (k : StackSt) (k' : Nat) : (s.setStack n k).pool k' = s.pool k' := rfl
@[simp] theorem setStack_link_of (s : State) (n : Nat) (k : StackSt) (p' : Nat) : (s.setStack n k).link p' = s.link p' := rfl
@[simp] theorem setStack_queue_of (s : State) (n : Nat) (k : StackSt) (p' c' : Nat) : (s.setStack n k).queue p' c' = s.queue p' c' := rfl
@[simp] theorem setStack_pkt_of (s : State) (n : Nat) (k : StackSt) (n' : Nat) : (s.setStack n k).pkt n' = s.pkt n' := rfl
@[simp] theorem setStack_die_of (s : State) (n : Nat) (k : StackSt) (n' : Nat) : (s.setStack n k).die n' = s.die n' := rfl
@[simp] theorem setStack_nowNs_of (s : State) (n : Nat) (k : StackSt) : (s.setStack n k).nowNs = s.nowNs := rfl
@[simp] theorem setStack_memRead_of (s : State) (n : Nat) (k : StackSt) (a' n' : Nat) : (s.setStack n k).memRead a' n' = s.memRead a' n' := rfl
@[simp] theorem setStack_passedUs_of (s : State) (n : Nat) (k : StackSt) (t' us' : Nat) : (s.setStack n k).passedUs t' us' = s.passedUs t' us' := rfl

/-! `heal`. -/

@[simp] theorem heal_regs (s : State) (at_ : Spot → Bool) : (s.heal at_).regs = s.regs := rfl
@[simp] theorem heal_shadow (s : State) (at_ : Spot → Bool) : (s.heal at_).shadow = s.shadow := rfl
@[simp] theorem heal_armedBy (s : State) (at_ : Spot → Bool) : (s.heal at_).armedBy = s.armedBy := rfl
@[simp] theorem heal_ticks (s : State) (at_ : Spot → Bool) : (s.heal at_).ticks = s.ticks := rfl
@[simp] theorem heal_fabTime (s : State) (at_ : Spot → Bool) : (s.heal at_).fabTime = s.fabTime := rfl
@[simp] theorem heal_freeCtr (s : State) (at_ : Spot → Bool) : (s.heal at_).freeCtr = s.freeCtr := rfl
@[simp] theorem heal_events (s : State) (at_ : Spot → Bool) : (s.heal at_).events = s.events := rfl
@[simp] theorem heal_eventSeq (s : State) (at_ : Spot → Bool) : (s.heal at_).eventSeq = s.eventSeq := rfl
@[simp] theorem heal_net (s : State) (at_ : Spot → Bool) : (s.heal at_).net = s.net := rfl
@[simp] theorem heal_pools (s : State) (at_ : Spot → Bool) : (s.heal at_).pools = s.pools := rfl
@[simp] theorem heal_timers (s : State) (at_ : Spot → Bool) : (s.heal at_).timers = s.timers := rfl
@[simp] theorem heal_fuses (s : State) (at_ : Spot → Bool) : (s.heal at_).fuses = s.fuses := rfl
@[simp] theorem heal_tm (s : State) (at_ : Spot → Bool) : (s.heal at_).tm = s.tm := rfl
@[simp] theorem heal_mem (s : State) (at_ : Spot → Bool) : (s.heal at_).mem = s.mem := rfl
@[simp] theorem heal_stackMem (s : State) (at_ : Spot → Bool) : (s.heal at_).stackMem = s.stackMem := rfl
@[simp] theorem heal_cal (s : State) (at_ : Spot → Bool) : (s.heal at_).cal = s.cal := rfl
@[simp] theorem heal_out (s : State) (at_ : Spot → Bool) : (s.heal at_).out = s.out := rfl
@[simp] theorem heal_clus (s : State) (at_ : Spot → Bool) : (s.heal at_).clus = s.clus := rfl
@[simp] theorem heal_colls (s : State) (at_ : Spot → Bool) : (s.heal at_).colls = s.colls := rfl
@[simp] theorem heal_held (s : State) (at_ : Spot → Bool) : (s.heal at_).held = s.held := rfl
@[simp] theorem heal_hif (s : State) (at_ : Spot → Bool) : (s.heal at_).hif = s.hif := rfl
@[simp] theorem heal_sec (s : State) (at_ : Spot → Bool) : (s.heal at_).sec = s.sec := rfl
@[simp] theorem heal_dies (s : State) (at_ : Spot → Bool) : (s.heal at_).dies = s.dies := rfl
@[simp] theorem heal_heat (s : State) (at_ : Spot → Bool) : (s.heal at_).heat = s.heat := rfl
@[simp] theorem heal_board (s : State) (at_ : Spot → Bool) : (s.heal at_).board = s.board := rfl
@[simp] theorem heal_flash (s : State) (at_ : Spot → Bool) : (s.heal at_).flash = s.flash := rfl
@[simp] theorem heal_jobs (s : State) (at_ : Spot → Bool) : (s.heal at_).jobs = s.jobs := rfl
@[simp] theorem heal_laneMargin (s : State) (at_ : Spot → Bool) : (s.heal at_).laneMargin = s.laneMargin := rfl
@[simp] theorem heal_posts (s : State) (at_ : Spot → Bool) : (s.heal at_).posts = s.posts := rfl
@[simp] theorem heal_pending (s : State) (at_ : Spot → Bool) : (s.heal at_).pending = s.pending := rfl
@[simp] theorem heal_rd_of (s : State) (at_ : Spot → Bool) (r' : Reg) (i' j' : Nat) : (s.heal at_).rd r' i' j' = s.rd r' i' j' := rfl
@[simp] theorem heal_get_of (s : State) (at_ : Spot → Bool) (f' : Fld) (i' j' : Nat) : (s.heal at_).get f' i' j' = s.get f' i' j' := rfl
@[simp] theorem heal_flag_of (s : State) (at_ : Spot → Bool) (f' : Fld) (i' j' : Nat) : (s.heal at_).flag f' i' j' = s.flag f' i' j' := rfl
@[simp] theorem heal_clu_of (s : State) (at_ : Spot → Bool) (c' : Nat) : (s.heal at_).clu c' = s.clu c' := rfl
@[simp] theorem heal_coll_of (s : State) (at_ : Spot → Bool) (x' : Nat) : (s.heal at_).coll x' = s.coll x' := rfl
@[simp] theorem heal_ring_of (s : State) (at_ : Spot → Bool) (r' : Nat) : (s.heal at_).ring r' = s.ring r' := rfl
@[simp] theorem heal_job_of (s : State) (at_ : Spot → Bool) (j' : Nat) : (s.heal at_).job j' = s.job j' := rfl
@[simp] theorem heal_pool_of (s : State) (at_ : Spot → Bool) (k' : Nat) : (s.heal at_).pool k' = s.pool k' := rfl
@[simp] theorem heal_link_of (s : State) (at_ : Spot → Bool) (p' : Nat) : (s.heal at_).link p' = s.link p' := rfl
@[simp] theorem heal_queue_of (s : State) (at_ : Spot → Bool) (p' c' : Nat) : (s.heal at_).queue p' c' = s.queue p' c' := rfl
@[simp] theorem heal_pkt_of (s : State) (at_ : Spot → Bool) (n' : Nat) : (s.heal at_).pkt n' = s.pkt n' := rfl
@[simp] theorem heal_die_of (s : State) (at_ : Spot → Bool) (n' : Nat) : (s.heal at_).die n' = s.die n' := rfl
@[simp] theorem heal_stack_of (s : State) (at_ : Spot → Bool) (n' : Nat) : (s.heal at_).stack n' = s.stack n' := rfl
@[simp] theorem heal_nowNs_of (s : State) (at_ : Spot → Bool) : (s.heal at_).nowNs = s.nowNs := rfl
@[simp] theorem heal_memRead_of (s : State) (at_ : Spot → Bool) (a' n' : Nat) : (s.heal at_).memRead a' n' = s.memRead a' n' := rfl
@[simp] theorem heal_passedUs_of (s : State) (at_ : Spot → Bool) (t' us' : Nat) : (s.heal at_).passedUs t' us' = s.passedUs t' us' := rfl

/-! `emit`. -/

@[simp] theorem emit_regs (s : State) (o : Out) : (s.emit o).regs = s.regs := rfl
@[simp] theorem emit_shadow (s : State) (o : Out) : (s.emit o).shadow = s.shadow := rfl
@[simp] theorem emit_armedBy (s : State) (o : Out) : (s.emit o).armedBy = s.armedBy := rfl
@[simp] theorem emit_ticks (s : State) (o : Out) : (s.emit o).ticks = s.ticks := rfl
@[simp] theorem emit_fabTime (s : State) (o : Out) : (s.emit o).fabTime = s.fabTime := rfl
@[simp] theorem emit_freeCtr (s : State) (o : Out) : (s.emit o).freeCtr = s.freeCtr := rfl
@[simp] theorem emit_events (s : State) (o : Out) : (s.emit o).events = s.events := rfl
@[simp] theorem emit_eventSeq (s : State) (o : Out) : (s.emit o).eventSeq = s.eventSeq := rfl
@[simp] theorem emit_net (s : State) (o : Out) : (s.emit o).net = s.net := rfl
@[simp] theorem emit_pools (s : State) (o : Out) : (s.emit o).pools = s.pools := rfl
@[simp] theorem emit_timers (s : State) (o : Out) : (s.emit o).timers = s.timers := rfl
@[simp] theorem emit_fuses (s : State) (o : Out) : (s.emit o).fuses = s.fuses := rfl
@[simp] theorem emit_tm (s : State) (o : Out) : (s.emit o).tm = s.tm := rfl
@[simp] theorem emit_mem (s : State) (o : Out) : (s.emit o).mem = s.mem := rfl
@[simp] theorem emit_stackMem (s : State) (o : Out) : (s.emit o).stackMem = s.stackMem := rfl
@[simp] theorem emit_cal (s : State) (o : Out) : (s.emit o).cal = s.cal := rfl
@[simp] theorem emit_clus (s : State) (o : Out) : (s.emit o).clus = s.clus := rfl
@[simp] theorem emit_colls (s : State) (o : Out) : (s.emit o).colls = s.colls := rfl
@[simp] theorem emit_held (s : State) (o : Out) : (s.emit o).held = s.held := rfl
@[simp] theorem emit_hif (s : State) (o : Out) : (s.emit o).hif = s.hif := rfl
@[simp] theorem emit_sec (s : State) (o : Out) : (s.emit o).sec = s.sec := rfl
@[simp] theorem emit_dies (s : State) (o : Out) : (s.emit o).dies = s.dies := rfl
@[simp] theorem emit_heat (s : State) (o : Out) : (s.emit o).heat = s.heat := rfl
@[simp] theorem emit_board (s : State) (o : Out) : (s.emit o).board = s.board := rfl
@[simp] theorem emit_flash (s : State) (o : Out) : (s.emit o).flash = s.flash := rfl
@[simp] theorem emit_jobs (s : State) (o : Out) : (s.emit o).jobs = s.jobs := rfl
@[simp] theorem emit_laneMargin (s : State) (o : Out) : (s.emit o).laneMargin = s.laneMargin := rfl
@[simp] theorem emit_upsets (s : State) (o : Out) : (s.emit o).upsets = s.upsets := rfl
@[simp] theorem emit_posts (s : State) (o : Out) : (s.emit o).posts = s.posts := rfl
@[simp] theorem emit_pending (s : State) (o : Out) : (s.emit o).pending = s.pending := rfl
@[simp] theorem emit_rd_of (s : State) (o : Out) (r' : Reg) (i' j' : Nat) : (s.emit o).rd r' i' j' = s.rd r' i' j' := rfl
@[simp] theorem emit_get_of (s : State) (o : Out) (f' : Fld) (i' j' : Nat) : (s.emit o).get f' i' j' = s.get f' i' j' := rfl
@[simp] theorem emit_flag_of (s : State) (o : Out) (f' : Fld) (i' j' : Nat) : (s.emit o).flag f' i' j' = s.flag f' i' j' := rfl
@[simp] theorem emit_clu_of (s : State) (o : Out) (c' : Nat) : (s.emit o).clu c' = s.clu c' := rfl
@[simp] theorem emit_coll_of (s : State) (o : Out) (x' : Nat) : (s.emit o).coll x' = s.coll x' := rfl
@[simp] theorem emit_ring_of (s : State) (o : Out) (r' : Nat) : (s.emit o).ring r' = s.ring r' := rfl
@[simp] theorem emit_job_of (s : State) (o : Out) (j' : Nat) : (s.emit o).job j' = s.job j' := rfl
@[simp] theorem emit_pool_of (s : State) (o : Out) (k' : Nat) : (s.emit o).pool k' = s.pool k' := rfl
@[simp] theorem emit_link_of (s : State) (o : Out) (p' : Nat) : (s.emit o).link p' = s.link p' := rfl
@[simp] theorem emit_queue_of (s : State) (o : Out) (p' c' : Nat) : (s.emit o).queue p' c' = s.queue p' c' := rfl
@[simp] theorem emit_pkt_of (s : State) (o : Out) (n' : Nat) : (s.emit o).pkt n' = s.pkt n' := rfl
@[simp] theorem emit_die_of (s : State) (o : Out) (n' : Nat) : (s.emit o).die n' = s.die n' := rfl
@[simp] theorem emit_stack_of (s : State) (o : Out) (n' : Nat) : (s.emit o).stack n' = s.stack n' := rfl
@[simp] theorem emit_nowNs_of (s : State) (o : Out) : (s.emit o).nowNs = s.nowNs := rfl
@[simp] theorem emit_memRead_of (s : State) (o : Out) (a' n' : Nat) : (s.emit o).memRead a' n' = s.memRead a' n' := rfl
@[simp] theorem emit_passedUs_of (s : State) (o : Out) (t' us' : Nat) : (s.emit o).passedUs t' us' = s.passedUs t' us' := rfl

/-! `memWrite`. -/

@[simp] theorem memWrite_regs (s : State) (a : Nat) (bs : List Byte) : (s.memWrite a bs).regs = s.regs := rfl
@[simp] theorem memWrite_shadow (s : State) (a : Nat) (bs : List Byte) : (s.memWrite a bs).shadow = s.shadow := rfl
@[simp] theorem memWrite_armedBy (s : State) (a : Nat) (bs : List Byte) : (s.memWrite a bs).armedBy = s.armedBy := rfl
@[simp] theorem memWrite_ticks (s : State) (a : Nat) (bs : List Byte) : (s.memWrite a bs).ticks = s.ticks := rfl
@[simp] theorem memWrite_fabTime (s : State) (a : Nat) (bs : List Byte) : (s.memWrite a bs).fabTime = s.fabTime := rfl
@[simp] theorem memWrite_freeCtr (s : State) (a : Nat) (bs : List Byte) : (s.memWrite a bs).freeCtr = s.freeCtr := rfl
@[simp] theorem memWrite_events (s : State) (a : Nat) (bs : List Byte) : (s.memWrite a bs).events = s.events := rfl
@[simp] theorem memWrite_eventSeq (s : State) (a : Nat) (bs : List Byte) : (s.memWrite a bs).eventSeq = s.eventSeq := rfl
@[simp] theorem memWrite_net (s : State) (a : Nat) (bs : List Byte) : (s.memWrite a bs).net = s.net := rfl
@[simp] theorem memWrite_pools (s : State) (a : Nat) (bs : List Byte) : (s.memWrite a bs).pools = s.pools := rfl
@[simp] theorem memWrite_timers (s : State) (a : Nat) (bs : List Byte) : (s.memWrite a bs).timers = s.timers := rfl
@[simp] theorem memWrite_fuses (s : State) (a : Nat) (bs : List Byte) : (s.memWrite a bs).fuses = s.fuses := rfl
@[simp] theorem memWrite_tm (s : State) (a : Nat) (bs : List Byte) : (s.memWrite a bs).tm = s.tm := rfl
@[simp] theorem memWrite_stackMem (s : State) (a : Nat) (bs : List Byte) : (s.memWrite a bs).stackMem = s.stackMem := rfl
@[simp] theorem memWrite_cal (s : State) (a : Nat) (bs : List Byte) : (s.memWrite a bs).cal = s.cal := rfl
@[simp] theorem memWrite_out (s : State) (a : Nat) (bs : List Byte) : (s.memWrite a bs).out = s.out := rfl
@[simp] theorem memWrite_clus (s : State) (a : Nat) (bs : List Byte) : (s.memWrite a bs).clus = s.clus := rfl
@[simp] theorem memWrite_colls (s : State) (a : Nat) (bs : List Byte) : (s.memWrite a bs).colls = s.colls := rfl
@[simp] theorem memWrite_held (s : State) (a : Nat) (bs : List Byte) : (s.memWrite a bs).held = s.held := rfl
@[simp] theorem memWrite_hif (s : State) (a : Nat) (bs : List Byte) : (s.memWrite a bs).hif = s.hif := rfl
@[simp] theorem memWrite_sec (s : State) (a : Nat) (bs : List Byte) : (s.memWrite a bs).sec = s.sec := rfl
@[simp] theorem memWrite_dies (s : State) (a : Nat) (bs : List Byte) : (s.memWrite a bs).dies = s.dies := rfl
@[simp] theorem memWrite_heat (s : State) (a : Nat) (bs : List Byte) : (s.memWrite a bs).heat = s.heat := rfl
@[simp] theorem memWrite_board (s : State) (a : Nat) (bs : List Byte) : (s.memWrite a bs).board = s.board := rfl
@[simp] theorem memWrite_flash (s : State) (a : Nat) (bs : List Byte) : (s.memWrite a bs).flash = s.flash := rfl
@[simp] theorem memWrite_jobs (s : State) (a : Nat) (bs : List Byte) : (s.memWrite a bs).jobs = s.jobs := rfl
@[simp] theorem memWrite_laneMargin (s : State) (a : Nat) (bs : List Byte) : (s.memWrite a bs).laneMargin = s.laneMargin := rfl
@[simp] theorem memWrite_upsets (s : State) (a : Nat) (bs : List Byte) : (s.memWrite a bs).upsets = s.upsets := rfl
@[simp] theorem memWrite_posts (s : State) (a : Nat) (bs : List Byte) : (s.memWrite a bs).posts = s.posts := rfl
@[simp] theorem memWrite_pending (s : State) (a : Nat) (bs : List Byte) : (s.memWrite a bs).pending = s.pending := rfl
@[simp] theorem memWrite_rd_of (s : State) (a : Nat) (bs : List Byte) (r' : Reg) (i' j' : Nat) : (s.memWrite a bs).rd r' i' j' = s.rd r' i' j' := rfl
@[simp] theorem memWrite_get_of (s : State) (a : Nat) (bs : List Byte) (f' : Fld) (i' j' : Nat) : (s.memWrite a bs).get f' i' j' = s.get f' i' j' := rfl
@[simp] theorem memWrite_flag_of (s : State) (a : Nat) (bs : List Byte) (f' : Fld) (i' j' : Nat) : (s.memWrite a bs).flag f' i' j' = s.flag f' i' j' := rfl
@[simp] theorem memWrite_clu_of (s : State) (a : Nat) (bs : List Byte) (c' : Nat) : (s.memWrite a bs).clu c' = s.clu c' := rfl
@[simp] theorem memWrite_coll_of (s : State) (a : Nat) (bs : List Byte) (x' : Nat) : (s.memWrite a bs).coll x' = s.coll x' := rfl
@[simp] theorem memWrite_ring_of (s : State) (a : Nat) (bs : List Byte) (r' : Nat) : (s.memWrite a bs).ring r' = s.ring r' := rfl
@[simp] theorem memWrite_job_of (s : State) (a : Nat) (bs : List Byte) (j' : Nat) : (s.memWrite a bs).job j' = s.job j' := rfl
@[simp] theorem memWrite_pool_of (s : State) (a : Nat) (bs : List Byte) (k' : Nat) : (s.memWrite a bs).pool k' = s.pool k' := rfl
@[simp] theorem memWrite_link_of (s : State) (a : Nat) (bs : List Byte) (p' : Nat) : (s.memWrite a bs).link p' = s.link p' := rfl
@[simp] theorem memWrite_queue_of (s : State) (a : Nat) (bs : List Byte) (p' c' : Nat) : (s.memWrite a bs).queue p' c' = s.queue p' c' := rfl
@[simp] theorem memWrite_pkt_of (s : State) (a : Nat) (bs : List Byte) (n' : Nat) : (s.memWrite a bs).pkt n' = s.pkt n' := rfl
@[simp] theorem memWrite_die_of (s : State) (a : Nat) (bs : List Byte) (n' : Nat) : (s.memWrite a bs).die n' = s.die n' := rfl
@[simp] theorem memWrite_stack_of (s : State) (a : Nat) (bs : List Byte) (n' : Nat) : (s.memWrite a bs).stack n' = s.stack n' := rfl
@[simp] theorem memWrite_nowNs_of (s : State) (a : Nat) (bs : List Byte) : (s.memWrite a bs).nowNs = s.nowNs := rfl
@[simp] theorem memWrite_passedUs_of (s : State) (a : Nat) (bs : List Byte) (t' us' : Nat) : (s.memWrite a bs).passedUs t' us' = s.passedUs t' us' := rfl

/-! `memClear`. -/

@[simp] theorem memClear_regs (s : State) (a n : Nat) : (s.memClear a n).regs = s.regs := rfl
@[simp] theorem memClear_shadow (s : State) (a n : Nat) : (s.memClear a n).shadow = s.shadow := rfl
@[simp] theorem memClear_armedBy (s : State) (a n : Nat) : (s.memClear a n).armedBy = s.armedBy := rfl
@[simp] theorem memClear_ticks (s : State) (a n : Nat) : (s.memClear a n).ticks = s.ticks := rfl
@[simp] theorem memClear_fabTime (s : State) (a n : Nat) : (s.memClear a n).fabTime = s.fabTime := rfl
@[simp] theorem memClear_freeCtr (s : State) (a n : Nat) : (s.memClear a n).freeCtr = s.freeCtr := rfl
@[simp] theorem memClear_events (s : State) (a n : Nat) : (s.memClear a n).events = s.events := rfl
@[simp] theorem memClear_eventSeq (s : State) (a n : Nat) : (s.memClear a n).eventSeq = s.eventSeq := rfl
@[simp] theorem memClear_net (s : State) (a n : Nat) : (s.memClear a n).net = s.net := rfl
@[simp] theorem memClear_pools (s : State) (a n : Nat) : (s.memClear a n).pools = s.pools := rfl
@[simp] theorem memClear_timers (s : State) (a n : Nat) : (s.memClear a n).timers = s.timers := rfl
@[simp] theorem memClear_fuses (s : State) (a n : Nat) : (s.memClear a n).fuses = s.fuses := rfl
@[simp] theorem memClear_tm (s : State) (a n : Nat) : (s.memClear a n).tm = s.tm := rfl
@[simp] theorem memClear_stackMem (s : State) (a n : Nat) : (s.memClear a n).stackMem = s.stackMem := rfl
@[simp] theorem memClear_cal (s : State) (a n : Nat) : (s.memClear a n).cal = s.cal := rfl
@[simp] theorem memClear_out (s : State) (a n : Nat) : (s.memClear a n).out = s.out := rfl
@[simp] theorem memClear_clus (s : State) (a n : Nat) : (s.memClear a n).clus = s.clus := rfl
@[simp] theorem memClear_colls (s : State) (a n : Nat) : (s.memClear a n).colls = s.colls := rfl
@[simp] theorem memClear_held (s : State) (a n : Nat) : (s.memClear a n).held = s.held := rfl
@[simp] theorem memClear_hif (s : State) (a n : Nat) : (s.memClear a n).hif = s.hif := rfl
@[simp] theorem memClear_sec (s : State) (a n : Nat) : (s.memClear a n).sec = s.sec := rfl
@[simp] theorem memClear_dies (s : State) (a n : Nat) : (s.memClear a n).dies = s.dies := rfl
@[simp] theorem memClear_heat (s : State) (a n : Nat) : (s.memClear a n).heat = s.heat := rfl
@[simp] theorem memClear_board (s : State) (a n : Nat) : (s.memClear a n).board = s.board := rfl
@[simp] theorem memClear_flash (s : State) (a n : Nat) : (s.memClear a n).flash = s.flash := rfl
@[simp] theorem memClear_jobs (s : State) (a n : Nat) : (s.memClear a n).jobs = s.jobs := rfl
@[simp] theorem memClear_laneMargin (s : State) (a n : Nat) : (s.memClear a n).laneMargin = s.laneMargin := rfl
@[simp] theorem memClear_upsets (s : State) (a n : Nat) : (s.memClear a n).upsets = s.upsets := rfl
@[simp] theorem memClear_posts (s : State) (a n : Nat) : (s.memClear a n).posts = s.posts := rfl
@[simp] theorem memClear_pending (s : State) (a n : Nat) : (s.memClear a n).pending = s.pending := rfl
@[simp] theorem memClear_rd_of (s : State) (a n : Nat) (r' : Reg) (i' j' : Nat) : (s.memClear a n).rd r' i' j' = s.rd r' i' j' := rfl
@[simp] theorem memClear_get_of (s : State) (a n : Nat) (f' : Fld) (i' j' : Nat) : (s.memClear a n).get f' i' j' = s.get f' i' j' := rfl
@[simp] theorem memClear_flag_of (s : State) (a n : Nat) (f' : Fld) (i' j' : Nat) : (s.memClear a n).flag f' i' j' = s.flag f' i' j' := rfl
@[simp] theorem memClear_clu_of (s : State) (a n : Nat) (c' : Nat) : (s.memClear a n).clu c' = s.clu c' := rfl
@[simp] theorem memClear_coll_of (s : State) (a n : Nat) (x' : Nat) : (s.memClear a n).coll x' = s.coll x' := rfl
@[simp] theorem memClear_ring_of (s : State) (a n : Nat) (r' : Nat) : (s.memClear a n).ring r' = s.ring r' := rfl
@[simp] theorem memClear_job_of (s : State) (a n : Nat) (j' : Nat) : (s.memClear a n).job j' = s.job j' := rfl
@[simp] theorem memClear_pool_of (s : State) (a n : Nat) (k' : Nat) : (s.memClear a n).pool k' = s.pool k' := rfl
@[simp] theorem memClear_link_of (s : State) (a n : Nat) (p' : Nat) : (s.memClear a n).link p' = s.link p' := rfl
@[simp] theorem memClear_queue_of (s : State) (a n : Nat) (p' c' : Nat) : (s.memClear a n).queue p' c' = s.queue p' c' := rfl
@[simp] theorem memClear_pkt_of (s : State) (a n : Nat) (n' : Nat) : (s.memClear a n).pkt n' = s.pkt n' := rfl
@[simp] theorem memClear_die_of (s : State) (a n : Nat) (n' : Nat) : (s.memClear a n).die n' = s.die n' := rfl
@[simp] theorem memClear_stack_of (s : State) (a n : Nat) (n' : Nat) : (s.memClear a n).stack n' = s.stack n' := rfl
@[simp] theorem memClear_nowNs_of (s : State) (a n : Nat) : (s.memClear a n).nowNs = s.nowNs := rfl
@[simp] theorem memClear_passedUs_of (s : State) (a n : Nat) (t' us' : Nat) : (s.memClear a n).passedUs t' us' = s.passedUs t' us' := rfl

end Sys2Proof.Laws
end

