-- ==== Sys2Proof/Machine/PromptCode.lean ====
section
/-! DEFINITION. The instruction words of the prompter commands, and the command that a legal word stands for (R293, R295). A
prompter command acts only where the word at PC is its own. -/

namespace Sys2Proof.Machine

/-- The cluster and the word of a prompter command; other commands have none. -/
def promptWord (i : Instr) : Option (ClusterId × Word) :=
  match i with
  | .aluAdd c rd ra rb => some (c, encR 0x01 rd ra rb 0)
  | .aluSub c rd ra rb => some (c, encR 0x01 rd ra rb 1)
  | .aluAnd c rd ra rb => some (c, encR 0x01 rd ra rb 2)
  | .aluOr c rd ra rb => some (c, encR 0x01 rd ra rb 3)
  | .aluXor c rd ra rb => some (c, encR 0x01 rd ra rb 4)
  | .aluSll c rd ra rb => some (c, encR 0x01 rd ra rb 5)
  | .aluSrl c rd ra rb => some (c, encR 0x01 rd ra rb 6)
  | .aluSra c rd ra rb => some (c, encR 0x01 rd ra rb 7)
  | .aluSlt c rd ra rb => some (c, encR 0x01 rd ra rb 8)
  | .aluSltu c rd ra rb => some (c, encR 0x01 rd ra rb 9)
  | .aluMul c rd ra rb => some (c, encR 0x01 rd ra rb 10)
  | .aluMulh c rd ra rb => some (c, encR 0x01 rd ra rb 11)
  | .aluMulhu c rd ra rb => some (c, encR 0x01 rd ra rb 12)
  | .aluMin c rd ra rb => some (c, encR 0x01 rd ra rb 13)
  | .aluMax c rd ra rb => some (c, encR 0x01 rd ra rb 14)
  | .aluMinu c rd ra rb => some (c, encR 0x01 rd ra rb 15)
  | .aluMaxu c rd ra rb => some (c, encR 0x01 rd ra rb 16)
  | .aluRotl c rd ra rb => some (c, encR 0x01 rd ra rb 17)
  | .aluClz c rd ra => some (c, encR 0x01 rd ra 0 18)
  | .aluPopc c rd ra => some (c, encR 0x01 rd ra 0 19)
  | .addi c rd ra imm => some (c, encI 0x02 rd ra imm)
  | .andi c rd ra imm => some (c, encI 0x03 rd ra imm)
  | .ori c rd ra imm => some (c, encI 0x04 rd ra imm)
  | .xori c rd ra imm => some (c, encI 0x05 rd ra imm)
  | .slti c rd ra imm => some (c, encI 0x06 rd ra imm)
  | .sltiu c rd ra imm => some (c, encI 0x07 rd ra imm)
  | .shi c rd ra kind amt => some (c, encI 0x08 rd ra ((0#9) ++ kind ++ amt))
  | .lui c rd imm => some (c, encI 0x09 rd 0 imm)
  | .lb c rd ra imm => some (c, encI 0x10 rd ra imm)
  | .lbu c rd ra imm => some (c, encI 0x11 rd ra imm)
  | .lh c rd ra imm => some (c, encI 0x12 rd ra imm)
  | .lhu c rd ra imm => some (c, encI 0x13 rd ra imm)
  | .lw c rd ra imm => some (c, encI 0x14 rd ra imm)
  | .sb c rs ra imm => some (c, encI 0x15 rs ra imm)
  | .sh c rs ra imm => some (c, encI 0x16 rs ra imm)
  | .sw c rs ra imm => some (c, encI 0x17 rs ra imm)
  | .lbx c rd ra imm => some (c, encI 0x18 rd ra imm)
  | .lbux c rd ra imm => some (c, encI 0x19 rd ra imm)
  | .lhx c rd ra imm => some (c, encI 0x1A rd ra imm)
  | .lhux c rd ra imm => some (c, encI 0x1B rd ra imm)
  | .lwx c rd ra imm => some (c, encI 0x1C rd ra imm)
  | .sbx c rs ra imm => some (c, encI 0x1D rs ra imm)
  | .shx c rs ra imm => some (c, encI 0x1E rs ra imm)
  | .swx c rs ra imm => some (c, encI 0x1F rs ra imm)
  | .beq c ra rb off => some (c, encI 0x20 ra rb off)
  | .bne c ra rb off => some (c, encI 0x21 ra rb off)
  | .blt c ra rb off => some (c, encI 0x22 ra rb off)
  | .bge c ra rb off => some (c, encI 0x23 ra rb off)
  | .bltu c ra rb off => some (c, encI 0x24 ra rb off)
  | .bgeu c ra rb off => some (c, encI 0x25 ra rb off)
  | .jal c rd off => some (c, encI 0x26 rd 0 off)
  | .jalr c rd ra imm => some (c, encI 0x27 rd ra imm)
  | .loop c n ra last => some (c, encL 0x28 n (ra ++ (0#4)) last)
  | .loopi c n count last => some (c, encL 0x29 n count last)
  | .csrr c rd csr => some (c, encI 0x2A rd 0 (csr.zeroExtend 16))
  | .csrw c rs csr => some (c, encI 0x2B rs 0 (csr.zeroExtend 16))
  | .setf c x => some (c, encF 0x30 x)
  | .clrf c x => some (c, encF 0x31 x)
  | .tstf c x => some (c, encF 0x32 x)
  | .waitf c x => some (c, encF 0x33 x)
  | .carr c x => some (c, encF 0x34 x)
  | .time c rd => some (c, encI 0x35 rd 0 0)
  | .waitt c ra => some (c, encI 0x36 ra 0 0)
  | .issue c rd ra slot => some (c, encR 0x38 rd ra 0 slot)
  | .mqry c rd ra sel => some (c, encI 0x39 rd ra sel)
  | .mwait c x => some (c, encF 0x3A x)
  | .issuer c rd ra rb => some (c, encR 0x3B rd ra rb 0)
  | .end_ c => some (c, encR 0x3F 0 0 0 0)
  | _ => none

/-- The command of an ALU word: opcode 0x01, by FN (R295). -/
def decodeAlu (c : ClusterId) (w : Word) : Option Instr :=
  let a := wA w
  let b := wB w
  let d := wC w
  match (wFn w).toNat with
  | 0 => some (.aluAdd c a b d)
  | 1 => some (.aluSub c a b d)
  | 2 => some (.aluAnd c a b d)
  | 3 => some (.aluOr c a b d)
  | 4 => some (.aluXor c a b d)
  | 5 => some (.aluSll c a b d)
  | 6 => some (.aluSrl c a b d)
  | 7 => some (.aluSra c a b d)
  | 8 => some (.aluSlt c a b d)
  | 9 => some (.aluSltu c a b d)
  | 10 => some (.aluMul c a b d)
  | 11 => some (.aluMulh c a b d)
  | 12 => some (.aluMulhu c a b d)
  | 13 => some (.aluMin c a b d)
  | 14 => some (.aluMax c a b d)
  | 15 => some (.aluMinu c a b d)
  | 16 => some (.aluMaxu c a b d)
  | 17 => some (.aluRotl c a b d)
  | 18 => some (.aluClz c a b)
  | 19 => some (.aluPopc c a b)
  | _ => none

/-- The command that a word stands for in cluster `c`: none where the word is illegal (R293, R295). -/
def decodePrompt (c : ClusterId) (w : Word) : Option Instr :=
  if legalWord w = false then none
  else
    let a := wA w
    let b := wB w
    let imm := wImm w
    match (wOp w).toNat with
    | 0x01 => decodeAlu c w
    | 0x02 => some (.addi c a b imm)
    | 0x03 => some (.andi c a b imm)
    | 0x04 => some (.ori c a b imm)
    | 0x05 => some (.xori c a b imm)
    | 0x06 => some (.slti c a b imm)
    | 0x07 => some (.sltiu c a b imm)
    | 0x08 => some (.shi c a b (imm.extractLsb' 5 2) (imm.extractLsb' 0 5))
    | 0x09 => some (.lui c a imm)
    | 0x10 => some (.lb c a b imm)
    | 0x11 => some (.lbu c a b imm)
    | 0x12 => some (.lh c a b imm)
    | 0x13 => some (.lhu c a b imm)
    | 0x14 => some (.lw c a b imm)
    | 0x15 => some (.sb c a b imm)
    | 0x16 => some (.sh c a b imm)
    | 0x17 => some (.sw c a b imm)
    | 0x18 => some (.lbx c a b imm)
    | 0x19 => some (.lbux c a b imm)
    | 0x1A => some (.lhx c a b imm)
    | 0x1B => some (.lhux c a b imm)
    | 0x1C => some (.lwx c a b imm)
    | 0x1D => some (.sbx c a b imm)
    | 0x1E => some (.shx c a b imm)
    | 0x1F => some (.swx c a b imm)
    | 0x20 => some (.beq c a b imm)
    | 0x21 => some (.bne c a b imm)
    | 0x22 => some (.blt c a b imm)
    | 0x23 => some (.bge c a b imm)
    | 0x24 => some (.bltu c a b imm)
    | 0x25 => some (.bgeu c a b imm)
    | 0x26 => some (.jal c a imm)
    | 0x27 => some (.jalr c a b imm)
    | 0x28 => some (.loop c (wLoop w) ((wMid w).extractLsb' 4 5) imm)
    | 0x29 => some (.loopi c (wLoop w) (wMid w) imm)
    | 0x2A => some (.csrr c a (imm.extractLsb' 0 12))
    | 0x2B => some (.csrw c a (imm.extractLsb' 0 12))
    | 0x30 => some (.setf c (wForm w))
    | 0x31 => some (.clrf c (wForm w))
    | 0x32 => some (.tstf c (wForm w))
    | 0x33 => some (.waitf c (wForm w))
    | 0x34 => some (.carr c (wForm w))
    | 0x35 => some (.time c a)
    | 0x36 => some (.waitt c a)
    | 0x38 => some (.issue c a b (wFn w))
    | 0x39 => some (.mqry c a b imm)
    | 0x3A => some (.mwait c (wForm w))
    | 0x3B => some (.issuer c a b (wC w))
    | 0x3F => some (.end_ c)
    | _ => none

end Sys2Proof.Machine
end

