-- ==== Sys2Proof/Safety.lean ====
section
/-! DEFINITION. What counts as a sound state, in the terms that claims use: canonical stores, sound registers, aligned prompters,
and a prompter that is ready to execute a given word. -/

namespace Sys2Proof.Machine

/-- The canonical form of a sparse byte store: addresses strictly rising, and no byte listed that an unlisted address reads as. -/
def Memory.wf (m : List Host.Cell) : Bool := rising none m && m.all fun c => c.2 != 0

/-- The register store is canonical: offsets strictly rising. -/
def Regs.wf (m : SMap Word) : Bool := rising none m

/-- A sound state: its byte stores and its register store are canonical. -/
def State.wf (s : State) : Bool := Memory.wf s.mem && Memory.wf s.flash && Regs.wf s.regs

/-- A prompter's PC names a word of the 64 KiB instruction memory (R293). -/
def Clu.aligned (k : Clu) : Bool := decide (k.pc < 65536) && k.pc % 4 == 0

/-- A cluster's prompter is about to execute `w`: it may run, the word at PC is `w` and legal, none of the registers that the
instruction names waits for a far load (R314), and the word may stand where it stands in a loop body (R305). -/
def readyFor (s : State) (c : Nat) (w : Word) (used : List GReg) : Bool :=
  canRun s c && imemWord s c (s.clu c).pc == w && legalWord w && !(used.any (s.clu c).pendingReg) &&
    !(endsBody w && (s.clu c).atBodyEnd)

/-- A run is safe where no step stops: every command of this block completes. -/
def completes (i : Instr) (s : State) : Prop := ∃ t, exec i s = .next t

/-- Bytes of device memory by physical key are as before outside a list of (key, length) ranges. -/
def memSame (s t : State) (ranges : List (Nat × Nat)) : Prop :=
  ∀ a, (∀ r ∈ ranges, ¬(r.1 ≤ a ∧ a < r.1 + r.2)) → memByte t.mem a = memByte s.mem a

end Sys2Proof.Machine
end

