-- ==== Sys2Proof/Laws/Tables.lean ====
section
/-! SUPPORT. Laws of the sparse tables, of byte stores, of the register store, and of replaced clusters, links and rings. -/

namespace Sys2Proof.Laws

open Sys2Proof.Machine

/-! Lookups. -/

@[simp] theorem lookup_insert_same {α : Type} (m : SMap α) (k : Nat) (a : α) : lookup (place m k a) k = some a := by
  induction m with
  | nil => simp [place, lookup]
  | cons e m ih =>
    obtain ⟨i, b⟩ := e
    unfold place
    split
    · simp [lookup]
    · split
      · simp [lookup]
      · rename_i h1 h2
        have : ¬ i = k := fun h => h2 h.symm
        simp [lookup, this, ih]

theorem lookup_insert_ne {α : Type} (m : SMap α) (k k' : Nat) (a : α) (h : k' ≠ k) :
    lookup (place m k a) k' = lookup m k' := by
  induction m with
  | nil => simp [place, lookup, h.symm]
  | cons e m ih =>
    obtain ⟨i, b⟩ := e
    unfold place
    split
    · simp [lookup, h.symm]
    · split
      · rename_i h1 h2
        subst h2
        simp [lookup, h.symm]
      · simp [lookup, ih]

theorem lookup_erase_ne {α : Type} (m : SMap α) (k k' : Nat) (h : k' ≠ k) : lookup (erase m k) k' = lookup m k' := by
  induction m with
  | nil => rfl
  | cons e m ih =>
    obtain ⟨i, b⟩ := e
    unfold erase
    split
    · rename_i h1
      subst h1
      simp [lookup, h.symm]
    · simp [lookup, ih]

theorem lookup_put_ne {α : Type} [DecidableEq α] (m : SMap α) (k k' : Nat) (a d : α) (h : k' ≠ k) :
    lookup (put m k a d) k' = lookup m k' := by
  unfold put
  split
  · exact lookup_erase_ne m k k' h
  · exact lookup_insert_ne m k k' a h

/-! The canonical form. -/

/-- Every number of a table lies above a bound. -/
theorem rising_above {α : Type} (m : SMap α) (lo : Nat) (h : rising (some lo) m = true) :
    rising none m = true ∧ ∀ e ∈ m, lo < e.1 := by
  induction m generalizing lo with
  | nil => simp [rising]
  | cons e m ih =>
    obtain ⟨i, b⟩ := e
    simp only [rising, Bool.and_eq_true, decide_eq_true_eq] at h
    refine ⟨h.2, ?_⟩
    intro e he
    rcases List.mem_cons.1 he with rfl | he
    · exact h.1
    · exact Nat.lt_trans h.1 ((ih i h.2).2 e he)

theorem rising_weaken {α : Type} (m : SMap α) (lo lo' : Nat) (hl : lo' ≤ lo) (h : rising (some lo) m = true) :
    rising (some lo') m = true := by
  cases m with
  | nil => rfl
  | cons e m =>
    simp only [rising, Bool.and_eq_true, decide_eq_true_eq] at *
    exact ⟨Nat.lt_of_le_of_lt hl h.1, h.2⟩

theorem lookup_above {α : Type} (m : SMap α) (lo k : Nat) (h : rising (some lo) m = true) (hk : k ≤ lo) : lookup m k = none := by
  induction m generalizing lo with
  | nil => rfl
  | cons e m ih =>
    obtain ⟨i, b⟩ := e
    simp only [rising, Bool.and_eq_true, decide_eq_true_eq] at h
    have : ¬ i = k := by omega
    simp only [lookup, this, if_false]
    exact ih i h.2 (by omega)

theorem rising_insert_bound {α : Type} (m : SMap α) (lo k : Nat) (a : α) (h : rising (some lo) m = true) (hk : lo < k) :
    rising (some lo) (place m k a) = true := by
  induction m generalizing lo with
  | nil => simp [place, rising, hk]
  | cons e m ih =>
    obtain ⟨i, b⟩ := e
    simp only [rising, Bool.and_eq_true, decide_eq_true_eq] at h
    unfold place
    split
    · simp [rising, *]
    · split
      · rename_i h1 h2
        subst h2
        simp [rising, *]
      · simp only [rising, Bool.and_eq_true, decide_eq_true_eq]
        exact ⟨h.1, ih i h.2 (by omega)⟩

theorem rising_insert {α : Type} (m : SMap α) (k : Nat) (a : α) (h : rising none m = true) :
    rising none (place m k a) = true := by
  cases m with
  | nil => rfl
  | cons e m =>
    obtain ⟨i, b⟩ := e
    simp only [rising] at h
    unfold place
    split
    · simp [rising, *]
    · split
      · rename_i h1 h2
        subst h2
        simpa [rising] using h
      · simp only [rising]
        exact rising_insert_bound m i k a h (by omega)

theorem rising_erase_bound {α : Type} (m : SMap α) (lo k : Nat) (h : rising (some lo) m = true) :
    rising (some lo) (erase m k) = true := by
  induction m generalizing lo with
  | nil => rfl
  | cons e m ih =>
    obtain ⟨i, b⟩ := e
    simp only [rising, Bool.and_eq_true, decide_eq_true_eq] at h
    unfold erase
    split
    · exact rising_weaken m i lo (by omega) h.2
    · simp only [rising, Bool.and_eq_true, decide_eq_true_eq]
      exact ⟨h.1, ih i h.2⟩

theorem rising_erase {α : Type} (m : SMap α) (k : Nat) (h : rising none m = true) : rising none (erase m k) = true := by
  cases m with
  | nil => rfl
  | cons e m =>
    obtain ⟨i, b⟩ := e
    simp only [rising] at h
    unfold erase
    split
    · exact (rising_above m i h).1
    · exact rising_erase_bound m i k h

theorem rising_put {α : Type} [DecidableEq α] (m : SMap α) (k : Nat) (a d : α) (h : rising none m = true) :
    rising none (put m k a d) = true := by
  unfold put
  split
  · exact rising_erase m k h
  · exact rising_insert m k a h

theorem lookup_erase_same {α : Type} (m : SMap α) (k : Nat) (h : rising none m = true) : lookup (erase m k) k = none := by
  induction m with
  | nil => rfl
  | cons e m ih =>
    obtain ⟨i, b⟩ := e
    simp only [rising] at h
    unfold erase
    split
    · rename_i h1
      exact lookup_above m i k h (by omega)
    · rename_i h1
      simp only [lookup, h1, if_false]
      exact ih (rising_above m i h).1

/-- Reading a table where it was written. -/
theorem lookup_put_same {α : Type} [DecidableEq α] (m : SMap α) (k : Nat) (a d : α) (h : rising none m = true) :
    (lookup (put m k a d) k).getD d = a := by
  unfold put
  split
  · rename_i h1
    simp [lookup_erase_same m k h, h1]
  · simp

/-! Byte stores. -/

theorem mem_insert {α : Type} (m : SMap α) (k : Nat) (a : α) (e : Nat × α) (h : e ∈ place m k a) : e = (k, a) ∨ e ∈ m := by
  induction m with
  | nil => simpa [place] using h
  | cons x m ih =>
    obtain ⟨i, b⟩ := x
    unfold place at h
    split at h
    · simpa using h
    · split at h
      · rcases List.mem_cons.1 h with h | h
        · exact .inl h
        · exact .inr (List.mem_cons_of_mem _ h)
      · rcases List.mem_cons.1 h with h | h
        · exact .inr (h ▸ List.mem_cons_self)
        · rcases ih h with h | h
          · exact .inl h
          · exact .inr (List.mem_cons_of_mem _ h)

theorem mem_erase {α : Type} (m : SMap α) (k : Nat) (e : Nat × α) (h : e ∈ erase m k) : e ∈ m := by
  induction m with
  | nil => simp [erase] at h
  | cons x m ih =>
    obtain ⟨i, b⟩ := x
    unfold erase at h
    split at h
    · exact List.mem_cons_of_mem _ h
    · rcases List.mem_cons.1 h with h | h
      · exact h ▸ List.mem_cons_self
      · exact List.mem_cons_of_mem _ (ih h)

theorem wf_iff (m : List Host.Cell) : Memory.wf m = true ↔ rising none m = true ∧ ∀ e ∈ m, e.2 ≠ 0 := by
  simp [Memory.wf]

/-- Writing one byte keeps the canonical form. -/
theorem wf_put (m : List Host.Cell) (a : Nat) (b : Byte) (h : Memory.wf m = true) : Memory.wf (put m a b 0) = true := by
  rw [wf_iff] at *
  refine ⟨rising_put m a b 0 h.1, ?_⟩
  intro e he
  unfold put at he
  split at he
  · exact h.2 e (mem_erase m a e he)
  · rename_i hb
    rcases mem_insert m a b e he with rfl | he
    · exact hb
    · exact h.2 e he

/-- Writing bytes keeps the canonical form. -/
theorem wf_memPut (m : List Host.Cell) (a : Nat) (bs : List Byte) (h : Memory.wf m = true) : Memory.wf (memPut m a bs) = true := by
  induction bs generalizing m a with
  | nil => exact h
  | cons b bs ih => exact ih _ _ (wf_put m a b h)

theorem rising_filter_bound {α : Type} (m : SMap α) (lo : Nat) (p : Nat × α → Bool) (h : rising (some lo) m = true) :
    rising (some lo) (m.filter p) = true := by
  induction m generalizing lo with
  | nil => rfl
  | cons e m ih =>
    obtain ⟨i, b⟩ := e
    simp only [rising, Bool.and_eq_true, decide_eq_true_eq] at h
    rw [List.filter_cons]
    split
    · simp only [rising, Bool.and_eq_true, decide_eq_true_eq]
      exact ⟨h.1, ih i h.2⟩
    · exact ih lo (rising_weaken m i lo (by omega) h.2)

/-- Removing bytes keeps the canonical form. -/
theorem wf_filter (m : List Host.Cell) (p : Host.Cell → Bool) (h : Memory.wf m = true) : Memory.wf (m.filter p) = true := by
  rw [wf_iff] at *
  refine ⟨?_, fun e he => h.2 e ((List.mem_filter.1 he).1)⟩
  cases m with
  | nil => rfl
  | cons e m =>
    obtain ⟨i, b⟩ := e
    rw [List.filter_cons]
    have h1 : rising (some i) m = true := h.1
    split
    · exact rising_filter_bound m i p h1
    · exact (rising_above _ i (rising_filter_bound m i p h1)).1

theorem wf_foldl_put {β : Type} (l : List β) (f : β → Nat) (g : β → Byte) (m : List Host.Cell) (h : Memory.wf m = true) :
    Memory.wf (l.foldl (fun m e => put m (f e) (g e) 0) m) = true := by
  induction l generalizing m with
  | nil => exact h
  | cons x l ih => exact ih _ (wf_put m _ _ h)

theorem wf_putBytes (m : List Host.Cell) (a : Nat) (bs : List Byte) (h : Memory.wf m = true) : Memory.wf (putBytes m a bs) = true :=
  wf_foldl_put _ _ _ m h

theorem wf_cutBytes (m : List Host.Cell) (a n : Nat) (h : Memory.wf m = true) : Memory.wf (cutBytes m a n) = true := wf_filter m _ h

theorem wf_memWrite (s : State) (a : Nat) (bs : List Byte) (h : Memory.wf s.mem = true) : Memory.wf (s.memWrite a bs).mem = true :=
  wf_memPut s.mem a bs h

theorem wf_memClear (s : State) (a n : Nat) (h : Memory.wf s.mem = true) : Memory.wf (s.memClear a n).mem = true :=
  wf_filter s.mem _ h

theorem wf_memMove (src dst n : Nat) (s : State) (h : Memory.wf s.mem = true) : Memory.wf (memMove src dst n s).mem = true :=
  wf_foldl_put _ _ _ _ (wf_filter s.mem _ h)

theorem wf_flashWrite (a : Nat) (bs : List Byte) (s : State) (h : Memory.wf s.flash = true) :
    Memory.wf (flashWrite a bs s).flash = true :=
  wf_putBytes _ a bs (wf_cutBytes s.flash a bs.length h)

/-- A byte read where one was written. -/
theorem memByte_put_same (m : List Host.Cell) (a : Nat) (b : Byte) (h : Memory.wf m = true) : memByte (put m a b 0) a = b :=
  lookup_put_same m a b 0 ((wf_iff m).1 h).1

/-- A byte read elsewhere. -/
theorem memByte_put_ne (m : List Host.Cell) (a a' : Nat) (b : Byte) (h : a' ≠ a) : memByte (put m a b 0) a' = memByte m a' := by
  simp only [memByte, lookup_put_ne m a a' b 0 h]

/-- Bytes outside those written are as before. -/
theorem memByte_memPut_ne (m : List Host.Cell) (a a' : Nat) (bs : List Byte) (h : a' < a ∨ a + bs.length ≤ a') :
    memByte (memPut m a bs) a' = memByte m a' := by
  induction bs generalizing m a with
  | nil => rfl
  | cons b bs ih =>
    simp only [List.length_cons] at h
    have h1 : a' < a + 1 ∨ a + 1 + bs.length ≤ a' := by omega
    exact (ih _ _ h1).trans (memByte_put_ne m a a' b (by omega))

/-- Bytes written are read back. -/
theorem memBytes_memPut (m : List Host.Cell) (a : Nat) (bs : List Byte) (h : Memory.wf m = true) (i : Nat) (hi : i < bs.length) :
    memByte (memPut m a bs) (a + i) = bs.getD i 0 := by
  induction bs generalizing m a i with
  | nil => simp at hi
  | cons b bs ih =>
    cases i with
    | zero =>
      have h1 : a < a + 1 ∨ a + 1 + bs.length ≤ a := by omega
      exact (memByte_memPut_ne _ (a + 1) a bs h1).trans (memByte_put_same m a b h)
    | succ i =>
      have := ih (put m a b 0) (a + 1) (wf_put m a b h) i (by simpa using hi)
      have e : a + 1 + i = a + (i + 1) := by omega
      rw [e] at this
      exact this

/-! Registers. -/

theorem regs_wf_wr (s : State) (r : Reg) (i j v : Nat) (h : Regs.wf s.regs = true) : Regs.wf (s.wr r i j v).regs = true :=
  rising_put _ _ _ _ h

/-- A register that a write does not reach. -/
theorem rd_wr_ne (s : State) (r r' : Reg) (i j i' j' v : Nat) (h : r'.addr i' j' ≠ r.addr i j) :
    (s.wr r i j v).rd r' i' j' = s.rd r' i' j' := by
  simp only [State.rd, State.wr, lookup_put_ne _ _ _ _ _ h]

/-- A register read after it was written, where its reset word fits a register. -/
theorem rd_wr_same (s : State) (r : Reg) (i j v : Nat) (h : Regs.wf s.regs = true) (hr : resetWord r i j < 2 ^ 32) :
    (s.wr r i j v).rd r i j = v % 2 ^ 32 := by
  have h1 := lookup_put_same s.regs (r.addr i j) (BitVec.ofNat 32 v) (BitVec.ofNat 32 (resetWord r i j)) h
  unfold State.rd State.wr
  cases hl : lookup (put s.regs (r.addr i j) (BitVec.ofNat 32 v) (BitVec.ofNat 32 (resetWord r i j))) (r.addr i j) with
  | none =>
    rw [hl] at h1
    have h2 := congrArg BitVec.toNat h1
    simp only [Option.getD_none, BitVec.toNat_ofNat] at h2
    simp only
    omega
  | some w =>
    rw [hl] at h1
    have h2 := congrArg BitVec.toNat h1
    simpa [hl] using h2

/-! Clusters, links, rings and jobs. -/

@[simp] theorem clu_setClu_same (s : State) (c : Nat) (k : Clu) : (s.setClu c k).clu c = k := by simp [State.clu, State.setClu]

theorem clu_setClu_ne (s : State) (c c' : Nat) (k : Clu) (h : c' ≠ c) : (s.setClu c k).clu c' = s.clu c' := by
  simp [State.clu, State.setClu, lookup_insert_ne _ _ _ _ h]

@[simp] theorem link_setLink_same (s : State) (p : Nat) (l : LinkSt) : (s.setLink p l).link p = l := by
  simp [State.link, State.setLink]

theorem link_setLink_ne (s : State) (p p' : Nat) (l : LinkSt) (h : p' ≠ p) : (s.setLink p l).link p' = s.link p' := by
  simp [State.link, State.setLink, lookup_insert_ne _ _ _ _ h]

@[simp] theorem ring_setRing_same (s : State) (r : Nat) (x : RingSt) : (s.setRing r x).ring r = x := by
  simp [State.ring, State.setRing]

theorem ring_setRing_ne (s : State) (r r' : Nat) (x : RingSt) (h : r' ≠ r) : (s.setRing r x).ring r' = s.ring r' := by
  simp [State.ring, State.setRing, lookup_insert_ne _ _ _ _ h]

@[simp] theorem job_setJob_same (s : State) (j : Nat) (x : JobSt) : (s.setJob j x).job j = x := by simp [State.job, State.setJob]

@[simp] theorem coll_setColl_same (s : State) (x : Nat) (g : Coll) : (s.setColl x g).coll x = g := by
  simp [State.coll, State.setColl]

@[simp] theorem die_setDie_same (s : State) (n : Nat) (d : DieClk) : (s.setDie n d).die n = d := by simp [State.die, State.setDie]

/-! The prompter. -/

/-- What an instruction does where its prompter is ready for its word. -/
theorem instr_ready (c : Nat) (w : Word) (used : List GReg) (run : State → State) (s : State)
    (h : readyFor s c w used = true) : instr c w used run s = run s := by
  simp only [readyFor, Bool.and_eq_true, Bool.not_eq_true'] at h
  obtain ⟨⟨⟨⟨h1, h2⟩, h3⟩, h4⟩, h5⟩ := h
  have h2' : imemWord s c (s.clu c).pc = w := by simpa using h2
  have h5' : ¬ (endsBody w = true ∧ (s.clu c).atBodyEnd = true) := by
    intro ⟨a, b⟩
    simp [a, b] at h5
  simp [instr, h1, h2', h3, h4, h5']

/-- An instruction whose word is not the one at PC does nothing. -/
theorem instr_elsewhere (c : Nat) (w : Word) (used : List GReg) (run : State → State) (s : State)
    (h : imemWord s c (s.clu c).pc ≠ w) : instr c w used run s = s := by
  simp [instr, h]

/-- An instruction of a prompter that may not run does nothing. -/
theorem instr_stopped (c : Nat) (w : Word) (used : List GReg) (run : State → State) (s : State)
    (h : canRun s c = false) : instr c w used run s = s := by
  simp [instr, h]

end Sys2Proof.Laws
end

