-- ==== Sys2Proof/Laws/Words.lean ====
section
/-! SUPPORT. The fields of encoded prompter words. -/

namespace Sys2Proof.Laws
open Sys2Proof.Machine

theorem encI_bit (op : BitVec 6) (a b : GReg) (imm : BitVec 16) (i : Nat) : (encI op a b imm).getLsbD i =
    if i < 6 then op.getLsbD i else if i < 11 then a.getLsbD (i - 6) else if i < 16 then b.getLsbD (i - 11) else imm.getLsbD (i - 16) := by
  change (imm ++ b ++ a ++ op : BitVec (16 + 5 + 5 + 6)).getLsbD i = _
  simp only [BitVec.getLsbD_append]
  have h1 : i - 6 - 5 = i - 11 := by omega
  have h2 : i - 11 - 5 = i - 16 := by omega
  rw [h1, h2]
  by_cases p : i < 6
  · simp [p]
  · by_cases q : i < 11
    · have : i - 6 < 5 := by omega
      simp [p, q, this]
    · have : ¬ i - 6 < 5 := by omega
      by_cases r : i < 16
      · have : i - 11 < 5 := by omega
        simp [*]
      · have : ¬ i - 11 < 5 := by omega
        simp [*]

theorem encR_bit (op : BitVec 6) (a b c : GReg) (fn : BitVec 11) (i : Nat) : (encR op a b c fn).getLsbD i =
    if i < 6 then op.getLsbD i else if i < 11 then a.getLsbD (i - 6) else if i < 16 then b.getLsbD (i - 11)
    else if i < 21 then c.getLsbD (i - 16) else fn.getLsbD (i - 21) := by
  change (fn ++ c ++ b ++ a ++ op : BitVec (11 + 5 + 5 + 5 + 6)).getLsbD i = _
  simp only [BitVec.getLsbD_append, show i - 6 - 5 = i - 11 by omega, show i - 11 - 5 = i - 16 by omega, show i - 16 - 5 = i - 21 by omega,
    show (i - 6 < 5) = (i < 11) by simp; omega, show (i - 11 < 5) = (i < 16) by simp; omega, show (i - 16 < 5) = (i < 21) by simp; omega]
  repeat' split
  all_goals first | rfl | omega

theorem encL_bit (op : BitVec 6) (n : Bool) (mid : BitVec 9) (last : BitVec 16) (i : Nat) : (encL op n mid last).getLsbD i =
    if i < 6 then op.getLsbD i else if i < 7 then n else if i < 16 then mid.getLsbD (i - 7) else last.getLsbD (i - 16) := by
  change (last ++ mid ++ BitVec.ofBool n ++ op : BitVec (16 + 9 + 1 + 6)).getLsbD i = _
  simp only [BitVec.getLsbD_append, BitVec.getLsbD_ofBool, show i - 6 - 1 = i - 7 by omega, show i - 7 - 9 = i - 16 by omega,
    show (i - 6 < 1) = (i < 7) by simp; omega, show (i - 7 < 9) = (i < 16) by simp; omega]
  by_cases p : i < 6
  · simp [p]
  · by_cases q : i < 7
    · have : i - 6 = 0 := by omega
      simp [p, q, this]
    · simp [p, q]

theorem encF_bit (op : BitVec 6) (x : FlagForm) (i : Nat) : (encF op x).getLsbD i =
    if i < 6 then op.getLsbD i else if i < 11 then x.rd.getLsbD (i - 6) else if i < 16 then x.ra.getLsbD (i - 11)
    else if i < 21 then x.rt.getLsbD (i - 16) else if i < 22 then x.r else if i < 23 then x.c else if i < 24 then false
    else x.f8.getLsbD (i - 24) := by
  change (x.f8 ++ (0#1) ++ BitVec.ofBool x.c ++ BitVec.ofBool x.r ++ x.rt ++ x.ra ++ x.rd ++ op : BitVec (8 + 1 + 1 + 1 + 5 + 5 + 5 + 6)).getLsbD i = _
  simp only [BitVec.getLsbD_append, BitVec.getLsbD_ofBool, show i - 6 - 5 = i - 11 by omega, show i - 11 - 5 = i - 16 by omega, show i - 16 - 5 = i - 21 by omega,
    show i - 21 - 1 = i - 22 by omega, show i - 22 - 1 = i - 23 by omega, show i - 23 - 1 = i - 24 by omega,
    show (i - 6 < 5) = (i < 11) by simp; omega, show (i - 11 < 5) = (i < 16) by simp; omega, show (i - 16 < 5) = (i < 21) by simp; omega,
    show (i - 21 < 1) = (i < 22) by simp; omega, show (i - 22 < 1) = (i < 23) by simp; omega, show (i - 23 < 1) = (i < 24) by simp; omega]
  repeat' split
  all_goals first | rfl | omega | skip
  all_goals simp
  all_goals omega

@[simp] theorem wOp_encI (op : BitVec 6) (a b : GReg) (imm : BitVec 16) : wOp (encI op a b imm) = op := by
  apply BitVec.eq_of_getLsbD_eq; intro i hi
  simp only [wOp, BitVec.getLsbD_extractLsb', encI_bit]
  repeat' split
  all_goals first | omega | simp_all
  all_goals first | omega | (congr 1; omega)

@[simp] theorem wA_encI (op : BitVec 6) (a b : GReg) (imm : BitVec 16) : wA (encI op a b imm) = a := by
  apply BitVec.eq_of_getLsbD_eq; intro i hi
  simp only [wA, BitVec.getLsbD_extractLsb', encI_bit]
  repeat' split
  all_goals first | omega | simp_all
  all_goals first | omega | (congr 1; omega)

@[simp] theorem wB_encI (op : BitVec 6) (a b : GReg) (imm : BitVec 16) : wB (encI op a b imm) = b := by
  apply BitVec.eq_of_getLsbD_eq; intro i hi
  simp only [wB, BitVec.getLsbD_extractLsb', encI_bit]
  repeat' split
  all_goals first | omega | simp_all
  all_goals first | omega | (congr 1; omega)

@[simp] theorem wImm_encI (op : BitVec 6) (a b : GReg) (imm : BitVec 16) : wImm (encI op a b imm) = imm := by
  apply BitVec.eq_of_getLsbD_eq; intro i hi
  simp only [wImm, BitVec.getLsbD_extractLsb', encI_bit]
  repeat' split
  all_goals first | omega | simp_all
  all_goals first | omega | (congr 1; omega)

@[simp] theorem wOp_encR (op : BitVec 6) (a b c : GReg) (fn : BitVec 11) : wOp (encR op a b c fn) = op := by
  apply BitVec.eq_of_getLsbD_eq; intro i hi
  simp only [wOp, BitVec.getLsbD_extractLsb', encR_bit]
  repeat' split
  all_goals first | omega | simp_all
  all_goals first | omega | (congr 1; omega)

@[simp] theorem wA_encR (op : BitVec 6) (a b c : GReg) (fn : BitVec 11) : wA (encR op a b c fn) = a := by
  apply BitVec.eq_of_getLsbD_eq; intro i hi
  simp only [wA, BitVec.getLsbD_extractLsb', encR_bit]
  repeat' split
  all_goals first | omega | simp_all
  all_goals first | omega | (congr 1; omega)

@[simp] theorem wB_encR (op : BitVec 6) (a b c : GReg) (fn : BitVec 11) : wB (encR op a b c fn) = b := by
  apply BitVec.eq_of_getLsbD_eq; intro i hi
  simp only [wB, BitVec.getLsbD_extractLsb', encR_bit]
  repeat' split
  all_goals first | omega | simp_all
  all_goals first | omega | (congr 1; omega)

@[simp] theorem wC_encR (op : BitVec 6) (a b c : GReg) (fn : BitVec 11) : wC (encR op a b c fn) = c := by
  apply BitVec.eq_of_getLsbD_eq; intro i hi
  simp only [wC, BitVec.getLsbD_extractLsb', encR_bit]
  repeat' split
  all_goals first | omega | simp_all
  all_goals first | omega | (congr 1; omega)

@[simp] theorem wFn_encR (op : BitVec 6) (a b c : GReg) (fn : BitVec 11) : wFn (encR op a b c fn) = fn := by
  apply BitVec.eq_of_getLsbD_eq; intro i hi
  simp only [wFn, BitVec.getLsbD_extractLsb', encR_bit]
  repeat' split
  all_goals first | omega | simp_all
  all_goals first | omega | (congr 1; omega)

@[simp] theorem wOp_encL (op : BitVec 6) (n : Bool) (mid : BitVec 9) (last : BitVec 16) : wOp (encL op n mid last) = op := by
  apply BitVec.eq_of_getLsbD_eq; intro i hi
  simp only [wOp, BitVec.getLsbD_extractLsb', encL_bit]
  repeat' split
  all_goals first | omega | simp_all
  all_goals first | omega | (congr 1; omega)

@[simp] theorem wMid_encL (op : BitVec 6) (n : Bool) (mid : BitVec 9) (last : BitVec 16) : wMid (encL op n mid last) = mid := by
  apply BitVec.eq_of_getLsbD_eq; intro i hi
  simp only [wMid, BitVec.getLsbD_extractLsb', encL_bit]
  repeat' split
  all_goals first | omega | simp_all
  all_goals first | omega | (congr 1; omega)

@[simp] theorem wImm_encL (op : BitVec 6) (n : Bool) (mid : BitVec 9) (last : BitVec 16) : wImm (encL op n mid last) = last := by
  apply BitVec.eq_of_getLsbD_eq; intro i hi
  simp only [wImm, BitVec.getLsbD_extractLsb', encL_bit]
  repeat' split
  all_goals first | omega | simp_all
  all_goals first | omega | (congr 1; omega)

@[simp] theorem wOp_encF (op : BitVec 6) (x : FlagForm) : wOp (encF op x) = op := by
  apply BitVec.eq_of_getLsbD_eq; intro i hi
  simp only [wOp, BitVec.getLsbD_extractLsb', encF_bit]
  repeat' split
  all_goals first | omega | simp_all
  all_goals first | omega | (congr 1; omega)

@[simp] theorem wA_encF (op : BitVec 6) (x : FlagForm) : wA (encF op x) = x.rd := by
  apply BitVec.eq_of_getLsbD_eq; intro i hi
  simp only [wA, BitVec.getLsbD_extractLsb', encF_bit]
  repeat' split
  all_goals first | omega | simp_all
  all_goals first | omega | (congr 1; omega)

@[simp] theorem wB_encF (op : BitVec 6) (x : FlagForm) : wB (encF op x) = x.ra := by
  apply BitVec.eq_of_getLsbD_eq; intro i hi
  simp only [wB, BitVec.getLsbD_extractLsb', encF_bit]
  repeat' split
  all_goals first | omega | simp_all
  all_goals first | omega | (congr 1; omega)

@[simp] theorem wC_encF (op : BitVec 6) (x : FlagForm) : wC (encF op x) = x.rt := by
  apply BitVec.eq_of_getLsbD_eq; intro i hi
  simp only [wC, BitVec.getLsbD_extractLsb', encF_bit]
  repeat' split
  all_goals first | omega | simp_all
  all_goals first | omega | (congr 1; omega)

@[simp] theorem wLoop_encL (op : BitVec 6) (n : Bool) (mid : BitVec 9) (last : BitVec 16) : wLoop (encL op n mid last) = n := by
  simp only [wLoop, encL_bit]; rfl

@[simp] theorem wForm_encF (op : BitVec 6) (x : FlagForm) : wForm (encF op x) = x := by
  have h : (encF op x).extractLsb' 24 8 = x.f8 := by
    apply BitVec.eq_of_getLsbD_eq; intro i hi
    simp only [BitVec.getLsbD_extractLsb', encF_bit]
    repeat' split
    all_goals first | omega | simp_all
  simp only [wForm, encF_bit, h, wA_encF, wB_encF, wC_encF]; rfl

@[simp] theorem encF_bit23 (op : BitVec 6) (x : FlagForm) : (encF op x)[23] = false := by
  rw [← BitVec.getLsbD_eq_getElem, encF_bit]; rfl

end Sys2Proof.Laws
end

