-- ==== Sys2Proof/Certificates/Slice0/Obligations.lean ====
section
/-! DEFINITION. The statements for the provers. A statement about several commands names them; helper definitions stand before the
first statement that uses them. -/

open Sys2Proof Sys2Proof.Machine Sys2Proof.Laws

/-! The queue, completion and reset. -/

/-- A step runs the command at the front of the queue on the state with the queue's rest. -/
def Obligations.StepRunsFrontCommand : Prop :=
  ∀ (i : Instr) (rest : List Instr) (s : State), s.pending = i :: rest → step s = exec i { s with pending := rest }

/-- Every command completes in every state: no command of the table stops the block. -/
def Obligations.EveryCommandCompletes : Prop := ∀ (i : Instr) (s : State), ∃ t, exec i s = .next t

/-- Right after reset the stores are canonical, no command waits, fabric time is 0, no register differs from its reset value, no
memory byte is held, and the PCIe endpoint is in reset. -/
def Obligations.ResetState : Prop :=
  State.reset.wf = true ∧ State.reset.pending = [] ∧ State.reset.fabTime = 0 ∧ State.reset.regs = [] ∧ State.reset.mem = [] ∧
    State.reset.hif.inReset = true ∧ State.reset.hif.linkUp = false ∧
    (∀ (r : Reg) (i j : Nat), State.reset.rd r i j = resetWord r i j) ∧ (∀ a : Nat, memByte State.reset.mem a = 0)

/-! Stores. -/

/-- Device memory: a write keeps the canonical form, is read back, and leaves every other byte as it was; clearing a range makes it
read zero and leaves every other byte. -/
def memoryStore : Prop :=
  ∀ (s : State) (a : Nat) (bs : List Byte), Memory.wf s.mem = true →
    Memory.wf (s.memWrite a bs).mem = true ∧
    (∀ i, i < bs.length → memByte (s.memWrite a bs).mem (a + i) = bs.getD i 0) ∧
    memSame s (s.memWrite a bs) [(a, bs.length)] ∧
    (∀ n, Memory.wf (s.memClear a n).mem = true ∧ memSame s (s.memClear a n) [(a, n)] ∧
      ∀ b, a ≤ b → b < a + n → memByte (s.memClear a n).mem b = 0)

/-- The register store: a word written is read back, every register at another offset is as it was, a field written is read back
modulo its width, and a field of the same register that does not overlap it is as it was. -/
def registerStore : Prop :=
  ∀ (s : State), Regs.wf s.regs = true →
    (∀ (r : Reg) (i j v : Nat), Regs.wf (s.wr r i j v).regs = true ∧
      (resetWord r i j < 2 ^ 32 → (s.wr r i j v).rd r i j = v % 2 ^ 32) ∧
      (∀ (r' : Reg) (i' j' : Nat), r'.addr i' j' ≠ r.addr i j → (s.wr r i j v).rd r' i' j' = s.rd r' i' j')) ∧
    (∀ (f : Fld) (v i j : Nat), f.lo + f.width ≤ 32 → resetWord f.reg i j < 2 ^ 32 →
      (s.set f v i j).get f i j = v % 2 ^ f.width ∧
      ∀ (g : Fld), g.reg = f.reg → g.lo + g.width ≤ 32 → g.lo + g.width ≤ f.lo ∨ f.lo + f.width ≤ g.lo →
        (s.set f v i j).get g i j = s.get g i j)

/-- Memory and register stores: read after write, frame, canonical form: `memoryStore`, `registerStore`. -/
def Obligations.Stores : Prop := memoryStore ∧ registerStore

/-! Prompter words. -/

/-- The decoder of prompter words gives every prompter command back from its own legal word, with every operand at every value that
the encoding admits. -/
def Obligations.PromptDecodesEncoded : Prop :=
  ∀ (i : Instr) (c : ClusterId) (w : Word), promptWord i = some (c, w) → legalWord w = true → decodePrompt c w = some i

/-- A word decodes exactly if it is legal, and what it decodes to is spelled by that word: no bit of a legal word is dropped. -/
def Obligations.PromptEncodesDecoded : Prop :=
  ∀ (c : ClusterId) (w : Word), ((decodePrompt c w).isSome = legalWord w) ∧
    ∀ i : Instr, decodePrompt c w = some i → promptWord i = some (c, w)

/-- A prompter command changes nothing where the word at PC of its cluster is another one, and nothing where that prompter may not
run: the model's form of the rows, which stand for the execution of fetched words (log entry 9). -/
def Obligations.PromptCommandsNeedTheirWord : Prop :=
  ∀ (i : Instr) (c : ClusterId) (w : Word) (s : State), promptWord i = some (c, w) →
    imemWord s c (s.clu c).pc ≠ w ∨ canRun s c = false → exec i s = .next s

/-! The prompter. -/

/-- What a register instruction does, where its prompter is ready for it: the result goes to the destination (g0 discards it), PC
and the hardware loops advance, and nothing else changes. -/
def regResult (s : State) (c : ClusterId) (rd : GReg) (v : Word) : State := s.setClu c ((s.clu c).setReg rd v).advance

/-- The ALU functions of R295: each of the twenty writes its function of ra and rb to rd. -/
def aluResults : Prop :=
  ∀ (s : State) (c : ClusterId) (rd ra rb : GReg),
    let a := (s.clu c).reg ra
    let b := (s.clu c).reg rb
    let rdy := fun (fn : BitVec 11) => readyFor s c (encR 0x01 rd ra rb fn) [rd, ra, rb] = true
    (rdy 0 → exec (.aluAdd c rd ra rb) s = .next (regResult s c rd (a + b))) ∧
    (rdy 1 → exec (.aluSub c rd ra rb) s = .next (regResult s c rd (a - b))) ∧
    (rdy 2 → exec (.aluAnd c rd ra rb) s = .next (regResult s c rd (a &&& b))) ∧
    (rdy 3 → exec (.aluOr c rd ra rb) s = .next (regResult s c rd (a ||| b))) ∧
    (rdy 4 → exec (.aluXor c rd ra rb) s = .next (regResult s c rd (a ^^^ b))) ∧
    (rdy 5 → exec (.aluSll c rd ra rb) s = .next (regResult s c rd (a <<< (b.toNat % 32)))) ∧
    (rdy 6 → exec (.aluSrl c rd ra rb) s = .next (regResult s c rd (a >>> (b.toNat % 32)))) ∧
    (rdy 7 → exec (.aluSra c rd ra rb) s = .next (regResult s c rd (a.sshiftRight (b.toNat % 32)))) ∧
    (rdy 8 → exec (.aluSlt c rd ra rb) s = .next (regResult s c rd (if a.toInt < b.toInt then 1 else 0))) ∧
    (rdy 9 → exec (.aluSltu c rd ra rb) s = .next (regResult s c rd (if a.toNat < b.toNat then 1 else 0))) ∧
    (rdy 10 → exec (.aluMul c rd ra rb) s = .next (regResult s c rd (BitVec.ofNat 32 (a.toNat * b.toNat)))) ∧
    (rdy 11 → exec (.aluMulh c rd ra rb) s = .next (regResult s c rd (BitVec.ofInt 32 (a.toInt * b.toInt / 2 ^ 32)))) ∧
    (rdy 12 → exec (.aluMulhu c rd ra rb) s = .next (regResult s c rd (BitVec.ofNat 32 (a.toNat * b.toNat / 2 ^ 32)))) ∧
    (rdy 13 → exec (.aluMin c rd ra rb) s = .next (regResult s c rd (if a.toInt < b.toInt then a else b))) ∧
    (rdy 14 → exec (.aluMax c rd ra rb) s = .next (regResult s c rd (if a.toInt < b.toInt then b else a))) ∧
    (rdy 15 → exec (.aluMinu c rd ra rb) s = .next (regResult s c rd (if a.toNat < b.toNat then a else b))) ∧
    (rdy 16 → exec (.aluMaxu c rd ra rb) s = .next (regResult s c rd (if a.toNat < b.toNat then b else a))) ∧
    (rdy 17 → exec (.aluRotl c rd ra rb) s = .next (regResult s c rd (a.rotateLeft (b.toNat % 32)))) ∧
    (readyFor s c (encR 0x01 rd ra 0 18) [rd, ra, 0] = true → ∃ n, n ≤ 32 ∧
      (∀ k, k < n → a.getLsbD (31 - k) = false) ∧ (n < 32 → a.getLsbD (31 - n) = true) ∧
      exec (.aluClz c rd ra) s = .next (regResult s c rd (BitVec.ofNat 32 n))) ∧
    (readyFor s c (encR 0x01 rd ra 0 19) [rd, ra, 0] = true →
      exec (.aluPopc c rd ra) s =
        .next (regResult s c rd (BitVec.ofNat 32 ((List.range 32).countP fun k => a.getLsbD k))))

/-- The immediate instructions of R295. -/
def immediateResults : Prop :=
  ∀ (s : State) (c : ClusterId) (rd ra : GReg) (imm : BitVec 16) (kind : BitVec 2) (amt : BitVec 5),
    let a := (s.clu c).reg ra
    let rdy := fun (op : BitVec 6) => readyFor s c (encI op rd ra imm) [rd, ra] = true
    (rdy 0x02 → exec (.addi c rd ra imm) s = .next (regResult s c rd (a + imm.signExtend 32))) ∧
    (rdy 0x03 → exec (.andi c rd ra imm) s = .next (regResult s c rd (a &&& imm.zeroExtend 32))) ∧
    (rdy 0x04 → exec (.ori c rd ra imm) s = .next (regResult s c rd (a ||| imm.zeroExtend 32))) ∧
    (rdy 0x05 → exec (.xori c rd ra imm) s = .next (regResult s c rd (a ^^^ imm.zeroExtend 32))) ∧
    (rdy 0x06 → exec (.slti c rd ra imm) s = .next (regResult s c rd (if a.toInt < (imm.signExtend 32).toInt then 1 else 0))) ∧
    (rdy 0x07 → exec (.sltiu c rd ra imm) s = .next (regResult s c rd (if a.toNat < (imm.signExtend 32).toNat then 1 else 0))) ∧
    (readyFor s c (encI 0x08 rd ra ((0#9) ++ kind ++ amt)) [rd, ra] = true →
      exec (.shi c rd ra kind amt) s = .next (regResult s c rd
        (if kind = 0 then a <<< amt.toNat else if kind = 1 then a >>> amt.toNat
          else if kind = 2 then a.sshiftRight amt.toNat else a.rotateLeft amt.toNat))) ∧
    (readyFor s c (encI 0x09 rd 0 imm) [rd, 0] = true →
      exec (.lui c rd imm) s = .next (regResult s c rd (BitVec.ofNat 32 (imm.toNat * 65536))))

/-- Offset L of a local access in the private memories (R296). -/
def localOff (s : State) (c : ClusterId) (ra : GReg) (imm : BitVec 16) : Nat :=
  ((s.clu c).reg ra + imm.signExtend 32).toNat % 2 ^ 20

/-- A local access of `n` bytes falls into the cluster's own data memory, aligned (R39, R49, R296). -/
abbrev inDataMemory (off n : Nat) : Prop := 0x40000 ≤ off ∧ off + n ≤ 0x80000 ∧ off % n = 0

/-- Local loads from the cluster's own data memory, which the fixed grant of R49 covers, read the bytes there, extended as R295
says, where no far store to them and no far load from their place is outstanding (R299) and no word of the memory has been upset
(R489). -/
def localLoads : Prop :=
  ∀ (s : State) (c : ClusterId) (rd ra : GReg) (imm : BitVec 16),
    let l := localOff s c ra imm
    let v := fun (n : Nat) => ofBytes (privRead s c l n)
    let rdy := fun (op : BitVec 6) (n : Nat) => readyFor s c (encI op rd ra imm) [rd, ra] = true ∧ inDataMemory l n ∧
      storeOverlaps s c (0x050010000000 + l) n = false ∧
      loadPending s c (0x050010000000 + l) (s.clu c).loads = false ∧ s.upsets = []
    (rdy 0x10 1 → exec (.lb c rd ra imm) s = .next (regResult s c rd (BitVec.ofInt 32 (signed 8 (v 1))))) ∧
    (rdy 0x11 1 → exec (.lbu c rd ra imm) s = .next (regResult s c rd (BitVec.ofNat 32 (v 1)))) ∧
    (rdy 0x12 2 → exec (.lh c rd ra imm) s = .next (regResult s c rd (BitVec.ofInt 32 (signed 16 (v 2))))) ∧
    (rdy 0x13 2 → exec (.lhu c rd ra imm) s = .next (regResult s c rd (BitVec.ofNat 32 (v 2)))) ∧
    (rdy 0x14 4 → exec (.lw c rd ra imm) s = .next (regResult s c rd (BitVec.ofNat 32 (v 4))))

/-- Local stores to the cluster's own data memory write the low bytes of the register there and advance; every other byte of memory
is as it was, and so is every register of the prompter. -/
def localStores : Prop :=
  ∀ (s : State) (c : ClusterId) (rs ra : GReg) (imm : BitVec 16),
    let l := localOff s c ra imm
    let bs := fun (n : Nat) => toBytes n ((s.clu c).reg rs).toNat
    let t := fun (n : Nat) => (privWrite c l (bs n) s).setClu c (s.clu c).advance
    let rdy := fun (op : BitVec 6) (n : Nat) => readyFor s c (encI op rs ra imm) [rs, ra] = true ∧ inDataMemory l n ∧
      loadPending s c (0x050010000000 + l) (s.clu c).loads = false
    (rdy 0x15 1 → exec (.sb c rs ra imm) s = .next (t 1)) ∧
    (rdy 0x16 2 → exec (.sh c rs ra imm) s = .next (t 2)) ∧
    (rdy 0x17 4 → exec (.sw c rs ra imm) s = .next (t 4)) ∧
    (∀ n, memSame s (t n) [(privateKey (slotOf s c) + l, n)] ∧ (t n).regs = s.regs ∧ ((t n).clu c).regs = (s.clu c).regs ∧
      ∀ d, d ≠ c.val → (t n).clu d = s.clu d)

/-- Local loads and stores to data memory: `localLoads`, `localStores`. -/
def Obligations.LocalAccesses : Prop := localLoads ∧ localStores

/-- Address A of a far access (R296): the low 48 bits of the pair plus the offset. -/
def farOff (s : State) (c : ClusterId) (ra : GReg) (imm : BitVec 16) : Nat :=
  unsigned 48 ((((s.clu c).reg ra).toNat + ((s.clu c).reg (ra + 1)).toNat % 65536 * 2 ^ 32 : Nat) + imm.toInt)

/-- A far address names `n` aligned bytes of the cluster's own data memory through its logical stride. -/
abbrev ownStride (c : ClusterId) (a n : Nat) : Prop :=
  0x050000040000 + c.val * 0x100000 ≤ a ∧ a + n ≤ 0x050000080000 + c.val * 0x100000 ∧ a % n = 0

/-- An aligned far load is issued and the prompter goes on (R314): the data comes with a later command, and until then the
destination is as it was. -/
def farLoadsIssue : Prop :=
  ∀ (s : State) (c : ClusterId) (rd ra : GReg) (imm : BitVec 16),
    let a := farOff s c ra imm
    let k := s.clu c
    let t := fun (op : BitVec 6) (n : Nat) (sx : Bool) =>
      s.setClu c ({ k with loads := k.loads ++ [⟨rd.toNat, n, sx, a, k.pc, (encI op rd ra imm).toNat⟩] } : Clu).advance
    let rdy := fun (op : BitVec 6) (n : Nat) => readyFor s c (encI op rd ra imm) [rd, ra, ra + 1] = true ∧ a % n = 0 ∧
      storeOverlaps s c a n = false
    (rdy 0x18 1 → exec (.lbx c rd ra imm) s = .next (t 0x18 1 true)) ∧
    (rdy 0x19 1 → exec (.lbux c rd ra imm) s = .next (t 0x19 1 false)) ∧
    (rdy 0x1A 2 → exec (.lhx c rd ra imm) s = .next (t 0x1A 2 true)) ∧
    (rdy 0x1B 2 → exec (.lhux c rd ra imm) s = .next (t 0x1B 2 false)) ∧
    (rdy 0x1C 4 → exec (.lwx c rd ra imm) s = .next (t 0x1C 4 false))

/-- The data of a far load from the cluster's own data memory goes to its destination, once the far loads before it from the same
place have returned (R299); the load is no longer outstanding. -/
def farLoadReturns : Prop :=
  ∀ (s : State) (c : ClusterId) (i : BitVec 8) (l : FarLoad),
    (s.clu c).loads[i.toNat]? = some l → cluState s c = 5 → ownStride c l.addr l.size → l.rd < 32 →
    l.size = 1 ∨ l.size = 2 ∨ l.size = 4 →
    loadPending s c l.addr ((s.clu c).loads.take i.toNat) = false → failing s c = false → s.upsets = [] →
    let v := ofBytes (privRead s c (l.addr - (0x050000000000 + c.val * 0x100000)) l.size)
    let w := if l.sext then BitVec.ofInt 32 (signed (8 * l.size) v) else BitVec.ofNat 32 v
    exec (.farLoadDataReturn c i) s =
      .next (s.setClu c { (s.clu c).setReg (BitVec.ofNat 5 l.rd) w with loads := (s.clu c).loads.eraseIdx i.toNat })

/-- A far store to the cluster's own data memory writes it and is outstanding until it is acknowledged; an acknowledgement takes one
store from those outstanding; every other byte is as it was. -/
def farStores : Prop :=
  ∀ (s : State) (c : ClusterId) (rs ra : GReg) (imm : BitVec 16),
    let a := farOff s c ra imm
    let k := s.clu c
    let l := a - (0x050000000000 + c.val * 0x100000)
    let t := fun (n : Nat) => (privWrite c l (toBytes n (k.reg rs).toNat) s).setClu c ({ k with stores := k.stores ++ [(a, n)] } : Clu).advance
    let rdy := fun (op : BitVec 6) (n : Nat) => readyFor s c (encI op rs ra imm) [rs, ra, ra + 1] = true ∧ ownStride c a n ∧
      k.stores.length < 8 ∧ loadPending s c a k.loads = false
    (rdy 0x1D 1 → exec (.sbx c rs ra imm) s = .next (t 1)) ∧
    (rdy 0x1E 2 → exec (.shx c rs ra imm) s = .next (t 2)) ∧
    (rdy 0x1F 4 → exec (.swx c rs ra imm) s = .next (t 4)) ∧
    (∀ n, memSame s (t n) [(privateKey (slotOf s c) + l, n)]) ∧
    (∀ i : Fin 8, exec (.farStoreAck c i) s = .next (s.setClu c { k with stores := k.stores.eraseIdx i }))

/-- Far loads and stores, their return and acknowledgement: `farLoadsIssue`, `farLoadReturns`, `farStores`. -/
def Obligations.FarAccesses : Prop := farLoadsIssue ∧ farLoadReturns ∧ farStores

/-- The conditional branches (R295): a branch taken goes to PC plus 4 times the offset and leaves a loop body that it jumps out of
(R306); one not taken advances. No register changes. -/
def branches : Prop :=
  ∀ (s : State) (c : ClusterId) (ra rb : GReg) (off : BitVec 16),
    let k := s.clu c
    let a := k.reg ra
    let b := k.reg rb
    let t := fun (taken : Bool) => s.setClu c (if taken then k.jump (unsigned 16 ((k.pc : Int) + 4 * off.toInt)) else k.advance)
    let rdy := fun (op : BitVec 6) => readyFor s c (encI op ra rb off) [ra, rb] = true
    (rdy 0x20 → exec (.beq c ra rb off) s = .next (t (a == b))) ∧
    (rdy 0x21 → exec (.bne c ra rb off) s = .next (t (a != b))) ∧
    (rdy 0x22 → exec (.blt c ra rb off) s = .next (t (decide (a.toInt < b.toInt)))) ∧
    (rdy 0x23 → exec (.bge c ra rb off) s = .next (t (decide (b.toInt ≤ a.toInt)))) ∧
    (rdy 0x24 → exec (.bltu c ra rb off) s = .next (t (decide (a.toNat < b.toNat)))) ∧
    (rdy 0x25 → exec (.bgeu c ra rb off) s = .next (t (decide (b.toNat ≤ a.toNat)))) ∧
    (∀ x : Bool, ((t x).clu c).regs = k.regs ∧ (t x).mem = s.mem ∧ (t x).regs = s.regs)

/-- Jumps and links (R295): the link is PC + 4; a register jump off a word boundary traps with MISALIGN and the address (R315). -/
def jumpsAndLinks : Prop :=
  ∀ (s : State) (c : ClusterId) (rd ra : GReg) (off : BitVec 16),
    let k := s.clu c
    let link := k.setReg rd (BitVec.ofNat 32 (k.pc + 4))
    let a := (k.reg ra + off.signExtend 32).toNat % 65536
    (readyFor s c (encI 0x26 rd 0 off) [rd] = true →
      exec (.jal c rd off) s = .next (s.setClu c (link.jump (unsigned 16 ((k.pc : Int) + 4 * off.toInt))))) ∧
    (readyFor s c (encI 0x27 rd ra off) [rd, ra] = true → a % 4 = 0 → exec (.jalr c rd ra off) s = .next (s.setClu c (link.jump a))) ∧
    (readyFor s c (encI 0x27 rd ra off) [rd, ra] = true → a % 4 ≠ 0 → exec (.jalr c rd ra off) s = .next (trap 2 a c s))

/-- Hardware loops (R304): a count of 0 skips the body; another starts the counter over the instructions that follow; a loop on an
active counter traps with LOOPNEST. -/
def hardwareLoops : Prop :=
  ∀ (s : State) (c : ClusterId) (n : Bool) (ra : GReg) (count : BitVec 9) (last : BitVec 16),
    let k := s.clu c
    let other := k.loop (!n)
    let free := (k.loop n).active = false ∧ (other.active = false ∨ 4 * last.toNat < (other.last + 65536 - k.pc) % 65536)
    let t := fun (m : Nat) =>
      if m = 0 then s.setClu c { k with pc := (k.pc + 4 * (last.toNat + 1)) % 65536 }
      else s.setClu c { k.setLoop n ⟨m, true, (k.pc + 4) % 65536, (k.pc + 4 * last.toNat) % 65536⟩ with pc := (k.pc + 4) % 65536 }
    let rdyL := readyFor s c (encL 0x28 n (ra ++ (0#4)) last) [ra] = true
    let rdyI := readyFor s c (encL 0x29 n count last) [] = true
    (rdyL → free → exec (.loop c n ra last) s = .next (t (k.reg ra).toNat)) ∧
    (rdyI → free → exec (.loopi c n count last) s = .next (t count.toNat)) ∧
    (rdyL → (k.loop n).active = true → exec (.loop c n ra last) s = .next (trap 5 0 c s)) ∧
    (rdyI → (k.loop n).active = true → exec (.loopi c n count last) s = .next (trap 5 0 c s))

/-- Branches, jumps, links and hardware loops: `branches`, `jumpsAndLinks`, `hardwareLoops`. -/
def Obligations.ControlFlow : Prop := branches ∧ jumpsAndLinks ∧ hardwareLoops

/-- What a register instruction leaves alone: memory, the register store, every other cluster, every general register but its
destination (g0 reads zero throughout), flags, macro-op queues, mailboxes and counters. -/
abbrev registerOnly (s t : State) (c : ClusterId) (rd : GReg) : Prop :=
  t.mem = s.mem ∧ t.regs = s.regs ∧ t.out = s.out ∧ t.net = s.net ∧ t.pools = s.pools ∧ t.events = s.events ∧
    (∀ d, d ≠ c.val → t.clu d = s.clu d) ∧
    (∀ r : GReg, r ≠ rd ∨ r = 0 → (t.clu c).reg r = (s.clu c).reg r) ∧
    (t.clu c).flags = (s.clu c).flags ∧ (t.clu c).queues = (s.clu c).queues ∧ (t.clu c).mail = (s.clu c).mail ∧
    (t.clu c).counters = (s.clu c).counters ∧ (t.clu c).dbg = (s.clu c).dbg

/-- The frame of the register instructions: ALU, immediate, branch and JAL instructions change one general register, PC and the
hardware loops, and nothing else (R292, R295). -/
def registerInstructionFrame : Prop :=
  ∀ (s t : State) (c : ClusterId) (rd ra rb : GReg) (imm : BitVec 16) (kind : BitVec 2) (amt : BitVec 5) (i : Instr) (w : Word),
    i ∈ [Instr.aluAdd c rd ra rb, .aluSub c rd ra rb, .aluAnd c rd ra rb, .aluOr c rd ra rb, .aluXor c rd ra rb,
      .aluSll c rd ra rb, .aluSrl c rd ra rb, .aluSra c rd ra rb, .aluSlt c rd ra rb, .aluSltu c rd ra rb, .aluMul c rd ra rb,
      .aluMulh c rd ra rb, .aluMulhu c rd ra rb, .aluMin c rd ra rb, .aluMax c rd ra rb, .aluMinu c rd ra rb,
      .aluMaxu c rd ra rb, .aluRotl c rd ra rb, .aluClz c rd ra, .aluPopc c rd ra, .addi c rd ra imm, .andi c rd ra imm,
      .ori c rd ra imm, .xori c rd ra imm, .slti c rd ra imm, .sltiu c rd ra imm, .shi c rd ra kind amt, .lui c rd imm,
      .beq c rd ra imm, .bne c rd ra imm, .blt c rd ra imm, .bge c rd ra imm, .bltu c rd ra imm, .bgeu c rd ra imm,
      .jal c rd imm] →
    promptWord i = some (c, w) → (s.clu c).loads = [] → readyFor s c w [] = true → exec i s = .next t → registerOnly s t c rd

/-- Results and frame of the ALU, immediate and register instructions: `aluResults`, `immediateResults`, `registerInstructionFrame`. -/
def Obligations.AluAndImmediates : Prop := aluResults ∧ immediateResults ∧ registerInstructionFrame

/-- An instruction that names a register whose far load has not returned waits: nothing changes until it has (R314). -/
def pendingLoadStalls : Prop :=
  ∀ (s : State) (c : ClusterId) (rd ra rb : GReg),
    readyFor s c (encR 0x01 rd ra rb 0) [] = true → ((s.clu c).pendingReg rd || (s.clu c).pendingReg ra || (s.clu c).pendingReg rb) = true →
      exec (.aluAdd c rd ra rb) s = .next s

/-- The value of CSR `n` of a cluster (R307, R313): cluster number, job, status, loop counters, macro-ops issued, and the upper
half of the cycle count that the last read of the lower half latched. -/
def csrValue (s : State) (c : ClusterId) (n : BitVec 12) : Nat :=
  let k := s.clu c
  if n = 0x000 then c.val else if n = 0x001 then s.get F.CLU_STATUS_JOB c
  else if n = 0x002 then
    (if k.lcwarn then 1 else 0) + 2 * (if k.loop0.active then 1 else 0) + 4 * (if k.loop1.active then 1 else 0) +
      8 * (if k.dbg = [] then 0 else 1)
  else if n = 0x010 then k.loop0.count else if n = 0x011 then k.loop1.count else if n = 0x020 then k.mopcnt else k.cycHi

/-- CSR reads and writes, and TIME. The cycle count, 0 at START, has grown by a free number of cycles since it was last read; a read of
its low half latches the upper half. A write of 1 to
`ps` clears LCWARN; a write to the counter of an active loop changes nothing and sets LCWARN; TIME writes fabric time in ns to a
register pair. -/
def Obligations.CsrAndTime : Prop :=
  ∀ (s : State) (c : ClusterId) (rd : GReg) (n : BitVec 12),
    let k := s.clu c
    let v := (k.reg rd).toNat
    let rdyR := readyFor s c (encI 0x2A rd 0 (n.zeroExtend 16)) [rd] = true
    let rdyW := readyFor s c (encI 0x2B rd 0 (n.zeroExtend 16)) [rd] = true
    let cyc := (k.cycles + (Config.prompterCycles s.freeCtr).toNat) % 2 ^ 64
    (rdyR → n ≠ 0x030 → exec (.csrr c rd n) s = .next (regResult s c rd (BitVec.ofNat 32 (csrValue s c n)))) ∧
    (rdyR → n = 0x030 → exec (.csrr c rd n) s = .next (regResult
      (({ s with freeCtr := s.freeCtr + 1 } : State).setClu c { k with cycles := cyc, cycHi := cyc / 2 ^ 32 }) c rd (BitVec.ofNat 32 (cyc % 2 ^ 32)))) ∧
    (rdyW → n = 0x002 → exec (.csrw c rd n) s = .next (s.setClu c (if v % 2 = 1 then { k with lcwarn := false } else k).advance)) ∧
    (rdyW → n = 0x010 → k.loop0.active = true → exec (.csrw c rd n) s = .next (s.setClu c ({ k with lcwarn := true } : Clu).advance)) ∧
    (rdyW → n = 0x011 → k.loop1.active = true → exec (.csrw c rd n) s = .next (s.setClu c ({ k with lcwarn := true } : Clu).advance)) ∧
    (rdyW → n = 0x010 → k.loop0.active = false →
      exec (.csrw c rd n) s = .next (s.setClu c ({ k with loop0 := { k.loop0 with count := v } } : Clu).advance)) ∧
    (rdyW → n = 0x011 → k.loop1.active = false →
      exec (.csrw c rd n) s = .next (s.setClu c ({ k with loop1 := { k.loop1 with count := v } } : Clu).advance)) ∧
    (readyFor s c (encI 0x35 rd 0 0) [rd, rd + 1] = true →
      exec (.time c rd) s = .next (s.setClu c
        ((k.setReg rd (BitVec.ofNat 32 (s.fabTime / 65536))).setReg (rd + 1) (BitVec.ofNat 32 (s.fabTime / 65536 / 2 ^ 32))).advance))

/-- The flag that a flag instruction names (R295): F8, or the low 8 bits of a register. -/
def namedFlag (k : Clu) (x : FlagForm) : Nat := if x.r then (k.reg x.ra).toNat % 256 else x.f8.toNat

/-- SETF, CLRF and TSTF on flags that no counter governs (R300): the flag is set, cleared or read into the destination, and no other
flag changes. SETF waits for the far stores before it to be acknowledged (R299). -/
def Obligations.FlagInstructions : Prop :=
  ∀ (s : State) (c : ClusterId) (x : FlagForm),
    let k := s.clu c
    let f := namedFlag k x
    (readyFor s c (encF 0x30 x) [x.ra] = true → k.stores = [] → k.governor f = none → k.flagWaits = [] →
      ∃ t, exec (.setf c x) s = .next t ∧ (t.clu c).flag f = true ∧ (∀ g, g < 256 → g ≠ f → (t.clu c).flag g = k.flag g) ∧
        (t.clu c).pc = k.advance.pc ∧ (t.clu c).regs = k.regs ∧ t.mem = s.mem ∧ t.regs = s.regs) ∧
    (readyFor s c (encF 0x30 x) [x.ra] = true → k.stores ≠ [] → exec (.setf c x) s = .next s) ∧
    (readyFor s c (encF 0x31 x) [x.ra] = true → k.governor f = none →
      ∃ t, exec (.clrf c x) s = .next t ∧ (t.clu c).flag f = false ∧ (∀ g, g < 256 → g ≠ f → (t.clu c).flag g = k.flag g) ∧
        (t.clu c).pc = k.advance.pc ∧ (t.clu c).regs = k.regs ∧ t.mem = s.mem ∧ t.regs = s.regs) ∧
    (readyFor s c (encF 0x32 x) [x.rd, x.ra] = true →
      exec (.tstf c x) s = .next (regResult s c x.rd (if k.flag f then 1 else 0)))

/-- No macro-op is in a queue. -/
abbrev noMops (k : Clu) : Prop := ∀ q ∈ k.queues, q.mops = []

/-- The timeout of a wait in µs (R301): the register's value, CLU_WDOG.WAITUS for g0, and never less than 1. -/
def timeoutUs (s : State) (c : ClusterId) (rt : GReg) : Nat :=
  max 1 (if rt = 0 then s.get F.CLU_WDOG_WAITUS c else ((s.clu c).reg rt).toNat)

/-- Waits of the prompter: WAITF goes on at once where its flag reads set, and then clears it where it is to; WAITT where its time
is reached; MWAIT where its ticket has retired (R310). Otherwise the wait is on record, with its timeout, and PC stays. -/
def prompterWaits : Prop :=
  ∀ (s : State) (c : ClusterId) (x : FlagForm) (ra : GReg), noMops (s.clu c) →
    let k := s.clu c
    let f := namedFlag k x
    let us := timeoutUs s c x.rt
    let ticket := (k.reg x.ra).toNat
    let q := k.queues.getD (ticket % 4) IssueQ.empty
    let ns := (k.reg ra).toNat + (k.reg (ra + 1)).toNat * 2 ^ 32
    let waits := fun (w : PWait) => s.setClu c { k with wait := some w, busyAt := s.ticks }
    let on : Clu := ({ k with busyAt := s.ticks } : Clu).advance
    (readyFor s c (encF 0x33 x) [x.ra, x.rt] = true → k.flag f = false →
      exec (.waitf c x) s = .next (waits (.flag f x.c us s.fabTime))) ∧
    (readyFor s c (encF 0x33 x) [x.ra, x.rt] = true → k.flag f = true → k.governor f = none →
      exec (.waitf c x) s = .next (s.setClu c (if x.c then on.putFlag f false else on))) ∧
    (readyFor s c (encF 0x3A x) [x.ra, x.rt] = true → q.passed (fieldOf ticket 2 14) = false →
      exec (.mwait c x) s = .next (waits (.ticket (ticket % 4) (fieldOf ticket 2 14) us s.fabTime))) ∧
    (readyFor s c (encF 0x3A x) [x.ra, x.rt] = true → q.passed (fieldOf ticket 2 14) = true →
      exec (.mwait c x) s = .next (s.setClu c on)) ∧
    (readyFor s c (encI 0x36 ra 0 0) [ra, ra + 1] = true → s.nowNs < ns →
      exec (.waitt c ra) s = .next (waits (.time ns))) ∧
    (readyFor s c (encI 0x36 ra 0 0) [ra, ra + 1] = true → ns ≤ s.nowNs →
      exec (.waitt c ra) s = .next (s.setClu c on))

/-- WAITF, WAITT and MWAIT, and the stall on a pending far load: `prompterWaits`, `pendingLoadStalls`. -/
def Obligations.WaitsAndStalls : Prop := prompterWaits ∧ pendingLoadStalls

/-- ISSUE and ISSUER append the macro-op of a slot, with four registers as parameters, to the queue that its word names (R308),
count it, and write its ticket: the queue in bits [1:0] and the queue's sequence number above (R309). A full queue of 16 stalls; a
slot outside the program traps with BADSLOT (R308, R315). -/
def issuesMacroOps : Prop :=
  ∀ (s : State) (c : ClusterId) (rd ra rb : GReg) (slot : BitVec 11),
    let k := s.clu c
    let n := (k.prog.map Prog.mops).getD 0
    let at_ := fun (m : Nat) =>
      let q := mopQueue (mopWord s c m)
      let iq := k.queues.getD q IssueQ.empty
      let ps : List Word := if ra = 0 then [0, 0, 0, 0] else [k.reg ra, k.reg (ra + 1), k.reg (ra + 2), k.reg (ra + 3)]
      let mop : Mop := ⟨m, ps, iq.seq, .queued, false, [], 0, 0, 0, [], 0, false, false, none, false, 0⟩
      let k' := { k with
        queues := k.queues.set q { iq with mops := iq.mops ++ [mop], seq := iq.seq + 1 }
        mopcnt := (k.mopcnt + 1) % 2 ^ 32 }
      s.setClu c (k'.setReg rd (BitVec.ofNat 32 (q + iq.seq % 16384 * 4))).advance
    let room := fun (m : Nat) => (k.queues.getD (mopQueue (mopWord s c m)) IssueQ.empty).entries < 16
    let rdyI := readyFor s c (encR 0x38 rd ra 0 slot) (rd :: paramRegs ra) = true ∧ k.stores = []
    let rdyR := readyFor s c (encR 0x3B rd ra rb 0) (rd :: rb :: paramRegs ra) = true ∧ k.stores = []
    let m := (k.reg rb).toNat
    (rdyI → k.dbg = [] → slot.toNat < n → room slot.toNat → exec (.issue c rd ra slot) s = .next (at_ slot.toNat)) ∧
    (rdyI → slot.toNat < n → ¬ room slot.toNat → exec (.issue c rd ra slot) s = .next s) ∧
    (rdyI → n ≤ slot.toNat → exec (.issue c rd ra slot) s = .next (trap 4 0 c s)) ∧
    (rdyR → k.dbg = [] → m < 2048 → m < n → room m → exec (.issuer c rd ra rb) s = .next (at_ m)) ∧
    (rdyR → 2048 ≤ m ∨ n ≤ m → exec (.issuer c rd ra rb) s = .next (trap 4 0 c s))

/-- MQRY reads a queue's count of entries, its retired count modulo 2^14, its error record (SEL 3 also clears it), the number of
stevedore transfers outstanding, or the macro-ops issued (R311). END ends the program once earlier far accesses have completed (R299, R312). -/
def queryAndEnd : Prop :=
  ∀ (s : State) (c : ClusterId) (rd ra : GReg),
    let k := s.clu c
    let q := (k.reg ra).toNat % 4
    let iq := k.queues.getD q IssueQ.empty
    let err := match iq.err with
      | some (st, slot) => st % 256 + slot % 2048 * 256 + 2 ^ 31
      | none => 0
    let rdy := fun (sel : BitVec 16) => readyFor s c (encI 0x39 rd ra sel) [rd, ra] = true
    (rdy 0 → exec (.mqry c rd ra 0) s = .next (regResult s c rd (BitVec.ofNat 32 iq.entries))) ∧
    (rdy 1 → exec (.mqry c rd ra 1) s = .next (regResult s c rd (BitVec.ofNat 32 (iq.retired % 16384)))) ∧
    (rdy 2 → exec (.mqry c rd ra 2) s = .next (regResult s c rd (BitVec.ofNat 32 err))) ∧
    (rdy 3 → exec (.mqry c rd ra 3) s =
      .next (regResult (s.setClu c { k with queues := k.queues.set q { iq with err := none } }) c rd (BitVec.ofNat 32 err))) ∧
    (rdy 4 → exec (.mqry c rd ra 4) s = .next (regResult s c rd (BitVec.ofNat 32 k.outstanding))) ∧
    (rdy 5 → exec (.mqry c rd ra 5) s = .next (regResult s c rd (BitVec.ofNat 32 k.mopcnt))) ∧
    (readyFor s c (encR 0x3F 0 0 0 0) [] = true → k.stores = [] → k.loads = [] →
      exec (.end_ c) s = .next (s.setClu c { k with ended := true })) ∧
    (readyFor s c (encR 0x3F 0 0 0 0) [] = true → k.stores ≠ [] ∨ k.loads ≠ [] → exec (.end_ c) s = .next s)

/-- ISSUE and ISSUER: queue, parameters, ticket, stall and BADSLOT; MQRY values and END: `issuesMacroOps`, `queryAndEnd`. -/
def Obligations.IssueQueryEnd : Prop := issuesMacroOps ∧ queryAndEnd

/-- A trap (R315, R280): the cluster halts with cause TRAP, PC stays, and the trap record holds the cause, PC, the address, the word
and the macro-ops issued; no other byte of memory changes. An illegal word traps with cause 1 and no address. -/
def Obligations.Traps : Prop :=
  ∀ (s : State) (c : ClusterId) (cause addr : Nat), cause < 256 → addr < 2 ^ 48 → cluState s c = 5 → s.wf = true →
    (s.clu c).pc < 65536 → (s.clu c).startCmd = none →
    let k := s.clu c
    let t := trap cause addr c s
    let w := fun (i : Nat) => ofBytes ((List.range 4).map fun j =>
      memByte t.mem (privateKey (slotOf s c) + 0x7FFC0 + 4 * i + j))
    cluState t c = 8 ∧ t.get F.CLU_STATUS_HALTCAUSE c = 2 ∧ (t.clu c).pc = k.pc ∧ (t.clu c).regs = k.regs ∧
      w 0 = cause ∧ w 1 = k.pc ∧ w 2 = addr % 2 ^ 32 ∧ w 3 = addr / 2 ^ 32 ∧ w 4 = (imemWord s c k.pc).toNat ∧ w 5 = k.mopcnt % 2 ^ 32 ∧
      memSame s t [(privateKey (slotOf s c) + 0x7FFC0, 32)] ∧
      (canRun s c = true → legalWord (imemWord s c k.pc) = false → exec (.illegalInstruction c) s = .next (trap 1 0 c s))

/-! Registers, commits and counters. -/

/-- Only register words differ. -/
abbrev onlyRegs (s t : State) : Prop := ({ t with regs := s.regs } : State) = s

/-- Offsets of every row of the listed registers of instance `i`. -/
abbrev rowsOf (i : Nat) (rs : List Reg) : List Nat := rs.flatMap fun r => (List.range r.cnt).map (r.addr i)

/-- Every row of the listed registers of instance `i` reads 0. -/
abbrev cleared (t : State) (i : Nat) (rs : List Reg) : Prop := ∀ r ∈ rs, ∀ j, j < r.cnt → t.rd r i j = 0

/-- Every register at an offset outside the list is as it was. -/
abbrev keptOutside (s t : State) (offs : List Nat) : Prop := ∀ (r : Reg) (i j : Nat), r.addr i j ∉ offs → t.rd r i j = s.rd r i j

/-- The registers of instance `i` in the list are the only ones that differ. -/
abbrev othersKept (s t : State) (i : Nat) (rs : List Reg) : Prop := keptOutside s t (rowsOf i rs)

/-- Every field of the listed fields' registers that overlaps none of them is as it was. -/
abbrev keptFields (s t : State) (i : Nat) (fs : List Fld) : Prop :=
  ∀ f ∈ fs, ∀ g : Fld, g.reg = f.reg → g.lo + g.width ≤ 32 →
    (∀ f' ∈ fs, f'.reg = g.reg → g.lo + g.width ≤ f'.lo ∨ f'.lo + f'.width ≤ g.lo) → t.get g i = s.get g i

/-- A clear of instance `i`: the listed registers read 0, the listed fields of others read 0, and no other register, no other field
of those and nothing else of the block differs. -/
abbrev clearsOnly (s t : State) (i : Nat) (rs : List Reg) (fs : List Fld) : Prop :=
  onlyRegs s t ∧ cleared t i rs ∧ (∀ f ∈ fs, t.get f i = 0) ∧ keptFields s t i fs ∧ othersKept s t i (rs ++ fs.map Fld.reg)

/-- The clears of counters and records: each completes in every state, zeroes the registers that the spec lists for it, and changes no
other register and nothing else of the block but, for TEL_Q_CTL.CLR, the sample count of its queue. A port's clear takes its lanes'
symbol error counts (R97); POOL_STATUS.CLR sets MINFREE to FREE (R151). A clear of an absent cluster's array or of a queue of an
undefined port changes nothing. -/
def Obligations.CounterClears : Prop :=
  ∀ (s : State) (t : TargetId) (x : CtxId) (g : Fin 4) (l : LineId) (e : EngineId) (c : ClusterId) (k : PoolId) (n : StackId)
    (p : PortId) (q : QueueId), Regs.wf s.regs = true →
    (∃ u, exec .fwdCntClr s = .next u ∧ clearsOnly s u 0 [R.FWD_CNT_NOROUTE, R.FWD_CNT_HDRERR, R.FWD_CNT_CRCERR, R.FWD_CNT_FENCEDROP,
      R.FWD_CNT_EPFENCE, R.FWD_CNT_CMARK, R.FWD_CNT_CMRX, R.FWD_CNT_THROTTLE, R.FWD_LASTDROP] []) ∧
    (∃ u, exec .bufCntClr s = .next u ∧ clearsOnly s u 0 [R.BUF_CNT_MCREP, R.BUF_CNT_MCFENCE, R.BUF_CNT_NOBUF, R.BUF_CNT_SLICESKIP,
      R.BUF_CNT_SLICEHOLD] []) ∧
    (∃ u, exec (.schedCntClr p) s = .next u ∧ clearsOnly s u p [R.SCHED_CNT_MTRDROP, R.SCHED_CNT_GUARD, R.SCHED_CNT_GATEOVR] []) ∧
    (∃ u, exec .timeCntClr s = .next u ∧ clearsOnly s u 0 [R.TIME_CNT_SYNCRX, R.TIME_CNT_REJECT, R.TIME_CNT_STEP] []) ∧
    (∃ u, exec (.collCntClr x) s = .next u ∧ clearsOnly s u x [R.COLL_CNT_INST, R.COLL_CNT_ERR, R.COLL_CNT_FENCED, R.COLL_CNT_BADPKT,
      R.COLL_BADREC] []) ∧
    (∃ u, exec (.xredCntClr g) s = .next u ∧ clearsOnly s u g [R.XRED_CNT_INST, R.XRED_CNT_EXACT, R.XRED_CNT_LANEHOLD,
      R.XRED_HWLAT] []) ∧
    (∃ u, exec (.cluCntClr c) s = .next u ∧ clearsOnly s u c [R.CLU_CNT_MOPS, R.CLU_CNT_WAKE, R.CLU_CNT_RETAIN,
      R.CLU_CNT_REHFAIL] []) ∧
    (∃ u, exec (.stkCntClr n) s = .next u ∧ clearsOnly s u n [R.STK_CNT_CE, R.STK_CNT_UE, R.STK_CNT_ODECC, R.STK_CNT_HIT,
      R.STK_CNT_MISS, R.STK_CNT_WB, R.STK_CNT_PROTEVICT, R.STK_CNT_LASTDROP, R.STK_CNT_FENCELOST, R.STK_CNT_FENCEERR,
      R.STK_CNT_DRIFT, R.STK_CNT_RETRAIN, R.STK_UELOG_LO, R.STK_UELOG_HI] []) ∧
    (∃ u, exec .hifCntClr s = .next u ∧ clearsOnly s u 0 [R.HIF_CNT_BADDB, R.HIF_CNT_EVDROP, R.HIF_CNT_HOSTERR] []) ∧
    (∃ u, exec .pwrCntClr s = .next u ∧ clearsOnly s u 0 [R.PWR_CNT_THROTTLE, R.PWR_CNT_CRIT] []) ∧
    (∃ u, exec .clkCntUnlockClr s = .next u ∧ clearsOnly s u 0 [R.CLK_CNT_UNLOCK] []) ∧
    (∃ u, exec (.accDenyClr t) s = .next u ∧ clearsOnly s u t [R.ACC_TBL_DENYCNT, R.ACC_TBL_DENYMID, R.ACC_TBL_DENYLO,
      R.ACC_TBL_DENYHI] [F.ACC_TBL_STATUS_FIRSTEV]) ∧
    (∃ u, exec (.cueCntClr e) s = .next u ∧ clearsOnly s u e [R.CUE_CNT_FIRED, R.CUE_CNT_LATE, R.CUE_CNT_SKIP, R.CUE_CNT_NOTARGET]
      [F.CUE_STATUS_FIRSTEV]) ∧
    (∃ u, exec (.curtClr l) s = .next u ∧ clearsOnly s u l [R.CURT_CNT_BADARR] [F.CURT_STATUS_TIMEOUT, F.CURT_STATUS_FIRSTEV]) ∧
    (∃ u, exec .errCntClr s = .next u ∧ clearsOnly s u 0 [R.ERR_CNT_SWITCHIN, R.ERR_CNT_MISSING, R.ERR_CNT_E2EEGR, R.ERR_CNT_LDRIFT,
      R.ERR_CNT_FWDREPAIR, R.ERR_CE, R.ERR_UE, R.ERR_UELOG0, R.ERR_UELOG1, R.ERR_UELOG2] [F.ERR_CFG_UEFIRST]) ∧
    (∃ u, exec .rejectClear s = .next u ∧ clearsOnly s u 0 [R.ERR_REJ, R.ERR_REJMID] [F.ERR_CFG_REJECT]) ∧
    (let rs := [R.POOL_CNT_ALLOC, R.POOL_CNT_WAIT, R.POOL_CNT_DFREE, R.POOL_CNT_WRONGOWN, R.POOL_CNT_RANGE, R.POOL_CNT_REFOVF,
        R.POOL_CNT_LEAK, R.POOL_CNT_RECLAIM, R.POOL_ERR_BUF, R.POOL_ERR_OWN, R.POOL_INCDIFF]
      let fs := [F.POOL_STATUS_FIRSTEV, F.POOL_STATUS_INCONS, F.POOL_MINFREE_FREE]
      ∃ u, exec (.poolStatusClr k) s = .next u ∧ onlyRegs s u ∧ cleared u k rs ∧ u.get F.POOL_STATUS_FIRSTEV k = 0 ∧
        u.get F.POOL_STATUS_INCONS k = 0 ∧ u.get F.POOL_MINFREE_FREE k = (s.pool k).free % 2 ^ F.POOL_MINFREE_FREE.width ∧
        keptFields s u k fs ∧ othersKept s u k (rs ++ fs.map Fld.reg)) ∧
    (present s c = true → ∃ u, exec (.arrCntClr c) s = .next u ∧ clearsOnly s u c [R.ARR_CNT_STREAM, R.ARR_CNT_LOWLAT,
      R.ARR_CNT_TWOPASS, R.ARR_CNT_BUBBLE, R.ARR_CNT_NEXTLOST, R.ARR_CNT_DENSE, R.ARR_CNT_MISMATCH, R.ARR_CNT_RETRY,
      R.ARR_CNT_DIAG] []) ∧
    (present s c = false → exec (.arrCntClr c) s = .next s) ∧
    (let rs := [R.PORT_CNT_FECCORR, R.PORT_CNT_FECUNC, R.PORT_CNT_REPLAY, R.PORT_CNT_NAK, R.PORT_CNT_RETRAIN, R.PORT_CNT_ABORTTX,
        R.PORT_CNT_ABORTRX, R.PORT_CNT_PROTERR, R.PORT_CNT_CLOSEDDROP, R.PORT_CNT_DOWNSHIFT, R.PORT_CNT_REPLAYLOST]
      ∃ u, exec (.portCntClr p) s = .next u ∧ onlyRegs s u ∧ cleared u p rs ∧
        (∀ j, j < portWidth s p → u.rd R.LINK_CNT_SYMERR (portLane s p + j) 0 = 0) ∧
        keptOutside s u (rowsOf p rs ++ (List.range (portWidth s p)).map fun j => R.LINK_CNT_SYMERR.addr (portLane s p + j) 0)) ∧
    (portDefined s (q.val / 9) = true → ∃ u, exec (.telQClr q) s = .next u ∧
      clearsOnly { s with net.sampleCount := erase s.net.sampleCount q } u q [R.TEL_Q_HWDEPTH, R.TEL_Q_HWSOJ] []) ∧
    (portDefined s (q.val / 9) = false → exec (.telQClr q) s = .next s)

/-- Register writes by class (R12, R13, R15, R16, R580), on a register of each: RW.L takes the value at once; RW.S of a set owning
enable keeps its value and the write is rejected, with REJECT and the offset and master of the first; RW.C goes to the shadow and
leaves the active word; a reserved offset ignores the write. -/
def Obligations.RegisterWriteClasses : Prop :=
  ∀ (s : State) (m : MasterId) (v : Word), Regs.wf s.regs = true →
    (cluState s 0 ≠ 11 → ∃ t, exec (.registerWrite m 0x800003 v) s = .next t ∧ t.rd R.CLU_WDOG 0 0 = v.toNat ∧ onlyRegs s t ∧
      othersKept s t 0 [R.CLU_WDOG]) ∧
    (s.flag F.FWD_CTL_EN = false → ∃ t, exec (.registerWrite m 0x280001 v) s = .next t ∧
      t.get F.FWD_SELF_ID = v.toNat % 2 ^ 20 ∧ onlyRegs s t ∧ othersKept s t 0 [R.FWD_SELF]) ∧
    (s.flag F.FWD_CTL_EN = true → v.toNat % 2 ^ 20 ≠ s.get F.FWD_SELF_ID → s.flag F.ERR_CFG_REJECT = false →
      ∃ t, exec (.registerWrite m 0x280001 v) s = .next t ∧ t.rd R.FWD_SELF 0 0 = s.rd R.FWD_SELF 0 0 ∧
        t.get F.ERR_CFG_REJECT = 1 ∧ t.get F.ERR_REJ_OFFSET = 0xA00004 ∧ t.get F.ERR_REJMID_MID = m.toNat) ∧
    (s.armed (.curt 0) = false → ∃ t, exec (.registerWrite m 0x1E0003 v) s = .next t ∧ t.rd R.CURT_CFG 0 0 = s.rd R.CURT_CFG 0 0 ∧
      t.rdShadow R.CURT_CFG 0 0 % 256 = v.toNat % 256 ∧ t.regs = s.regs) ∧
    (∀ off : BitVec 24, findReg (4 * off.toNat) = none → exec (.registerWrite m off v) s = .next s)

/-- What a commit write with the group's tag adds as it arms: the takeover time of a gate list (R166), a fresh mask of found columns of
an array (R366), nothing for another group. -/
def armedWith (s : State) (g : CommitGroup) (t : State) : State :=
  match g with
  | .gate p => t.setGate p { s.gate p with takeover := takeoverTime s p }
  | .arr c => t.setClu c { s.clu c with found := 0 }
  | _ => t

/-- The offset of the COMMIT register of a group. -/
def commitReg (g : CommitGroup) : Nat := let (_, c, i) := groupRegs g; c.addr i 0

/-- Commits (R16 to R18): a COMMIT write with the group's tag arms the shadow, which it keeps; one with another tag is rejected; while
PENDING it changes nothing; the array of a missing cluster takes none. A boundary without an armed shadow changes nothing. At the
boundary of the fabric master classes, of a curtain line with an empty mask and of a stack the shadow values become the active ones,
PENDING returns to 0 and the shadow no longer holds them; a stack's shadow with a batch of 0 is refused and kept (R17). -/
def Obligations.Commits : Prop :=
  ∀ (s : State) (m : MasterId) (g : CommitGroup) (tag : Byte) (l : LineId) (n : StackId), Regs.wf s.regs = true → rising none s.shadow = true →
    let there := ∀ c : ClusterId, g = .arr c → cluState s c ≠ 11
    (there → s.armed g = false → tag.toNat = s.ctag g → ∃ t, exec (.blockCommit m g tag) s = .next (armedWith s g t) ∧
      t.armed g = true ∧ lookup t.armedBy (commitOff g) = some m.toNat ∧ t.shadow = s.shadow ∧
      ({ t with regs := s.regs, armedBy := s.armedBy } : State) = s ∧ keptOutside s t [commitReg g]) ∧
    (there → s.armed g = false → tag.toNat ≠ s.ctag g → exec (.blockCommit m g tag) s = .next (s.reject m.toNat (commitOff g))) ∧
    (s.armed g = true → exec (.blockCommit m g tag) s = .next s) ∧
    (∀ c : ClusterId, cluState s c = 11 → exec (.blockCommit m (.arr c) tag) s = .next s) ∧
    (s.armed g = false → exec (.commitApply g) s = .next s) ∧
    (s.armed .fmc = true → ∃ t, exec (.commitApply .fmc) s = .next t ∧ t.armed .fmc = false ∧
      ({ t with regs := s.regs, shadow := s.shadow } : State) = s ∧ (∀ e ∈ t.shadow, e ∈ s.shadow ∧ ¬(0x240000 ≤ e.1 ∧ e.1 < 0x240200)) ∧
      (∀ e ∈ s.shadow, ¬(0x240000 ≤ e.1 ∧ e.1 < 0x240200) → e ∈ t.shadow) ∧
      ∀ k, k < 64 → t.get F.ACC_FMC_LO_FIRST 0 k = s.rdShadow R.ACC_FMC_LO 0 k % 2 ^ 20 ∧
        t.get F.ACC_FMC_HI_LAST 0 k = s.rdShadow R.ACC_FMC_HI 0 k % 2 ^ 20 ∧
        t.get F.ACC_FMC_HI_VALID 0 k = s.rdShadow R.ACC_FMC_HI 0 k / 2 ^ 31 % 2) ∧
    (s.armed (.curt l) = true → (∀ j, j < 3 → s.rdShadow R.CURT_MEM l j = 0) →
      ∃ t, exec (.commitApply (.curt l)) s = .next t ∧ t.get F.CURT_CFG_FLAG l = s.rdShadow R.CURT_CFG l 0 % 256 ∧
        t.armed (.curt l) = false ∧ t.clus = s.clus ∧ lookup t.tm.firstArrival l = none ∧
        ∀ j, j < 3 → t.rd R.CURT_MEM l j = 0 ∧ t.rd R.CURT_ARR l j = 0 ∧ lookup t.shadow (R.CURT_MEM.addr l j) = none) ∧
    (s.armed (.stk n) = true → let w := s.rdShadow R.STK_CFG n 0;
      (w / 2 ^ 8 % 256 ≠ 0 → w / 2 ^ 16 % 256 ≠ 0 → ∃ t, exec (.commitApply (.stk n)) s = .next t ∧ t.armed (.stk n) = false ∧
        t.get F.STK_CFG_LASTDROP n = s.get F.STK_CFG_LASTDROP n ∧ t.get F.STK_CFG_PROTWAYS n = w / 16 % 16 ∧ t.get F.STK_CFG_RDBATCH n = w / 2 ^ 8 % 256 ∧
        t.get F.STK_CFG_WRBATCH n = w / 2 ^ 16 % 256 ∧ lookup t.shadow (R.STK_CFG.addr n 0) = none) ∧
      (w / 2 ^ 8 % 256 = 0 ∨ w / 2 ^ 16 % 256 = 0 → ∃ t, exec (.commitApply (.stk n)) s = .next t ∧ t.armed (.stk n) = false ∧
        t.shadow = s.shadow ∧ t.get F.ERR_CFG_REJECT = 1 ∧ t.rd R.STK_CFG n 0 = s.rd R.STK_CFG n 0))

/-- The rejection record (R506): the first rejected write since REJECT was cleared sets it and leaves its offset and master; a later
one changes nothing. Every refusal of an access is counted at its target; the first since a clear leaves its record, sets FIRSTEV and
raises one event with the target, master, cause and address, and a later one raises none until CLR is written (R58). -/
def Obligations.RejectAndRefusalRecords : Prop :=
  ∀ (s : State) (t : TargetId) (mid off cause a : Nat) (write : Bool), s.wf = true → mid < 2 ^ 12 → off < 2 ^ 26 → cause < 4 → a < 2 ^ 48 →
    (s.flag F.ERR_CFG_REJECT = true → s.reject mid off = s) ∧
    (s.flag F.ERR_CFG_REJECT = false →
      (s.reject mid off).get F.ERR_CFG_REJECT = 1 ∧ (s.reject mid off).get F.ERR_REJ_OFFSET = off ∧
        (s.reject mid off).get F.ERR_REJMID_MID = mid) ∧
    (∀ n hint l, judge s mid a n write = (t.val, l, .refuse cause) →
      (write = false → readParts regBytes mid hint [(a, n)] s = (.refused cause, recordRefusal t mid cause a false s)) ∧
      (write = true → ∀ bs, writeParts regPut mid hint [(a, n)] bs s = (.refused cause, recordRefusal t mid cause a true s))) ∧
    (let u := recordRefusal t mid cause a write s;
      u.get F.ACC_TBL_DENYCNT_COUNT t = min (s.get F.ACC_TBL_DENYCNT_COUNT t + 1) (2 ^ F.ACC_TBL_DENYCNT_COUNT.width - 1) ∧
      (s.flag F.ACC_TBL_STATUS_FIRSTEV t = false → u.get F.ACC_TBL_STATUS_FIRSTEV t = 1 ∧ u.get F.ACC_TBL_DENYMID_MID t = mid ∧
        u.get F.ACC_TBL_DENYMID_CAUSE t = cause ∧ u.get F.ACC_TBL_DENYLO_ADDR t = a % 2 ^ 32 ∧
        u.get F.ACC_TBL_DENYHI_ADDR t = a / 2 ^ 32 ∧ u.eventSeq = s.eventSeq + 1 ∧
        (s.hif.ev.mute = false → s.events.items.length < 256 → ∃ e, u.events.items = s.events.items ++ [e] ∧ e.source = 1 ∧ e.typ = 1 ∧
          e.unit = t.val ∧ e.payload.take 4 =
            [t.val, mid + cause * 4096 + (if write then 65536 else 0), a % 2 ^ 32, a / 2 ^ 32].map (BitVec.ofNat 32))) ∧
      (s.flag F.ACC_TBL_STATUS_FIRSTEV t = true → u.eventSeq = s.eventSeq ∧ u.events = s.events ∧
        u.get F.ACC_TBL_DENYMID_MID t = s.get F.ACC_TBL_DENYMID_MID t ∧ u.get F.ACC_TBL_DENYLO_ADDR t = s.get F.ACC_TBL_DENYLO_ADDR t)) ∧
    (∃ u, exec (.accDenyClr t) s = .next u ∧ u.get F.ACC_TBL_STATUS_FIRSTEV t = 0 ∧ u.get F.ACC_TBL_DENYCNT_COUNT t = 0) ∧
    (∃ u, exec (.accessDrained t) s = .next u ∧ u.get F.ACC_TBL_STATUS_DRAINED t = 1)

/-- Masters 0x000 to 0x004 may always read and write the ACC block, and no entry of a table grants another master access to the ACC or
the SEC range (R50). -/
def Obligations.AccessBlockGuard : Prop :=
  ∀ (s : State) (mid a len : Nat) (write : Bool), len = 4 ∨ len = 8 → a % len = 0 →
    (mid ≤ 4 → 0x7F0000200000 ≤ a → a < 0x7F0000300000 → (judge s mid a len write).2.2 = .free) ∧
    (4 < mid → 0x7F0000200000 ≤ a → a < 0x7F0000340000 → (judge s mid a len write).2.2 = .refuse causeDenied)

/-- The host's windows. While READY, an access of 4 or 8 bytes that the tables admit reads or writes the registers at its offset in
BAR0, or at its offset from the window base in BAR2 (R465, R466); a read is answered with their values. The access tables admit the
host always (R50). BAR2 reads and writes the scratch of a running cluster. Before READY a read is answered with an error and a write is
dropped (R467), but for the registers that R467 excepts; in recovery BAR2 writes go to the push buffer (R513). -/
def Obligations.HostWindows : Prop :=
  ∀ (s : State) (off : BitVec 26) (off2 : BitVec 33) (len : BitVec 13) (bs : List Byte) (o n : Nat), s.hif.linkUp = true →
    let ready := s.flag F.HIF_STATUS_READY = true
    let a0 := 0x7F0000000000 + off.toNat
    let a2 := winBase s + off2.toNat
    let fits := off2.toNat + n ≤ 2 ^ 33
    let got := (regBytes 0 o n s).2.emit (.readData 0 (regBytes 0 o n s).1)
    (ready → n = 4 ∨ n = 8 → len.toNat = n →
      ((∃ t, judge s 0 a0 n false = (t, .reg o, .free)) → exec (.bar0Access off len none) s = .next got) ∧
      ((∃ t, judge s 0 a2 n false = (t, .reg o, .free)) → fits → exec (.bar2Access off2 len none) s = .next got)) ∧
    (ready → n = 4 ∨ n = 8 → bs.length = n →
      ((∃ t, judge s 0 a0 n true = (t, .reg o, .free)) → exec (.bar0Access off len (some bs)) s = .next (regPut 0 o bs s)) ∧
      ((∃ t, judge s 0 a2 n true = (t, .reg o, .free)) → fits → exec (.bar2Access off2 len (some bs)) s = .next (regPut 0 o bs s))) ∧
    (0x200000 ≤ off.toNat → off.toNat < 0x300000 → off.toNat % 4 = 0 → ∀ w, ∃ t, judge s 0 a0 4 w = (t, .reg off.toNat, .free)) ∧
    (ready → fits → s.upsets = [] → ∀ (c : ClusterId) (t : Nat), cluState s c = 5 →
      (len.toNat = n → n ≠ 0 → judge s 0 a2 n false = (t, .scratch c o, .free) →
        exec (.bar2Access off2 len none) s = .next (s.emit (.readData 0 (scratchRead s c o n)))) ∧
      (bs.length = n → n ≠ 0 → judge s 0 a2 n true = (t, .scratch c o, .free) →
        exec (.bar2Access off2 len (some bs)) s = .next (scratchWrite c o bs s))) ∧
    (¬ready → len.toNat = 4 → off.toNat % 4 = 0 → earlyRegister s false off.toNat = true →
      exec (.bar0Access off len none) s = .next ((regRead off.toNat s).2.emit (.readData 0 (toBytes 4 (regRead off.toNat s).1)))) ∧
    (¬ready → len.toNat = 4 → off.toNat % 4 = 0 → earlyRegister s false off.toNat = false →
      exec (.bar0Access off len none) s = .next (s.emit (.refusal 0 0 false))) ∧
    (¬ready → bs.length = 4 → off.toNat % 4 = 0 → exec (.bar0Access off len (some bs)) s =
      .next (if earlyRegister s true off.toNat then regWrite 0 off.toNat (ofBytes bs) s else s)) ∧
    (¬ready → bootStage s = 7 → bs ≠ [] → off2.toNat + bs.length ≤ 0x400000 →
      ∃ t, exec (.bar2Access off2 len (some bs)) s = .next t ∧ t = { s with sec.push := t.sec.push } ∧
        (Memory.wf s.sec.push = true → ∀ i, i < bs.length → memByte t.sec.push (off2.toNat + i) = bs.getD i 0))

/-- The job table (R389): a write of a high half goes to its latch and changes nothing else; a write of a low half joins it to the
latched high half and replaces the value; a read of a low half returns it and latches the high half, which a read of the high half
returns; ADVANCE adds 1 to the step modulo 2^64, after a write that comes with it. -/
def Obligations.JobTable : Prop :=
  ∀ (s : State) (m : MasterId) (j : BitVec 8) (v : Word),
    let x := s.job j.toNat
    (∃ t, exec (.devJobSeedLoWrite j v) s = .next t ∧ (t.job j.toNat).seed = (v.toNat + x.seedW * 2 ^ 32) % 2 ^ 64 ∧
      (t.job j.toNat).step = x.step % 2 ^ 64 ∧ ∀ i, i ≠ j.toNat → t.job i = s.job i) ∧
    (∃ t, exec (.devJobStepLoWrite j v) s = .next t ∧ (t.job j.toNat).step = (v.toNat + x.stepW * 2 ^ 32) % 2 ^ 64 ∧
      (t.job j.toNat).seed = x.seed % 2 ^ 64 ∧ ∀ i, i ≠ j.toNat → t.job i = s.job i) ∧
    exec (.devJobSeedHiWrite j v) s = .next (s.setJob j.toNat { x with seedW := v.toNat }) ∧
    exec (.devJobStepHiWrite j v) s = .next (s.setJob j.toNat { x with stepW := v.toNat }) ∧
    exec (.devJobSeedLoRead m j) s = .next ((s.setJob j.toNat { x with seedR := x.seed / 2 ^ 32, past := [] }).emit
      (.readData m.toNat (toBytes 4 (x.seed % 2 ^ 32)))) ∧
    exec (.devJobStepLoRead m j) s = .next ((s.setJob j.toNat { x with stepR := x.step / 2 ^ 32, past := [] }).emit
      (.readData m.toNat (toBytes 4 (x.step % 2 ^ 32)))) ∧
    regRead (R.DEV_JOB_SEED_HI.addr 0 j.toNat) s = (x.seedR, s) ∧ regRead (R.DEV_JOB_STEP_HI.addr 0 j.toNat) s = (x.stepR, s) ∧
    (∃ t u, exec (.devJobStepLoWrite j v) s = .next t ∧ exec (.devJobAdvance j) t = .next u ∧
      (u.job j.toNat).step = (v.toNat + x.stepW * 2 ^ 32 + 1) % 2 ^ 64) ∧
    (∃ t, exec (.devJobAdvance j) s = .next t ∧ (t.job j.toNat).step = (x.step + 1) % 2 ^ 64 ∧
      (t.job j.toNat).seed = x.seed % 2 ^ 64 ∧ ∀ i, i ≠ j.toNat → t.job i = s.job i)

/-! Flag pages, counters and mailboxes. -/

/-- A master that a cluster's own grants cover (R49): its prompter, while the cluster's memories can be reached. -/
abbrev ownMaster (s : State) (m : MasterId) (c : ClusterId) : Prop :=
  m.toNat = 0x010 + c.val ∧ (cluState s c = 4 ∨ cluState s c = 5 ∨ cluState s c = 8) ∧ failing s c = false

/-- Writes of a cluster's flag page by its own prompter: a flag word sets or clears its flag by bit 0 (R418); CNT_ANNOUNCE writes
TARGET and arms the slot (R421); MB_STATUS.CLR clears a mailbox's counts (R437). -/
def flagPageWrites : Prop :=
  ∀ (s : State) (m : MasterId) (c : ClusterId) (f : Byte) (v : Word) (slot : Fin 16) (box : Fin 8), ownMaster s m c →
    let k := s.clu c
    let t := k.counters.getD slot Counter.zero
    let b := k.box box
    exec (.flagWrite m c f v) s = .next (if v.toNat % 2 = 1 then setFlag c f.toNat s else clearFlag c f.toNat s) ∧
    exec (.cntAnnounce m c slot v) s =
      .next (settleWaits c (s.setClu c (k.setCounter slot { t with target := v.toNat, armed := true }).settleCounters)) ∧
    exec (.mbStatusClr m c box) s = .next (s.setClu c (k.setBox box { b with drops := 0, cecnt := 0, badwr := false }))

/-- A write to scratch stores its bytes and counts them in every valid slot whose window holds them, saturating (R420); a slot whose
COUNT has reached TARGET while armed sets the flag that it governs (R421). -/
def Obligations.ScratchCounting : Prop :=
  ∀ (s : State) (m : MasterId) (c : ClusterId) (off : BitVec 23) (data : List Byte), ownMaster s m c → Memory.wf s.mem = true →
    data ≠ [] → off.toNat + data.length ≤ 2 ^ 23 → (s.clu c).counters.length = 16 →
    let key := scratchKey (slotOf s c) + off.toNat
    let k := s.clu c
    ∃ t, exec (.scratchWriteCounted m c off data) s = .next t ∧
      (∀ i, i < data.length → memByte t.mem (key + i) = data.getD i 0) ∧ memSame s t [(key, data.length)] ∧
      (k.wait = none → noMops k → ∀ i, i < 16 →
        let x := k.counters.getD i Counter.zero
        let y := (t.clu c).counters.getD i Counter.zero
        let inside := min (off.toNat + data.length) (x.wlimit + 16) - max off.toNat x.wbase
        y.count = (if x.valid then min (x.count + inside) (2 ^ 32 - 1) else x.count) ∧ y.target = x.target ∧ y.valid = x.valid ∧
        y.armed = x.armed ∧ y.flag = x.flag ∧
        (x.valid = true → x.armed = true → x.target ≤ y.count → k.governor x.flag = some i → (t.clu c).flag x.flag = true))

/-- Mailboxes (R430 to R435): a push of 62 bits appends an item with kind 1 and sets the box's flag where it is enabled, or is counted as a drop where 64 items are held; the
high half is pushed with the latched low half. A pop answers with the oldest item and its kind, 0 where there is none, and a pending
gap takes the freed place. -/
def mailboxes : Prop :=
  ∀ (s : State) (m : MasterId) (c : ClusterId) (box : Fin 8) (v : BitVec 64) (w : Word), ownMaster s m c → s.upsets = [] →
    let k := s.clu c
    let b := k.box box
    let pushed := fun (x : Nat) => s.setClu c (k.setBox box { b with fifo.items := b.fifo.items ++ [(x % 2 ^ 62, 1)] })
    let dropped := s.setClu c (k.setBox box { b with
      fifo.gap := min (b.fifo.gap + 1) (2 ^ 32 - 1)
      drops := min (b.drops + 1) (2 ^ 32 - 1) })
    let gap : List (Nat × Nat) := if b.fifo.gap = 0 then [] else [(b.fifo.gap, 2)]
    let popped := fun (rest : List (Nat × Nat)) (lo : Nat) =>
      s.setClu c (k.setBox box { b with fifo := ⟨rest ++ gap, 0⟩, popLo := lo })
    (b.fifo.items.length < 64 → b.flagen = false →
      exec (.mbPushLo m c box true v) s = .next (pushed v.toNat) ∧
      exec (.mbPushHi m c box w) s = .next (pushed (b.pushLo + w.toNat * 2 ^ 32))) ∧
    (b.fifo.items.length < 64 → b.flagen = true → exec (.mbPushHi m c box w) s =
      .next (setFlag c b.flag (pushed (b.pushLo + w.toNat * 2 ^ 32)))) ∧
    (64 ≤ b.fifo.items.length →
      exec (.mbPushLo m c box true v) s = .next dropped ∧ exec (.mbPushHi m c box w) s = .next dropped) ∧
    (exec (.mbPushLo m c box false v) s = .next (s.setClu c (k.setBox box { b with pushLo := v.toNat % 2 ^ 32 }))) ∧
    (∀ x rest, b.fifo.items = x :: rest →
      exec (.mbPopLo m c box true) s =
        .next ((popped rest b.popLo).emit (.readData m.toNat (toBytes 8 (x.1 + x.2 * 2 ^ 62)))) ∧
      exec (.mbPopHi m c box) s =
        .next ((popped rest (x.1 % 2 ^ 32)).emit (.readData m.toNat (toBytes 4 (x.1 / 2 ^ 32 + x.2 * 2 ^ 30))))) ∧
    (b.fifo.items = [] →
      exec (.mbPopLo m c box true) s = .next ((s.setClu c (k.setBox box b)).emit (.readData m.toNat (toBytes 8 0))))

/-- Flag page writes; mailbox pushes, pops and gaps: `flagPageWrites`, `mailboxes`. -/
def Obligations.FlagPageAndMailboxes : Prop := flagPageWrites ∧ mailboxes

/-! Curtains. -/

/-- CARR (R198, R200, R303): an arrival of a member is held; the last one clears every arrival, advances GEN and sets the release flag
of each member in one cycle; an arrival of a cluster that is no member or has arrived is ignored and counted, and the first since the
last clear raises one event record. A line whose first arrival is TMO µs old reports the members that have not arrived, once for each
wait (R202). -/
def Obligations.CurtainArrivals : Prop :=
  ∀ (s : State) (c : ClusterId) (x : FlagForm) (l : LineId), s.wf = true → x.f8.toNat = l.val →
    let rdy := readyFor s c (encF 0x34 x) [] = true ∧ (s.clu c).stores = []
    let f := s.get F.CURT_CFG_FLAG l
    (rdy → curtMember s l c = true → curtArrived s l c = false →
      (∃ d, d < 80 ∧ d ≠ c.val ∧ curtMember s l d = true ∧ curtArrived s l d = false) →
      ∃ t, exec (.carr c x) s = .next t ∧ t.clu c = (s.clu c).advance ∧ curtArrived t l c = true ∧
        (∀ d, d < 80 → d ≠ c.val → curtArrived t l d = curtArrived s l d ∧ t.clu d = s.clu d) ∧
        t.get F.CURT_STATUS_GEN l = s.get F.CURT_STATUS_GEN l ∧ t.mem = s.mem) ∧
    (rdy → curtMember s l c = true → curtArrived s l c = false →
      (∀ d, d < 80 → d ≠ c.val → curtMember s l d = true → curtArrived s l d = true) →
      (∀ d, d < 80 → curtMember s l d = true → cluState s d = 5) →
      ∃ t, exec (.carr c x) s = .next t ∧ (∀ d, d < 80 → curtArrived t l d = false) ∧
        t.get F.CURT_STATUS_GEN l = (s.get F.CURT_STATUS_GEN l + 1) % 65536 ∧ t.mem = s.mem ∧
        (∀ d, d < 80 → curtMember s l d = true → (s.clu d).governor f = none → (s.clu d).flagWaits = [] → (t.clu d).flag f = true)) ∧
    (rdy → curtMember s l c = false ∨ curtArrived s l c = true →
      ∃ t, exec (.carr c x) s = .next t ∧ t.clu c = (s.clu c).advance ∧
        t.get F.CURT_CNT_BADARR_COUNT l = min (s.get F.CURT_CNT_BADARR_COUNT l + 1) (2 ^ F.CURT_CNT_BADARR_COUNT.width - 1) ∧
        (∀ d, d < 80 → curtArrived t l d = curtArrived s l d) ∧ t.get F.CURT_STATUS_GEN l = s.get F.CURT_STATUS_GEN l ∧
        (s.flag F.CURT_STATUS_FIRSTEV l = false → t.flag F.CURT_STATUS_FIRSTEV l = true ∧ t.eventSeq = s.eventSeq + 1) ∧
        (s.flag F.CURT_STATUS_FIRSTEV l = true → t.flag F.CURT_STATUS_FIRSTEV l = true ∧ t.eventSeq = s.eventSeq)) ∧
    (∃ t, exec (.curtClr l) s = .next t ∧ t.flag F.CURT_STATUS_FIRSTEV l = false) ∧
    (∀ t0 told, lookup s.tm.firstArrival l = some (t0, told) → s.get F.CURT_TMO_US l ≠ 0 → s.passedUs t0 (s.get F.CURT_TMO_US l) = true →
      let late := fun (j : Nat) => s.rd R.CURT_MEM l j - (s.rd R.CURT_MEM l j &&& s.rd R.CURT_ARR l j)
      (told = false → exec (.curtainTimeout l) s =
        .next ((({ s with tm.firstArrival := place s.tm.firstArrival l (t0, true) } : State).set F.CURT_STATUS_TIMEOUT 1 l).event 6 2 0 l
          [late 0, late 1, late 2])) ∧
      (told = true → exec (.curtainTimeout l) s = .next s))

/-! Rings and descriptors. -/

/-- Descriptor `d` stands at place `i` among those outstanding on ring `r`, is of kind `k`, holds no reserved bit, and may start
(R472, R476). -/
abbrev descReady (s : State) (r : RingId) (i : BitVec 8) (k : Nat) (d : Desc) : Prop :=
  s.desc (nthDesc s r i) = some d ∧ d.word 0 % 256 = k ∧ mayStartDesc s (nthDesc s r i) d = true ∧ badWord d = none

/-- The state with that descriptor started. -/
def begun (s : State) (r : RingId) (i : BitVec 8) (d : Desc) : State :=
  setDesc (nthDesc s r i) { d with started := true, since := s.ticks } s

/-- What a descriptor's completion does (R473, R478): it is no longer outstanding, its 32-byte record goes to the next place of the
completion queue, whose tail advances and whose phase turns at the end; a muted ring writes nothing (R467, R475). -/
def completionRecords : Prop :=
  ∀ (s : State) (cmd : CmdRef) (status reason detail : Nat) (result : List Nat) (d : Desc), s.desc cmd = some d → cmd.ring < 64 →
    let x := s.ring cmd.ring
    let t := complete cmd status reason detail result s
    let rec_ := completionBytes d x.head status reason detail result x.phase
    t.desc cmd = none ∧ t.regs = s.regs ∧ t.mem = s.mem ∧ t.clus = s.clus ∧
      (∀ e ∈ x.out, e.id ≠ cmd.id → e ∈ (t.ring cmd.ring).out) ∧
      (x.mute = true → t.out = s.out ∧ (t.ring cmd.ring).cqTail = x.cqTail) ∧
      (x.mute = false → rec_.length = 32 ∧ .hostWrite (cqBase s cmd.ring + 32 * x.cqTail) rec_ ∈ t.out ∧
        (t.ring cmd.ring).cqTail = (x.cqTail + 1) % cqSize s cmd.ring ∧
        ((x.cqTail + 1) % cqSize s cmd.ring = 0 → (t.ring cmd.ring).phase = !x.phase) ∧
        ((x.cqTail + 1) % cqSize s cmd.ring ≠ 0 → (t.ring cmd.ring).phase = x.phase))

/-- A descriptor with a reserved bit completes with BADDESC and the word's number; one of a reserved kind with BADDESC; NOP with OK
(R476 to R478). -/
def descriptorChecks : Prop :=
  ∀ (s : State) (r : RingId) (i : BitVec 8) (d : Desc) (w : Nat),
    let cmd := nthDesc s r i
    (descReady s r i 0 d → exec (.nop r i) s = .next (complete cmd 0 0 0 [] (begun s r i d))) ∧
    (s.desc cmd = some d → d.word 0 % 256 = 0x0E → mayStartDesc s cmd d = true → badWord d = some w →
      exec (.remap r i) s = .next (complete cmd 2 0 w [] (begun s r i d))) ∧
    (s.desc cmd = some d → kindMasks (d.word 0 % 256) = none → mayStartDesc s cmd d = true →
      exec (.reservedDescriptorKind r i) s = .next (complete cmd 2 0 0 [] s))

/-- Completion records and descriptor checks: `completionRecords`, `descriptorChecks`. -/
def Obligations.DescriptorsComplete : Prop := completionRecords ∧ descriptorChecks

/-! Cluster lifecycle. -/

/-- LOAD_PROGRAM (R277, R284): an EMPTY cluster is LOADING at once with the job of the descriptor; an OFF cluster loads after its
power-up of 2 µs; a cluster in another state than EMPTY, OFF, LOADED and HALTED gives STATE. -/
def programLoading : Prop :=
  ∀ (s : State) (r : RingId) (i : BitVec 8) (d : Desc) (c : ClusterId) (l : LoadSt), Regs.wf s.regs = true →
    let cmd := nthDesc s r i
    let job := fieldOf (d.word 1) 8 8
    let load : LoadSt := ⟨d.pair 2 % 2 ^ 48, job, (d.word 1).testBit 16, [], cmd⟩
    (descReady s r i 1 d → d.word 1 % 128 = c.val →
      (cluState s c = 1 → ∃ t, exec (.loadProgram r i) s = .next t ∧ cluState t c = 2 ∧ t.get F.CLU_STATUS_JOB c = job ∧
        (t.clu c).load = some load) ∧
      (cluState s c = 0 → (s.clu c).load = none → ∃ t, exec (.loadProgram r i) s = .next t ∧ cluState t c = 0 ∧
        (t.clu c).load = some load ∧ (t.clu c).since = s.ticks) ∧
      (cluState s c = 4 ∨ cluState s c = 8 → ∃ t, exec (.loadProgram r i) s = .next t ∧ cluState t c = 9 ∧
        (t.clu c).reload = some load) ∧
      (cluState s c = 2 ∨ cluState s c = 3 ∨ cluState s c = 5 →
        exec (.loadProgram r i) s = .next (complete cmd 1 0 0 [] (begun s r i d)))) ∧
    ((s.clu c).load = some l → cluState s c = 0 → s.passedUs (s.clu c).since 2 = true →
      ∃ t, exec (.clusterPowerUpDone c) s = .next t ∧ cluState t c = 2 ∧ t.get F.CLU_STATUS_JOB c = l.job % 256) ∧
    ((s.clu c).load = some l → s.passedUs (s.clu c).since 2 = false → exec (.clusterPowerUpDone c) s = .next s)

/-- The image and its rehearsal (R284, R286, R288): an image that has been read is kept and the cluster rehearses; a refused read ends
the load with ACCESS and the cluster is EMPTY; an image that passes is the LOADED program; one that fails is counted, its reason
shown, and the cluster cleared. -/
def imageAndRehearsal : Prop :=
  ∀ (s s1 s2 : State) (c : ClusterId) (l : LoadSt) (hdr img : List Byte) (cause code detail : Nat), (s.clu c).load = some l →
    Regs.wf s.regs = true → Regs.wf s1.regs = true → Regs.wf s2.regs = true →
    (cluState s c = 2 → memRead 0 l.addr 64 0 s = (.data hdr, s1) → memRead 0 l.addr (imageLength hdr) 0 s1 = (.data img, s2) →
      ∃ t, exec (.imageLoaded c) s = .next t ∧ cluState t c = 3 ∧ (t.clu c).load = some { l with image := img } ∧
        t.rd R.CLU_PROG_CRC c 0 = imgWord img 15 % 2 ^ 32) ∧
    (cluState s c = 2 → memRead 0 l.addr 64 0 s = (.refused cause, s1) →
      ∃ t, exec (.imageLoaded c) s = .next t ∧ cluState t c = 1 ∧ t.get F.CLU_STATUS_JOB c = 0 ∧ (t.clu c).load = none) ∧
    (cluState s c = 3 → rehearse s c l.job l.image = none →
      ∃ t, exec (.rehearsalDone c) s = .next t ∧ cluState t c = 4 ∧ (t.clu c).load = none ∧
        (t.clu c).prog = some ⟨l.addr, imgWord l.image 15, imgWord l.image 7 % 65536, imgMops l.image, imgWord l.image 6 % 128,
          imgWord l.image 10, l.retain, (List.range (imgNctx l.image)).map (imgCtx l.image)⟩ ∧ t.rd R.CLU_REH c 0 = 0) ∧
    (cluState s c = 3 → rehearse s c l.job l.image = some (code, detail) →
      ∃ t, exec (.rehearsalDone c) s = .next t ∧ cluState t c = 9 ∧ t.get F.CLU_REH_REASON c = code % 256 ∧
        t.get F.CLU_REH_DETAIL c = detail % 2 ^ 24)

/-- LOAD_PROGRAM, the image and its rehearsal: `programLoading`, `imageAndRehearsal`. -/
def Obligations.LoadingAndRehearsal : Prop := programLoading ∧ imageAndRehearsal

/-- START arms a LOADED cluster; when fabric time reaches its time the cluster RUNs with every prompter register 0, PC at the image's
entry, and its queues' sequence numbers at 0 (R289, R309, R313). END with nothing left in the queues and the stevedore makes it
LOADED again (R312). -/
def Obligations.StartAndEnd : Prop :=
  ∀ (s : State) (r : RingId) (i : BitVec 8) (d : Desc) (c : ClusterId) (t0 : Nat) (p : Prog), Regs.wf s.regs = true →
    let cmd := nthDesc s r i
    (descReady s r i 2 d → d.word 1 % 128 = c.val → cluState s c = 4 → (s.clu c).startCmd = none →
      ∃ t, exec (.start r i) s = .next t ∧ (t.clu c).startAt = some (d.pair 2) ∧ (t.clu c).startCmd = some cmd ∧ t.regs = s.regs) ∧
    (descReady s r i 2 d → d.word 1 % 128 = c.val → cluState s c ≠ 4 →
      exec (.start r i) s = .next (complete cmd 1 0 0 [] (begun s r i d))) ∧
    ((s.clu c).startAt = some t0 → (s.clu c).prog = some p → cluState s c = 4 → t0 ≤ s.fabTime / 65536 →
      ∃ t, exec (.startTimeReached c) s = .next t ∧ cluState t c = 5 ∧ (t.clu c).pc = p.entry ∧
        (∀ g : GReg, (t.clu c).reg g = 0) ∧ (t.clu c).loop0.active = false ∧ (t.clu c).loop1.active = false ∧ (t.clu c).mopcnt = 0 ∧
        (∀ q ∈ (t.clu c).queues, q.seq = 0 ∧ q.retired = 0) ∧ (t.clu c).startedNs = s.fabTime / 65536) ∧
    ((s.clu c).startAt = some t0 → s.fabTime / 65536 < t0 → exec (.startTimeReached c) s = .next s) ∧
    (cluState s c = 5 → (s.clu c).ended = true → (s.clu c).drained = true →
      ∃ t, exec (.programEnd c) s = .next t ∧ cluState t c = 4 ∧ (t.clu c).ended = false ∧ (t.clu c).startCmd = none) ∧
    (cluState s c = 5 → (s.clu c).ended = false → exec (.programEnd c) s = .next s)

/-- Halt, resume and STOP (R280, R282, R290): HALT makes a RUNNING, DOZE or RETAIN cluster HALTED with cause STOP; RESUME after STOP or
DEBUG makes it RUNNING, and is rejected otherwise; STOP with CLEAR or OFF clears the cluster, whose queues keep the macro-ops that run,
without either it halts it. -/
def haltResumeStop : Prop :=
  ∀ (s : State) (m : MasterId) (r : RingId) (i : BitVec 8) (d : Desc) (c : ClusterId), Regs.wf s.regs = true →
    (cluState s c = 5 ∨ cluState s c = 6 ∨ cluState s c = 7 →
      ∃ t, exec (.halt c) s = .next t ∧ cluState t c = 8 ∧ t.get F.CLU_STATUS_HALTCAUSE c = 1 ∧ (t.clu c).startCmd = none) ∧
    (cluState s c < 5 → exec (.halt c) s = .next s) ∧
    (cluState s c = 8 → s.get F.CLU_STATUS_HALTCAUSE c = 1 ∨ s.get F.CLU_STATUS_HALTCAUSE c = 5 →
      ∃ t, exec (.resume m c) s = .next t ∧ cluState t c = 5 ∧ (t.clu c).regs = (s.clu c).regs) ∧
    (cluState s c ≠ 8 ∨ s.get F.CLU_STATUS_HALTCAUSE c = 2 ∨ s.get F.CLU_STATUS_HALTCAUSE c = 3 ∨ s.get F.CLU_STATUS_HALTCAUSE c = 4 →
      exec (.resume m c) s = .next (s.reject m.toNat (R.CLU_CTL.addr c 0))) ∧
    (descReady s r i 3 d → d.word 1 % 128 = c.val → cluState s c = 5 → (d.word 1).testBit 8 = false → (d.word 1).testBit 9 = false →
      ∃ t, exec (.stop r i) s = .next t ∧ cluState t c = 8 ∧ t.get F.CLU_STATUS_HALTCAUSE c = 1) ∧
    (descReady s r i 3 d → d.word 1 % 128 = c.val → cluState s c = 5 ∨ cluState s c = 8 → (d.word 1).testBit 8 = true →
      ∃ t, exec (.stop r i) s = .next t ∧ cluState t c = 9 ∧ (t.clu c).toOff = (d.word 1).testBit 9 ∧
        ∀ q ∈ (t.clu c).queues, ∀ x ∈ q.mops, ∃ n, x.phase = .running n)

/-- CLEARING ends once every macro-op that runs has completed and every issued segment has been answered (R290): scratch and private memories read 0, the cluster has no job and no
program, and is EMPTY, or OFF where STOP asked for it. Stated where nothing waits for the end. -/
def clearingEnds : Prop :=
  ∀ (s : State) (c : ClusterId), s.wf = true → cluState s c = 9 → (s.clu c).quiet = true → s.held = [] →
    (s.clu c).late = [] → (s.clu c).stops = [] → (s.clu c).reload = none →
    (∀ p ∈ s.pools, p.words = [] ∧ p.waiting = [] ∧ p.granted = []) →
    ∃ t, exec (.clearingDone c) s = .next t ∧ cluState t c = (if (s.clu c).toOff then 0 else 1) ∧ t.get F.CLU_STATUS_JOB c = 0 ∧
      t.get F.CLU_STATUS_HALTCAUSE c = 0 ∧ (t.clu c).prog = none ∧ (t.clu c).flags = 0 ∧
      (∀ o, o < 0x800000 → memByte t.mem (scratchKey (slotOf s c) + o) = 0) ∧
      (∀ o, o < 0x100000 → memByte t.mem (privateKey (slotOf s c) + o) = 0) ∧
      memSame s t [(scratchKey (slotOf s c), 0x800000), (privateKey (slotOf s c), 0x100000)]

/-- HALT, RESUME, STOP and the end of CLEARING: `haltResumeStop`, `clearingEnds`. -/
def Obligations.HaltStopAndClear : Prop := haltResumeStop ∧ clearingEnds

/-- Sleep and wake (R278, R279): a RUNNING cluster idle for DOZEDLY stage cycles dozes; RETDLY µs later it retains, unless NORET is set, and is counted; a wake
event makes it RUNNING and is counted; an engine's entry due within 400 ns wakes its retained cluster, one due within 8 stage cycles
its dozing one (R196). -/
def sleepAndWake : Prop :=
  ∀ (s : State) (c : ClusterId) (e : EngineId), Regs.wf s.regs = true →
    (cluState s c = 5 → (s.clu c).idle = true → max 1 (s.get F.CLU_SLEEP_DOZEDLY c) ≤ idleCycles s c → ∃ t, exec (.dozeEntry c) s = .next t ∧ cluState t c = 6 ∧ (t.clu c).since = s.ticks) ∧
    ((s.clu c).idle = false ∨ idleCycles s c < s.get F.CLU_SLEEP_DOZEDLY c → exec (.dozeEntry c) s = .next s) ∧
    (cluState s c = 6 → s.get F.CLU_SLEEP_NORET c = 0 → s.passedUs (s.clu c).since (s.get F.CLU_SLEEP_RETDLY c) = true →
      ∃ t, exec (.retainEntry c) s = .next t ∧ cluState t c = 7 ∧
        t.get F.CLU_CNT_RETAIN_COUNT c = min (s.get F.CLU_CNT_RETAIN_COUNT c + 1) (2 ^ 32 - 1)) ∧
    (s.get F.CLU_SLEEP_NORET c = 1 → exec (.retainEntry c) s = .next s) ∧
    (cluState s c = 6 ∨ cluState s c = 7 → ∃ t, exec (.clusterWake c) s = .next t ∧ cluState t c = 5 ∧
      t.get F.CLU_CNT_WAKE_COUNT c = min (s.get F.CLU_CNT_WAKE_COUNT c + 1) (2 ^ 32 - 1)) ∧
    (cluState s c = 5 → exec (.clusterWake c) s = .next s) ∧
    (e.val = c.val → cluState s c = 6 ∨ cluState s c = 7 → (s.cue e).broken = false → s.flag F.CUE_CTL_EN e = true → cueHas s e (s.cue e).idx = true →
      cueTime s e (s.cue e).idx (s.cue e).rep ≤
        s.nowNs + (if cluState s c = 7 then 400 else ceilDiv 8000 (curMhz s (dieOf c))) →
      ∃ t, exec (.cueEarlyWake e) s = .next t ∧ cluState t c = 5)

/-- The wait watchdog (R427, R428): a wait whose timeout in fabric time has passed halts the cluster with cause WATCHDOG and leaves a record that
names the source and the flag or queue; one that has not passed changes nothing. -/
def waitWatchdog : Prop :=
  ∀ (s : State) (c : ClusterId) (f us since q n : Nat) (clear : Bool), Regs.wf s.regs = true → cluState s c = 5 →
    ((s.clu c).wait = some (.flag f clear us since) → s.passedFab since us = true →
      ∃ t, exec (.waitTimeout c) s = .next t ∧ cluState t c = 8 ∧ t.get F.CLU_STATUS_HALTCAUSE c = 3 ∧
        (t.clu c).wdog.head? = some (BitVec.ofNat 32 (1 + f * 256)) ∧ (t.clu c).pc = (s.clu c).pc) ∧
    ((s.clu c).wait = some (.ticket q n us since) → s.passedFab since us = true →
      ∃ t, exec (.waitTimeout c) s = .next t ∧ cluState t c = 8 ∧ t.get F.CLU_STATUS_HALTCAUSE c = 3 ∧
        (t.clu c).wdog.head? = some (BitVec.ofNat 32 (3 + q * 256))) ∧
    ((s.clu c).wait = some (.flag f clear us since) → s.passedFab since us = false → noMops (s.clu c) →
      exec (.waitTimeout c) s = .next s)

/-- Doze, retain and wake, and the wait watchdog: `sleepAndWake`, `waitWatchdog`. -/
def Obligations.SleepAndWatchdog : Prop := sleepAndWake ∧ waitWatchdog

/-! Macro-ops. -/

/-- The rows that start a macro-op: family, SUB, cluster, queue, and what each does to the state with its macro-op running. -/
def mopRow (i : Instr) : Option (Nat × Nat × ClusterId × Nat × (Nat → Nat → Mop → State → MRes Unit)) :=
  match i with
  | .loadw c => some (0x01, 0, c, 0, runLoadw)
  | .stream c once again => some (0x02, 0, c, 0, runStream (once.map BitVec.toNat) (again.map BitVec.toNat))
  | .vecAdd c => some (0x08, 0, c, 1, runVec 0)
  | .vecSub c => some (0x08, 1, c, 1, runVec 1)
  | .vecMul c => some (0x08, 2, c, 1, runVec 2)
  | .vecFma c => some (0x08, 3, c, 1, runVec 3)
  | .vecMax c => some (0x08, 4, c, 1, runVec 4)
  | .vecMin c => some (0x08, 5, c, 1, runVec 5)
  | .vecAdds c => some (0x08, 6, c, 1, runVec 6)
  | .vecMuls c => some (0x08, 7, c, 1, runVec 7)
  | .vecAbs c => some (0x08, 8, c, 1, runVec 8)
  | .vecNeg c => some (0x08, 9, c, 1, runVec 9)
  | .vecRelu c => some (0x08, 10, c, 1, runVec 10)
  | .vecExp c => some (0x08, 11, c, 1, runVec 11)
  | .vecRecip c => some (0x08, 12, c, 1, runVec 12)
  | .vecRsqrt c => some (0x08, 13, c, 1, runVec 13)
  | .vecAnd c => some (0x08, 16, c, 1, runVec 16)
  | .vecOr c => some (0x08, 17, c, 1, runVec 17)
  | .vecXor c => some (0x08, 18, c, 1, runVec 18)
  | .reduceSum c => some (0x09, 0, c, 1, runReduce 0)
  | .reduceMax c => some (0x09, 1, c, 1, runReduce 1)
  | .reduceMin c => some (0x09, 2, c, 1, runReduce 2)
  | .reduceSumsq c => some (0x09, 3, c, 1, runReduce 3)
  | .convert c => some (0x0A, 0, c, 1, runConvert)
  | .combine c => some (0x0B, 0, c, 1, runCombine)
  | .gather c => some (0x10, 0, c, 2, runGather)
  | .sendPut c => some (0x11, 0, c, 2, runSendPut)
  | .sendContrib c => some (0x11, 1, c, 2, runSendContrib)
  | .recv c => some (0x12, 0, c, 2, runRecv)
  | .sort c => some (0x18, 0, c, 3, runSort)
  | .topk c => some (0x19, 0, c, 3, runTopk)
  | .filter c => some (0x1A, 0, c, 3, runFilter)
  | .compress c => some (0x1B, 0, c, 3, runCompress)
  | .scatteraddAdd c => some (0x1C, 0, c, 3, runAdd)
  | .scatteraddIntoRows c => some (0x1C, 1, c, 3, fun c _ m s =>
      eachRep m (fun k s => MRes.each (List.range (opdOf m.copy 0).rows) (intoRow c m k) s) s)
  | .scatteraddMerge c => some (0x1C, 2, c, 3, runMerge)
  | .scatteraddDrain c => some (0x1C, 3, c, 3, fun c _ m s => eachRep m (drainRep c m) s)
  | .route c => some (0x1D, 0, c, 3, runRoute)
  | .mopWaitf c q => some (0x20, 0, c, q, runWaitf)
  | .setfSet c q => some (0x21, 0, c, q, fun c _ => setfEach fun m => setFlag c (setfFlag m))
  | .setfClear c q => some (0x21, 1, c, q, fun c _ => setfEach fun m => clearFlag c (setfFlag m))
  | .setfRemote c q => some (0x21, 2, c, q, runSetfRemote)
  | .setfCarr c q => some (0x21, 3, c, q, fun c _ => setfEach fun m => curtArrive (setfFlag m % 32) c)
  | .cueStart c q => some (0x22, 0, c, q, runCueStart)
  | .cueTime c q => some (0x22, 1, c, q, runWaitf)
  | _ => none

/-- Macro-op `m` stands at the head of queue `q` of a RUNNING cluster, has not started, its word is of family `fam` and SUB `sub` and
belongs to the queue, its unit is free (R272), no error stands in its slot or is about to fail the cluster, and its job's seed and step
have not changed within the last 100 ns (R391). -/
abbrev mopDue (s : State) (c : ClusterId) (q : Nat) (m : Mop) (fam sub : Nat) : Prop :=
  let w := mopWord s c m.slot
  cluState s c = 5 ∧ locked s (dieOf c) = true ∧ failing s c = false ∧ mopBad s c m.slot = false ∧
    ((s.clu c).queues.getD q IssueQ.empty).head = some m ∧ m.phase = .queued ∧
    m.copy = [] ∧ mopFamily w = fam ∧ mopSub w = sub ∧ mopQueue w = q ∧ unitFree s c q (mopCopy w m.params) = true ∧
    (s.job (cluJob s c)).past = []

/-- That macro-op as it runs: its copy is the slot's word with the parameters applied (R322), its seed and step those of the job
(R390). -/
def mopRunning (s : State) (c : ClusterId) (m : Mop) (fam : Nat) : Mop :=
  let copy := mopCopy (mopWord s c m.slot) m.params
  let j := s.job (cluJob s c)
  { m with
    copy := copy
    seed := j.seed
    step := j.step
    phase := .running s.ticks
    order := (s.clu c).started
    left := fam == 0x02 || (0x10 ≤ fam && fam ≤ 0x12)
    low := fam == 0x02 && takesLow s c copy }

/-- The state in which it runs. -/
def mopBegun (s : State) (c : ClusterId) (q : Nat) (m : Mop) (fam : Nat) : State :=
  let k := { s.clu c with started := (s.clu c).started + 1 }
  s.setClu c (k.mapMop q m.seq fun _ => mopRunning s c m fam)

/-- The copy passes the checks of R338 and R339. -/
abbrev mopGood (s : State) (c : ClusterId) (w : List Word) : Prop :=
  mopOk w (((s.clu c).prog.map Prog.minwidth).getD 0) 0x800000 = true

/-- Every macro-op row starts the macro-op at the head of its queue. One of zero repetitions does no work (R323); one whose copy fails
the checks of R338 and R339 ends with FORMAT (R341); any other does its family's work, and what comes of it, its status and the bytes it
counted, is the macro-op's. A row whose queue is empty changes nothing. -/
def Obligations.MacroOpsStart : Prop :=
  ∀ (s : State) (i : Instr) (fam sub : Nat) (c : ClusterId) (q : Nat) (run : Nat → Nat → Mop → State → MRes Unit) (m : Mop),
    mopRow i = some (fam, sub, c, q, run) →
    let m' := mopRunning s c m fam
    let t := mopBegun s c q m fam
    (((s.clu c).queues.getD q IssueQ.empty).head = none → exec i s = .next s) ∧
    (mopDue s c q m fam sub →
      (mopRepeat m'.copy = 0 → exec i s = .next t) ∧
      (mopRepeat m'.copy ≠ 0 → ¬mopGood s c m'.copy → exec i s = .next (t.setClu c ((t.clu c).mapMop q m.seq (Mop.fail 1)))) ∧
      (mopRepeat m'.copy ≠ 0 → mopGood s c m'.copy → exec i s = .next (mopOutcome c q m.seq (t.clu c) (run c q m' t) s)))

/-- A macro-op that starts and does the work of its one repetition, where no word of the memory has been upset. -/
abbrev mopReady (s : State) (c : ClusterId) (q : Nat) (m : Mop) (fam sub : Nat) : Prop :=
  mopDue s c q m fam sub ∧ mopRepeat (mopRunning s c m fam).copy = 1 ∧ mopGood s c (mopRunning s c m fam).copy ∧ s.upsets = [] ∧
    Memory.wf s.mem = true

/-- A LOCAL dense operand each of whose rows lies in one 4 KiB segment of the cluster's scratch. -/
abbrev inScratch (o : Opd) : Prop :=
  o.loc = true ∧ o.idx = false ∧ o.bitmap = false ∧ o.cols ≠ 0 ∧ ∀ r, r < o.rows →
    (o.base + r * o.pitch) % 4096 + rowBytes o.fmt o.cols ≤ 4096 ∧ o.base + r * o.pitch + rowBytes o.fmt o.cols ≤ 0x800000

/-- The bytes of row `r` of such an operand. -/
def rowOf (s : State) (c : ClusterId) (o : Opd) (r : Nat) : List Byte := scratchRead s c (o.base + r * o.pitch) (rowBytes o.fmt o.cols)

/-- The memory after writes to the cluster's scratch, one after another, each at an offset. -/
def storedIn (s : State) (c : ClusterId) (ws : List (Nat × List Byte)) : List Host.Cell :=
  (ws.foldl (fun t w => t.memWrite (scratchKey (slotOf s c) + w.1) w.2) s).mem

/-- The macro-op has done its work without an error: memory holds these writes to the scratch and is otherwise as it was. -/
abbrev didWork (s t : State) (c : ClusterId) (q : Nat) (m : Mop) (ws : List (Nat × List Byte)) : Prop :=
  t.mem = storedIn s c ws ∧ ∃ x, (t.clu c).mopOf q m.seq = some x ∧ x.status = m.status ∧ x.blocked = false ∧ x.phase = .running s.ticks

/-- The vector rows, with their SUB. -/
def vectorRows (c : ClusterId) : List (Instr × Nat) :=
  [(.vecAdd c, 0), (.vecSub c, 1), (.vecMul c, 2), (.vecFma c, 3), (.vecMax c, 4), (.vecMin c, 5), (.vecAdds c, 6), (.vecMuls c, 7),
    (.vecAbs c, 8), (.vecNeg c, 9), (.vecRelu c, 10), (.vecExp c, 11), (.vecRecip c, 12), (.vecRsqrt c, 13), (.vecAnd c, 16),
    (.vecOr c, 17), (.vecXor c, 18)]

/-- A VEC of one row with its operands in the cluster's scratch (R328) completes its work: row C holds the operation on each element of
rows A and B, with the scalar in FSPEC and, for FMA, the former C as addend, in C's format; no other byte of memory changes. -/
def vectorRow : Prop :=
  ∀ (s : State) (c : ClusterId) (i : Instr) (sub : Nat) (m : Mop), (i, sub) ∈ vectorRows c → mopReady s c 1 m 0x08 sub →
    let m' := mopRunning s c m 0x08
    let a := opdOf m'.copy 0
    let b := opdOf m'.copy 1
    let o := opdOf m'.copy 2
    a.rows = 1 → inScratch a → inScratch o → (vecTwo sub = true → inScratch b) →
    let xs := rowVec a (rowOf s c a 0)
    let ys := rowVec b (if vecTwo sub then rowOf s c b 0 else [])
    let zs := rowVec o (if sub = 3 then rowOf s c o 0 else [])
    let out := vecRow c m' o 0 (xs.zipIdx.map fun (x, i) => vecElement sub a.fmt (mopFspec m'.copy) x (ys.getD i 0) (zs.getD i 0))
    ∃ t, exec i s = .next t ∧ didWork s t c 1 m [(o.base, out)] ∧ t.regs = s.regs

/-- REDUCE, CONVERT and COMBINE of one row with their operands in the cluster's scratch complete their work (R329, R333): REDUCE writes
the tree over the row, or over each column; CONVERT the row in B's format; COMBINE the weighted sum of the rows of A that the kept
records of its token name in the block, added to row B where FSPEC says so. No other byte of memory changes. -/
def vectorReductions : Prop :=
  ∀ (s : State) (c : ClusterId) (i : Instr) (sub : Nat) (m : Mop),
    ((i, sub) ∈ [(Instr.reduceSum c, 0), (.reduceMax c, 1), (.reduceMin c, 2), (.reduceSumsq c, 3)] → mopReady s c 1 m 0x09 sub →
      let m' := mopRunning s c m 0x09
      let a := opdOf m'.copy 0
      let b := opdOf m'.copy 1
      let xs := rowVec a (rowOf s c a 0)
      a.rows = 1 → inScratch a → inScratch b → ∃ t, exec i s = .next t ∧ t.regs = s.regs ∧ didWork s t c 1 m
        [(b.base, vecRow c m' b 0 (if (mopFspec m'.copy).testBit 0 then [reduceTree sub a.fmt xs] else xs.map fun x => reduceTree sub a.fmt [x]))]) ∧
    (mopReady s c 1 m 0x0A 0 →
      let m' := mopRunning s c m 0x0A
      let a := opdOf m'.copy 0
      let b := opdOf m'.copy 1
      a.rows = 1 → inScratch a → inScratch b → ∃ t, exec (.convert c) s = .next t ∧ t.regs = s.regs ∧
        didWork s t c 1 m [(b.base, mopConvert c m' a.fmt b.fmt a.cols 0 (rowOf s c a 0))]) ∧
    (mopReady s c 1 m 0x0B 0 →
      let m' := mopRunning s c m 0x0B
      let a := opdOf m'.copy 0
      let b := opdOf m'.copy 1
      let o := opdOf m'.copy 2
      let word := fun (n : Nat) => ofBytes (scratchRead s c (o.base + n) 4)
      let e := word 0
      let cap := word 4
      let kk := choices m' e
      let kept := keptRecords ((List.range kk).map fun n => (word (recordBase e + 8 * n), word (recordBase e + 8 * n + 4)))
      let start := if (mopFspec m'.copy).testBit 0 then rowFp32 b (rowOf s c b 0) else List.replicate b.cols 0
      b.rows = 1 → o.rows = 1 → inScratch a → inScratch b → inScratch o → 64 ≤ o.cols →
      1 ≤ e → e ≤ 4095 → 1 ≤ cap → cap ≤ 1048575 → (∀ n, n < 16 → 2 ≤ n → word (4 * n) = 0) → 1 ≤ kk → kk ≤ 8 →
      (∀ r ∈ kept, r.1 * cap + r.2.1 < a.rows) →
      ∃ t, exec (.combine c) s = .next t ∧ t.regs = s.regs ∧ didWork s t c 1 m [(b.base, vecRow c m' b 0
        (kept.foldl (fun acc r => combineTerm acc (rowFp32 a (rowOf s c a (r.1 * cap + r.2.1))) r.2.2) start))])

/-- LOADW and STREAM (R346, R348, R349, R352): a LOADW from the scratch fills the buffer that is not ACTIVE with its panel, zeros of an
N:M pattern masked; a STREAM of one row, in whose intervals nothing mismatches, takes the NEXT panel, or else the ACTIVE one again, and
writes the row's product with it, plus the addend where FSPEC says so, in B's format. -/
def arrayMops : Prop :=
  ∀ (s : State) (c : ClusterId) (m : Mop),
    (mopReady s c 0 m 0x01 0 →
      let m' := mopRunning s c m 0x01
      let a := opdOf m'.copy 0
      let fs := mopFspec m'.copy
      let rows := (List.range a.rows).map fun r => (maskRow (fs / 2 % 4) (rowNums a.fmt a.cols (rowOf s c a r))).1
      let w := if fs.testBit 0 then (List.range a.cols).map fun j => rows.map fun r => r.getD j none else rows
      inScratch a → fs / 2 % 4 = 0 ∨ mopStrict m'.copy = false →
      ∃ t, exec (.loadw c) s = .next t ∧ (t.clu c).filling = some ⟨w, m'.copy, (s.clu c).started⟩ ∧
        (t.clu c).active = (s.clu c).active ∧ (t.clu c).next = (if (s.clu c).active.isSome then none else (s.clu c).next)) ∧
    (mopReady s c 0 m 0x02 0 →
      let m' := mopRunning s c m 0x02
      let a := opdOf m'.copy 0
      let b := opdOf m'.copy 1
      let x := opdOf m'.copy 2
      let acc := (mopFspec m'.copy).testBit 2
      a.rows = 1 → inScratch a → inScratch b → (acc = true → inScratch x ∧ x.rows = b.rows ∧ x.cols = b.cols) → m.panel = none →
      ∀ p, ((s.clu c).next <|> (s.clu c).active) = some p → a.cols = p.w.length → b.cols = p.width →
        let row := rowNums a.fmt a.cols (rowOf s c a 0)
        let add := fun (n : Nat) => if acc then some ((rowCodes fFP32 b.cols (rowOf s c x 0)).getD n 0) else none
        let out := (List.range b.cols).map fun n =>
          let v := streamElement row (p.column n) (add n)
          if b.fmt = fFP32 then v else roundNum b.fmt (mopRmode m'.copy) (mopDraw c m' n) (decodeFlt fFP32 v)
        ∃ t, exec (.stream c [] none) s = .next t ∧ didWork s t c 0 m [(b.base, codeBytes b.fmt out)] ∧ (t.clu c).active = some p ∧
          (t.clu c).next = none ∧ (t.clu c).recov = (s.clu c).recov)

/-- The transfer and the packet that a MOVE macro-op starts: `n` parts in one request, the header and the payload, which the stevedore's
injector holds. -/
abbrev sentOne (s t : State) (c : ClusterId) (m : Mop) (q dst kind : Nat) (h : Header) (payload : List Byte) : Prop :=
  (∃ n, (t.clu c).xfers = (s.clu c).xfers ++ [⟨(s.clu c).nextXfer, q, m.seq, dst, kind, [⟨0, 0, n, s.ticks⟩], []⟩]) ∧
    t.net.injq = place s.net.injq (0x060 + c.val) (((lookup s.net.injq (0x060 + c.val)).getD []) ++
      [⟨(s.clu c).nextXfer, h, payload, cluJob s c, false, false, false, none, none⟩])

/-- GATHER, SEND and RECV of one row in the scratch (R324, R330, R331). A GATHER writes row A, or the row that the index names, in B's
format. A SEND SUB 0 starts a PUT with A's row in B's format for B's address; a SEND SUB 1 a CONTRIB to its context with the 16 bytes of
its rank before them, and a barrier's with those alone; a RECV a GET that asks for A's bytes for B. -/
def moveMops : Prop :=
  ∀ (s : State) (c : ClusterId) (m : Mop),
    (mopReady s c 2 m 0x10 0 →
      let m' := mopRunning s c m 0x10
      let a := opdOf m'.copy 0
      let b := opdOf m'.copy 1
      let x := opdOf m'.copy 2
      let done := fun (t : State) (r : Nat) => exec (.gather c) s = .next t ∧
        didWork s t c 2 m [(b.base, mopConvert c m' a.fmt b.fmt a.cols 0 (rowOf s c a r))] ∧
        (t.clu c).xfers = (s.clu c).xfers ++ [⟨(s.clu c).nextXfer, 2, m.seq, 0, 3, [], []⟩]
      b.rows = 1 → a.cols = b.cols → inScratch b →
      (inScratch a → ∃ t, done t 0) ∧
      (a.idx = true → inScratch { a with idx := false } → inScratch x → ∀ r : Nat, intOf x.fmt (ofBytes (rowOf s c x 0)) = (r : Int) →
        r < a.rows → ∃ t, done t r)) ∧
    (mopReady s c 2 m 0x11 0 →
      let m' := mopRunning s c m 0x11
      let a := opdOf m'.copy 0
      let b := opdOf m'.copy 1
      let n := rowBytes b.fmt b.cols
      a.rows = 1 → b.rows = 1 → a.cols = b.cols → inScratch a → n ≤ 4096 → b.base + n ≤ 2 ^ 48 →
      ∃ t, exec (.sendPut c) s = .next t ∧ didWork s t c 2 m [] ∧ sentOne s t c m 2 (specDst m') 0
        (moveHeader c m' (specDst m') (specClass m') 1 (specOrd m') b.base 0 n s) (mopConvert c m' a.fmt b.fmt a.cols 0 (rowOf s c a 0))) ∧
    (mopReady s c 2 m 0x11 1 →
      let m' := mopRunning s c m 0x11
      let a := opdOf m'.copy 0
      let b := opdOf m'.copy 1
      let x := mopFspec m'.copy % 2 ^ 12
      let step := mopFspec m'.copy / 2 ^ 12 % 2 ^ 16
      let g := s.coll x
      let fmt := typeFmt g.hdr.type
      let n := rowBytes fmt a.cols
      let chunk := if g.express then 2 ^ 48 else g.hdr.dchunk false
      let st := collState s x
      a.rows = 1 → inScratch a → st ≠ 0 → st ≠ 1 → st ≠ 6 → pairListed a.fmt fmt = true → b.base % g.hdr.esize = 0 →
      ∀ rank, clusterRank g c = some rank →
        (g.hdr.oper = opBarrier → ∃ t, exec (.sendContrib c) s = .next t ∧ didWork s t c 2 m [] ∧ sentOne s t c m 2 x 2
          (sendHeader c m' x step g.contribClass 0 0 16 s) (contribHeader g.hdr rank)) ∧
        (g.hdr.oper ≠ opBarrier → n % g.hdr.esize = 0 → n ≤ (if g.express then 240 else 4080) → b.base + n ≤ 2 ^ 48 →
          b.base / chunk = (b.base + n - 1) / chunk → ∃ t, exec (.sendContrib c) s = .next t ∧ didWork s t c 2 m [] ∧
          sentOne s t c m 2 x 2 (sendHeader c m' x step g.contribClass b.base 0 (16 + n) s)
            (contribHeader g.hdr rank ++ mopConvert c m' a.fmt fmt a.cols 0 (rowOf s c a 0)))) ∧
    (mopReady s c 2 m 0x12 0 →
      let m' := mopRunning s c m 0x12
      let a := opdOf m'.copy 0
      let b := opdOf m'.copy 1
      let n := rowBytes a.fmt a.cols
      a.rows = 1 → b.rows = 1 → inScratch b → n ≤ 4096 → a.base + n ≤ 2 ^ 48 →
      ∃ t, exec (.recv c) s = .next t ∧ didWork s t c 2 m [] ∧ sentOne s t c m 2 (specDst m') 1
        (moveHeader c m' (specDst m') (specClass m') 2 (specOrd m') a.base 0 8 s)
        (toBytes 8 (0x040000000000 + c.val * 0x1000000 + b.base + n * 2 ^ 48)))

/-- Results of the array and move macro-ops: `arrayMops`, `moveMops`. -/
def Obligations.ArrayAndMove : Prop := arrayMops ∧ moveMops

/-- SORT, TOPK, FILTER and COMPRESS in the scratch (R394, R398, R403 to R405): SORT writes the rows in the stable order of their keys, the
working rows as zeros and, where FSPEC says so, their former numbers; TOPK of one row its best elements and their positions; FILTER the
rows whose key holds against the threshold, and their number; COMPRESS of one row its bitmap form and the bytes of that. -/
def sortMops : Prop :=
  ∀ (s : State) (c : ClusterId) (m : Mop),
    let out := fun (o : Opd) (first : Nat) (rows : List (List Byte)) => rows.zipIdx.map fun x => (o.base + (first + x.2) * o.pitch, x.1)
    (mopReady s c 3 m 0x18 0 →
      let m' := mopRunning s c m 0x18
      let a := opdOf m'.copy 0
      let b := opdOf m'.copy 1
      let o := opdOf m'.copy 2
      let fs := mopFspec m'.copy
      let rows := (List.range a.rows).map (rowOf s c a)
      let sorted := stableSort (fs.testBit 8) (rows.zipIdx.map fun x => (recordKey a (fs % 256) x.1, x))
      inScratch a → inScratch b → (fs.testBit 9 = true → inScratch o) → ∃ t, exec (.sort c) s = .next t ∧ t.regs = s.regs ∧
        didWork s t c 3 m (out b 0 (sorted.map fun x => x.2.1) ++ out b a.rows (List.replicate a.rows (List.replicate (rowBytes b.fmt b.cols) 0)) ++
          (if fs.testBit 9 then out o 0 (sorted.map fun x => toBytes 4 x.2.2) else []))) ∧
    (mopReady s c 3 m 0x19 0 →
      let m' := mopRunning s c m 0x19
      let a := opdOf m'.copy 0
      let b := opdOf m'.copy 1
      let o := opdOf m'.copy 2
      let fs := mopFspec m'.copy
      let least := fs.testBit 16
      let codes := rowCodes a.fmt a.cols (rowOf s c a 0)
      let top := (stableSort (!least) (codes.zipIdx.map fun x => (topRank a.fmt x.1 least (fs.testBit 17), x))).take (fs % 65536)
      a.rows = 1 → inScratch a → inScratch b → inScratch o → ∃ t, exec (.topk c) s = .next t ∧ t.regs = s.regs ∧
        didWork s t c 3 m [(b.base, codeBytes a.fmt (top.map fun x => x.2.1)), (o.base, codeBytes fINT32 (top.map fun x => x.2.2))]) ∧
    (mopReady s c 3 m 0x1A 0 →
      let m' := mopRunning s c m 0x1A
      let a := opdOf m'.copy 0
      let b := opdOf m'.copy 1
      let o := opdOf m'.copy 2
      let fs := mopFspec m'.copy
      let limit := thresholdKey a.fmt (ofBytes (scratchRead s c o.base 4))
      let kept := ((List.range a.rows).map (rowOf s c a)).filter fun bs =>
        filterHolds (fs / 2 ^ 8 % 8) (filterKey a.fmt ((rowCodes a.fmt a.cols bs).getD (fs % 256) 0)) limit
      inScratch a → inScratch b → inScratch o → ∃ t, exec (.filter c) s = .next t ∧ t.regs = s.regs ∧
        didWork s t c 3 m (out b 0 kept ++ [(o.base + 4, toBytes 4 kept.length)])) ∧
    (mopReady s c 3 m 0x1B 0 →
      let m' := mopRunning s c m 0x1B
      let a := opdOf m'.copy 0
      let b := opdOf m'.copy 1
      let o := opdOf m'.copy 2
      let row := bitmapRow a.fmt (rowCodes a.fmt a.cols (rowOf s c a 0))
      a.rows = 1 → inScratch a → inScratch o → b.loc = true → b.base % 4096 + densestRow b.fmt b.cols ≤ 4096 →
      ∃ t, exec (.compress c) s = .next t ∧ t.regs = s.regs ∧ didWork s t c 3 m [(b.base, row), (o.base, toBytes 4 row.length)])

/-- Keys and values applied to an accumulator in order, where none of them must spill (R407). -/
def applyAll (type op : Nat) (kvs : List (Nat × Nat)) (h : HashAcc) : Option HashAcc :=
  kvs.foldl (fun x kv => x.bind fun h => h.apply type op kv.1 kv.2) (some h)

/-- SCATTERADD and ROUTE (R333, R406 to R414). An ADD of one row whose keys need not spill applies them; INTO ROWS combines its row with the
row of B that its index names; a MERGE applies the records that are left of the spill list and writes the status record; a DRAIN writes
the first entries as pairs, removes them, and writes it. A ROUTE of one token with one choice, whose expert has room, counts it in FILL,
writes its record and sends its row of B there. -/
def hashMops : Prop :=
  ∀ (s : State) (c : ClusterId) (m : Mop),
    let h := (s.clu c).hash
    (mopReady s c 3 m 0x1C 0 →
      let m' := mopRunning s c m 0x1C
      let a := opdOf m'.copy 0
      let o := opdOf m'.copy 2
      let fs := mopFspec m'.copy
      let type := hashType a.fmt
      let want := (fs % 4, fs / 4 % 16, type)
      let key := ofBytes (rowOf s c o 0)
      let kvs := (hashValue a (rowOf s c a 0)).zipIdx.map fun x => ((key * a.cols + x.2) % 2 ^ 32, x.1)
      a.rows = 1 → inScratch a → inScratch o → m.done = 0 → h.chunks = [] → h.merged = 0 → h.ways = [] ∨ h.settings = some want →
      ∀ h', applyAll type (fs % 4) kvs { h with settings := some want } = some h' →
        ∃ t, exec (.scatteraddAdd c) s = .next t ∧ (t.clu c).hash = h' ∧ didWork s t c 3 m []) ∧
    (mopReady s c 3 m 0x1C 1 →
      let m' := mopRunning s c m 0x1C
      let a := opdOf m'.copy 0
      let b := opdOf m'.copy 1
      let o := opdOf m'.copy 2
      a.rows = 1 → inScratch a → inScratch b → inScratch o → ∀ r : Nat, intOf o.fmt (ofBytes (rowOf s c o 0)) = (r : Int) → r < b.rows →
        let old := rowCodes b.fmt b.cols (rowOf s c b r)
        let new := (hashValue a (rowOf s c a 0)).zipIdx.map fun x => hashCombine b.fmt (mopFspec m'.copy % 4) (old.getD x.2 0) x.1
        ∃ t, exec (.scatteraddIntoRows c) s = .next t ∧ t.regs = s.regs ∧
          didWork s t c 3 m [(b.base + r * b.pitch, codeBytes b.fmt new)]) ∧
    (mopReady s c 3 m 0x1C 2 →
      let m' := mopRunning s c m 0x1C
      let o := opdOf m'.copy 2
      let fs := mopFspec m'.copy
      inScratch o → m.done = 0 → h.merged = 0 → ∀ (kvs : List (Nat × Nat)) (type : Nat) (h' : HashAcc),
        h.chunks = (kvs.map fun x => ⟨none, 0, 0, some x⟩) → h.settings = some (fs % 4, fs / 4 % 16, type) →
        applyAll type (fs % 4) kvs { h with chunks := [] } = some h' →
        ∃ t, exec (.scatteraddMerge c) s = .next t ∧ (t.clu c).hash = h' ∧
          didWork s t c 3 m [(o.base, toBytes 4 kvs.length ++ toBytes 4 h'.ways.length ++ toBytes 4 0 ++ toBytes 4 0)]) ∧
    (mopReady s c 3 m 0x1C 3 →
      let m' := mopRunning s c m 0x1C
      let b := opdOf m'.copy 1
      let o := opdOf m'.copy 2
      let out := h.ways.take b.rows
      let left := h.ways.drop b.rows
      inScratch b → inScratch o → rising none h.ways = true → h.chunks = [] → h.merged = 0 →
      ∃ t, exec (.scatteraddDrain c) s = .next t ∧ t.regs = s.regs ∧
        (t.clu c).hash = { h with ways := left, settings := if left = [] then none else h.settings } ∧
        didWork s t c 3 m ((out.zipIdx.map fun x => (b.base + x.2 * b.pitch, toBytes 4 x.1.2.1 ++ toBytes 4 x.1.2.2)) ++
          [(o.base, toBytes 4 out.length ++ toBytes 4 left.length ++ toBytes 4 0 ++ toBytes 4 0)])) ∧
    (mopReady s c 3 m 0x1D 0 →
      let m' := mopRunning s c m 0x1D
      let a := opdOf m'.copy 0
      let b := opdOf m'.copy 1
      let o := opdOf m'.copy 2
      let word := fun (n : Nat) => ofBytes (scratchRead s c (o.base + n) 4)
      let e := a.cols
      let scores := rowFp32 a (rowOf s c a 0)
      let x := (routeOrder scores).headD 0
      let slot := word (0x40 + 16 * e + 4 * x)
      let to_ := word (0x40 + 16 * x)
      let addr := (word (0x44 + 16 * x) + word (0x48 + 16 * x) % 65536 * 2 ^ 32 + slot * word (0x4C + 16 * x)) % 2 ^ 48
      let n := rowBytes b.fmt b.cols
      a.rows = 1 → o.rows = 1 → inScratch a → inScratch b → inScratch o → mopFspec m'.copy % 16 = 1 → (mopFspec m'.copy).testBit 6 = false →
      m.done = 0 → (s.clu c).outstanding < 64 → word 0 = e → e ≤ 4095 → slot < word 4 → word 4 ≤ 1048575 →
      (∀ j, j < 16 → 2 ≤ j → word (4 * j) = 0) → recordBase e + 8 ≤ o.cols → addr + n ≤ 2 ^ 48 →
      b.base + n ≤ o.base ∨ o.base + o.cols ≤ b.base →
      ∃ t, exec (.route c) s = .next t ∧ didWork s t c 3 m [(o.base + 0x40 + 16 * e + 4 * x, toBytes 4 (slot + 1)),
          (o.base + recordBase e, toBytes 4 (x + slot * 4096)), (o.base + recordBase e + 4, toBytes 4 (scores.getD x 0))] ∧
        sentOne s t c m 3 (to_ % 2 ^ 20) 0
          (moveHeader c m' (to_ % 2 ^ 20) (to_ / 2 ^ 20 % 8) 1 (to_.testBit 23) addr 0 n s) (rowOf s c b 0))

/-- Results of the sort and hash macro-ops: `sortMops`, `hashMops`. -/
def Obligations.SortHashUnit : Prop := sortMops ∧ hashMops

/-- The vector unit on INT32 elements (R328): wrapping sums, differences and products, signed maximum and minimum, absolute value and
negation modulo 2^32, RELU, and the bit operations. -/
def vectorElements : Prop :=
  ∀ (a b c x : BitVec 32),
    let f := fun (sub : Nat) => vecElement sub fINT32 x.toNat a.toNat b.toNat c.toNat
    f 0 = (a + b).toNat ∧ f 1 = (a - b).toNat ∧ f 2 = (a * b).toNat ∧ f 3 = (a * b + c).toNat ∧
      f 4 = (if a.toInt < b.toInt then b else a).toNat ∧ f 5 = (if b.toInt < a.toInt then b else a).toNat ∧
      f 6 = (a + x).toNat ∧ f 7 = (a * x).toNat ∧ f 8 = (if a.toInt < 0 then -a else a).toNat ∧ f 9 = (-a).toNat ∧
      f 10 = (if a.toInt < 0 then 0 else a).toNat ∧ f 16 = (a &&& b).toNat ∧ f 17 = (a ||| b).toNat ∧ f 18 = (a ^^^ b).toNat

/-- Vector macro-ops on one row, and the vector unit on INT32: `vectorRow`, `vectorElements`, `vectorReductions`. -/
def Obligations.VectorUnit : Prop := vectorRow ∧ vectorElements ∧ vectorReductions

/-- No macro-op of the cluster waits, nor does the prompter. -/
abbrev noWaits (k : Clu) : Prop := k.wait = none ∧ ∀ q ∈ k.queues, ∀ m ∈ q.mops, (match m.phase with | .waiting _ => true | _ => false) = false

/-- SETF, WAITF and CUE in a queue (R335): SET and CLEAR act on the flag at once, REMOTE sets that of another cluster that admits the
stevedore's write, CARR arrives at its curtain line; a WAITF whose flag is clear, a CUE without a start kept for it, and a CUE whose time
lies ahead wait from now in fabric time; a CUE START takes a start that is kept. -/
def Obligations.FlagMacroOps : Prop :=
  ∀ (s : State) (c : ClusterId) (q : Fin 4) (m : Mop), (s.clu c).queues.length = 4 → noWaits (s.clu c) →
    let copy := mopCopy (mopWord s c m.slot) m.params
    let f := mopField copy 3 0 8
    let at_ := fun (t : State) => ((t.clu c).queues.getD q IssueQ.empty).mops.find? fun x => x.seq == m.seq
    let good := mopOk copy (((s.clu c).prog.map Prog.minwidth).getD 0) 0x800000 = true
    good → mopRepeat copy = 1 →
    (mopDue s c q m 0x21 0 → (s.clu c).governor f = none →
      ∃ t, exec (.setfSet c q) s = .next t ∧ (t.clu c).flag f = true ∧ t.mem = s.mem) ∧
    (mopDue s c q m 0x21 1 → (s.clu c).governor f = none →
      ∃ t, exec (.setfClear c q) s = .next t ∧ (t.clu c).flag f = false ∧ t.mem = s.mem) ∧
    (mopReady s c q m 0x21 2 →
      let d := (copy.getD 3 0).toNat / 2 ^ 16 % 2 ^ 7
      (∃ n l, judge (mopBegun s c q m 0x21) (0x060 + c.val) (0x050000000000 + d * 0x100000 + 0xC0000 + 4 * f) 4 true = (n, l, .free)) →
      cluState s d = 5 → (s.clu d).governor f = none → noWaits (s.clu d) →
      ∃ t, exec (.setfRemote c q) s = .next t ∧ (t.clu d).flag f = true ∧ t.mem = s.mem ∧ t.regs = s.regs) ∧
    (mopReady s c q m 0x21 3 → ∀ l : LineId, l.val = f % 32 → curtMember s l c = true → curtArrived s l c = false →
      (∃ d, d < 80 ∧ d ≠ c.val ∧ curtMember s l d = true ∧ curtArrived s l d = false) → Regs.wf s.regs = true →
      ∃ t, exec (.setfCarr c q) s = .next t ∧ curtArrived t l c = true ∧ t.mem = s.mem ∧
        (∀ d, d < 80 → d ≠ c.val → curtArrived t l d = curtArrived s l d) ∧
        t.get F.CURT_STATUS_GEN l = s.get F.CURT_STATUS_GEN l) ∧
    (mopDue s c q m 0x20 0 → mopFamily copy = 0x20 → (s.clu c).flag f = false →
      ∃ t x, exec (.mopWaitf c q) s = .next t ∧ at_ t = some x ∧ x.phase = .waiting s.fabTime ∧ t.mem = s.mem) ∧
    (mopDue s c q m 0x22 0 → ((s.clu c).queues.getD q IssueQ.empty).startPending = false →
      ∃ t x, exec (.cueStart c q) s = .next t ∧ at_ t = some x ∧ x.phase = .waiting s.fabTime ∧ t.mem = s.mem) ∧
    (mopDue s c q m 0x22 0 → ((s.clu c).queues.getD q IssueQ.empty).startPending = true →
      ∃ t x, exec (.cueStart c q) s = .next t ∧ at_ t = some x ∧ x.phase = .running s.ticks ∧
        ((t.clu c).queues.getD q IssueQ.empty).startPending = false) ∧
    (mopDue s c q m 0x22 1 → s.nowNs < (copy.getD 4 0).toNat + (copy.getD 5 0).toNat * 2 ^ 32 →
      ∃ t x, exec (.cueTime c q) s = .next t ∧ at_ t = some x ∧ x.phase = .waiting s.fabTime ∧ t.mem = s.mem)

/-- The completion of a macro-op (R310, R311, R340, R341): it leaves its queue, is counted, and its transfers are gone; the first error
of the queue is recorded; with HALTERR an error halts the cluster with cause ERROR; with DFEN its flag is set. One that may not
complete yet, such as one whose requests are awaited, changes nothing. -/
def macroOpCompletion : Prop :=
  ∀ (s : State) (c : ClusterId) (q : Fin 4) (i : BitVec 6) (m : Mop), Regs.wf s.regs = true → cluState s c = 5 →
    failing s c = false → (s.clu c).queues.length = 4 →
    let k := s.clu c
    let iq := k.queues.getD q IssueQ.empty
    iq.mops[i.toNat]? = some m → mopFamily m.copy ≠ 0x01 → mopFamily m.copy ≠ 0x02 →
    (mayComplete k q m = false → exec (.mopComplete c q i) s = .next s) ∧
    (mayComplete k q m = true → m.status = 0 → noWaits k →
      ∃ t, exec (.mopComplete c q i) s = .next t ∧
        ((t.clu c).queues.getD q IssueQ.empty).mops.length + 1 = iq.mops.length ∧
        ((t.clu c).queues.getD q IssueQ.empty).err = iq.err ∧
        (∀ x ∈ (t.clu c).xfers, ¬(x.q = q.val ∧ x.seq = m.seq)) ∧
        t.get F.CLU_CNT_MOPS_COUNT c = min (s.get F.CLU_CNT_MOPS_COUNT c + 1) (2 ^ 32 - 1) ∧
        (m.seq = iq.retired → iq.early = [] → ((t.clu c).queues.getD q IssueQ.empty).retired = iq.retired + 1) ∧
        (mopDfen m.copy = true → k.governor (mopDflag m.copy) = none → (t.clu c).flag (mopDflag m.copy) = true)) ∧
    (mayComplete k q m = true → m.status ≠ 0 → mopHaltErr m.copy = true →
      ∃ t, exec (.mopComplete c q i) s = .next t ∧ cluState t c = 8 ∧ t.get F.CLU_STATUS_HALTCAUSE c = 4 ∧
        ((t.clu c).queues.getD q IssueQ.empty).err = (iq.err <|> some (m.status, m.slot)))

/-- A diagnosis that finds failing data columns, within MAXBYP, bypasses them, narrows the array and has the interval executed again
(R362, R364); a request without a
response for WAITUS ends its macro-op with status 0x09 (R332). -/
def diagnosisAndNoResponse : Prop :=
  ∀ (s : State) (c : ClusterId) (cols : BitVec 64) (slot n : Nat) (x : Xfer) (r : RemoteReq) (m : Mop), Regs.wf s.regs = true →
    cluState s c = 5 →
    ((s.clu c).diag = some (slot, n) → cols ≠ 0 →
      popcount 64 (bypassMask s c ||| cols.toNat) ≤ maxBypass (s.get F.ARR_CFG_MAXBYP c) →
      ∃ t, exec (.diagnosisDone c cols false false) s = .next (recover c t) ∧ (t.clu c).diag = none ∧
        (t.clu c).recov = ((s.clu c).recov.map fun r => ⟨r.seq, [n], none⟩) ∧ t.get F.ARR_DIAGREC_OUTCOME c = 1 ∧
        t.get F.ARR_BYPASS0_MASK c = s.get F.ARR_BYPASS0_MASK c ||| cols.toNat % 2 ^ 32 ∧
        t.get F.ARR_BYPASS1_MASK c = s.get F.ARR_BYPASS1_MASK c ||| cols.toNat / 2 ^ 32 ∧ cluState t c = 5) ∧
    ((s.clu c).diag = none → exec (.diagnosisDone c cols false false) s = .next s) ∧
    ((s.clu c).xfers = [x] → x.reqs = [r] → x.kind < 2 → s.passedUs r.sentAt (max 1 (s.get F.CLU_WDOG_WAITUS c)) = true →
      x.q < (s.clu c).queues.length → (s.clu c).mopOf x.q x.seq = some m → m.status = 0 →
      ∃ t m', exec (.norespTimeout c) s = .next t ∧ (∀ y ∈ (t.clu c).xfers, y.reqs = []) ∧ (t.clu c).mopOf x.q x.seq = some m' ∧
        m'.status = 9)

/-- Macro-op completion, diagnosis and missing responses: `macroOpCompletion`, `diagnosisAndNoResponse`. -/
def Obligations.MacroOpEnds : Prop := macroOpCompletion ∧ diagnosisAndNoResponse

/-! Ports and links. -/

/-- Link `p` sends no frame, stores none and receives none. -/
abbrev linkQuiet (s : State) (p : Nat) : Prop := (s.link p).tx = none ∧ (s.link p).stored = [] ∧ (s.link p).rx = .idle

/-- Port `p` has FAILED with a cause: no width, no lanes, EN as it was (R69, R70). -/
abbrev portFailed (s t : State) (p : PortId) (cause : Nat) : Prop :=
  portState t p = 7 ∧ t.get F.PORT_STATUS_CAUSE p = cause ∧ t.get F.PORT_STATUS_WIDTH p = 0 ∧ t.get F.PORT_STATUS_LMASK p = 0 ∧
    t.get F.PORT_CTL_EN p = s.get F.PORT_CTL_EN p ∧ t.mem = s.mem ∧ t.clus = s.clus

/-- The lanes of port `p` that have not failed read 1 in a LINK_STATUS field. -/
abbrev lanesSet (t : State) (p : PortId) (f : Fld) : Prop :=
  ∀ k, k < portWidth t p → t.get F.LINK_STATUS_LFAIL (portLane t p + k) = 0 → t.get f (portLane t p + k) = 1

/-- Bring-up (R69): DOWN to WAKE by EN, WAKE to TRAINING when the group's PLL has locked, TRAINING to LOCKING when every lane has
trained, LOCKING to INIT when the lanes are aligned; each state has its time limit, after which the port FAILS with its cause. EN 0
leads to DOWN. A retrain, a widening and a lane that loses signal, lock or alignment lead from ACTIVE to RETRAIN (R89, R93, R95). Stated
for links that hold no frame. -/
def portBringUp : Prop :=
  ∀ (s : State) (m : MasterId) (p : PortId) (lane : LaneId) (sig cdr align : Bool), Regs.wf s.regs = true → linkQuiet s p →
    let since := (s.link p).since
    (portDefined s p = true → portState s p = 0 → ∃ t, exec (.portEnable m p) s = .next t ∧ t.get F.PORT_CTL_EN p = 1 ∧ portState t p = 1) ∧
    (portDefined s p = false → exec (.portEnable m p) s = .next (s.reject m.toNat (R.PORT_CTL.addr p 0))) ∧
    (portState s p ≠ 0 → ∃ t, exec (.portDisable p) s = .next t ∧ t.get F.PORT_CTL_EN p = 0 ∧ portState t p = 0 ∧
      t.get F.PORT_STATUS_WIDTH p = 0 ∧ t.get F.PORT_STATUS_LMASK p = 0) ∧
    (portState s p = 1 → s.net.groupBad.testBit (laneGroup s p) = false →
      ∃ t, exec (.wakePllLocked p) s = .next t ∧ portState t p = 2 ∧ (t.link p).since = s.ticks) ∧
    (portState s p = 1 → s.passedUs since 1000 = true → ∃ t, exec (.wakeTimeout p) s = .next t ∧ portFailed s t p 1) ∧
    (portState s p = 2 → ∃ t, exec (.trainingDone p) s = .next t ∧ portState t p = 3 ∧ lanesSet t p F.LINK_STATUS_TRAINED ∧
      lanesSet t p F.LINK_STATUS_CDRLOCK ∧ (t.link p).since = s.ticks) ∧
    (portState s p = 2 → s.passedUs since (if s.get F.LINK_CFG_FORM (portLane s p) = 0 then 500000 else 50000) = true →
      ∃ t, exec (.trainingTimeout p) s = .next t ∧ portFailed s t p 1) ∧
    (portState s p = 3 → ∃ t, exec (.lockAligned p) s = .next t ∧ portState t p = 4 ∧ lanesSet t p F.LINK_STATUS_FECALIGN ∧
      t.out.length = s.out.length + 11) ∧
    (portState s p = 3 → s.passedUs since 1000 = true → ∃ t, exec (.lockTimeout p) s = .next t ∧ portFailed s t p 2) ∧
    (portState s p = 4 → s.passedUs since 10000 = true → ∃ t, exec (.initTimeout p) s = .next t ∧ portFailed s t p 3) ∧
    (portState s p = 6 → s.passedUs since 10000 = true → ∃ t, exec (.retrainTimeout p) s = .next t ∧ portFailed s t p 5) ∧
    (portState s p = 5 →
      (∃ t, exec (.portRetrain p) s = .next t ∧ portState t p = 6 ∧ (t.link p).phase = 2 ∧
        t.get F.PORT_CNT_RETRAIN_COUNT p = min (s.get F.PORT_CNT_RETRAIN_COUNT p + 1) (2 ^ F.PORT_CNT_RETRAIN_COUNT.width - 1)) ∧
      (∃ t, exec (.portRewiden p) s = .next t ∧ portState t p = 6 ∧
        ∀ k, k < portWidth s p → t.get F.LINK_STATUS_LFAIL (portLane s p + k) = 0) ∧
      (portOfLane s lane = some p.val → (sig && cdr && align) = false → ∃ t, exec (.laneFail lane sig cdr align) s = .next t ∧
        portState t p = 6 ∧ t.get F.LINK_STATUS_LFAIL lane = 1 ∧ t.get F.LINK_STATUS_SIGDET lane = b2n sig ∧
        t.get F.LINK_STATUS_CDRLOCK lane = b2n cdr ∧ t.get F.LINK_STATUS_FECALIGN lane = b2n align)) ∧
    (portOfLane s lane = some p.val → portState s p = 0 ∨ portState s p = 7 → exec (.laneFail lane sig cdr align) s = .next s)

/-- The preset of a lane follows its form, and the lane layout its commit (R66, R67, R97, R581): a new FORM takes the form's transmit
preset and is rejected under an enabled port; an armed layout applies once the ports that it changes are disabled and DOWN, and
the scale generation moves by 2. -/
def formsAndLayout : Prop :=
  ∀ (s : State) (m : MasterId) (lane : LaneId) (form : BitVec 1) (b : BerthId) (w : Word), Regs.wf s.regs = true →
    form.toNat ≠ s.get F.LINK_CFG_FORM lane →
    ((∀ p, portOfLane s lane = some p → s.flag F.PORT_CTL_EN p = false) →
      ∃ t, exec (.formWrite m lane form) s = .next t ∧ t.get F.LINK_CFG_FORM lane = form.toNat ∧
        t.rd R.LINK_TXEQ lane 0 = lanePreset s lane form.toNat ∧ othersKept s t lane [R.LINK_CFG, R.LINK_TXEQ] ∧ onlyRegs s t) ∧
    (∀ p, portOfLane s lane = some p → s.flag F.PORT_CTL_EN p = true →
      exec (.formWrite m lane form) s = .next (s.reject m.toNat (R.LINK_CFG.addr lane 0))) ∧
    (s.armed (.layout b) = true → s.shadow = [(R.LINK_QMODE.addr (64 * b.val) 0, w)] →
      ((∀ p ∈ layoutChanges b s, portDefined s p = true → s.flag F.PORT_CTL_EN p = false ∧ portState s p = 0) →
        ∃ t, exec (.layoutApply b) s = .next t ∧ t.get F.LINK_QMODE_MODE (64 * b.val) = w.toNat % 4 ∧ t.armed (.layout b) = false ∧
          t.shadow = [] ∧ t.get F.DEV_SCALE_GEN_GEN = (s.get F.DEV_SCALE_GEN_GEN + 2) % 2 ^ F.DEV_SCALE_GEN_GEN.width) ∧
      (∀ p ∈ layoutChanges b s, portDefined s p = true → s.flag F.PORT_CTL_EN p = true → exec (.layoutApply b) s = .next s))

/-- Port bring-up, electrical forms and the lane layout: `portBringUp`, `formsAndLayout`. -/
def Obligations.PortsAndLayout : Prop := portBringUp ∧ formsAndLayout

/-- The INIT exchange (R76, R94): the words of every index go out again, with DONE once all of the peer's are held; a word is
recorded; the peer's last word, when DONE has gone both ways, makes the port ACTIVE with the widest lane block healthy at both ends,
the peer's credit, and the sequence number that the peer expects; a peer of another width fails the port with WIDTH. -/
def Obligations.InitExchange : Prop :=
  ∀ (s : State) (p : PortId) (index : BitVec 4) (value : BitVec 16) (b w : Nat), Regs.wf s.regs = true → linkQuiet s p →
    portState s p = 4 →
    let l := s.link p
    let got := l.peerInit.set 10 (some value.toNat)
    let peer := fun (i : Nat) => (got.getD i none).getD 0
    (l.peerDone = false → ∃ t, exec (.initRepeat p) s = .next t ∧ portState t p = 4 ∧ t.regs = s.regs ∧
      t.out.length = s.out.length + 11 ∧ (t.link p).sentDone = l.peerInit.all Option.isSome ∧
      ∀ i, i < 11 → .linkWord p (ctlWord 0x07 (i + (initValue s p i % 65536) <<< 4 + b2n (l.peerInit.all Option.isSome) <<< 20)) ∈ t.out) ∧
    (index.toNat ≤ 10 → index ≠ 9 → l.sentDone = false → l.peerInit.length = 11 →
      ∃ t, exec (.initWordRx p index value false) s = .next t ∧ t.regs = s.regs ∧ (t.link p).peerDone = l.peerDone ∧
        (t.link p).peerInit[index.toNat]? = some (some value.toNat)) ∧
    (index = 9 → fieldOf value.toNat 8 4 ≠ portWidth s p →
      ∃ t, exec (.initWordRx p index value false) s = .next t ∧ portFailed s t p 4) ∧
    (index = 10 → l.sentDone = true → l.peerInit.length = 11 → usableBlock s p (healthyMask s p &&& (peer 9 % 256)) = some (b, w) →
      ∃ t, exec (.initWordRx p index value true) s = .next t ∧ portState t p = 5 ∧ t.get F.PORT_STATUS_WIDTH p = w ∧
        t.get F.PORT_STATUS_LMASK p = (2 ^ w - 1) <<< b % 256 ∧ (t.link p).txSeq = value.toNat % 256 ∧
        (∀ c, c < 9 → t.get F.PORT_TXCRED_AVAIL p c = peer c % 65536 ∧ t.get F.PORT_TXCRED_PEER p c = peer c % 65536) ∧
        (t.link p).phase = l.phase ∧ (t.link p).stored = [])

/-- Credit and retry on an ACTIVE port (R73, R80, R85, R86): a CRD word adds the difference of its cumulative count to the class's
credit and never beyond the peer's advertised number; an ACK frees the frames up to its sequence number; a NAK or the ACK timeout
sends the stored frames again from the one named, each as SOF, its data blocks and EOF with PAD and LCRC, or as SOF and ABT (R72, R74); the ACK delay and eight acceptances send an ACK; the refresh sends each class's
count; a reserved control word is counted as a protocol error. -/
def Obligations.CreditAndRetry : Prop :=
  ∀ (s : State) (p : PortId) (c : ClassId) (count : BitVec 16) (q : BitVec 8) (word : BitVec 64) (f : Stored) (rest : List Stored),
    Regs.wf s.regs = true → portState s p = 5 → (s.link p).tx = none → s.upsets = [] →
    let l := s.link p
    let delta := (count.toNat + 65536 - l.lastCount.getD c 0 % 65536) % 65536
    let avail := s.get F.PORT_TXCRED_AVAIL p c + delta
    let replayed := fun (t : State) =>
      let bytes := frameBytes f.hdr f.payload f.trailer
      let sof := ctlWord 1 (f.cls + f.lseq <<< 4)
      t.out = (if f.abt then .frame p sof [] (ctlWord 3 (f.cls + f.lseq <<< 4))
          else .frame p sof (dataBlocks bytes) (ctlWord 2 (padOf bytes.length + lcrc bytes <<< 3))) :: s.out ∧
        t.get F.PORT_CNT_REPLAY_COUNT p = min (s.get F.PORT_CNT_REPLAY_COUNT p + 1) (2 ^ F.PORT_CNT_REPLAY_COUNT.width - 1) ∧
        (t.link p).stored = [{ f with sentAt := s.ticks }] ∧ (t.link p).noProgress = l.noProgress + 1
    (avail ≤ s.get F.PORT_TXCRED_PEER p c → ∃ t, exec (.crdRx p c count) s = .next t ∧ t.get F.PORT_TXCRED_AVAIL p c = avail ∧
      (t.link p).lastCount = l.lastCount.set c count.toNat ∧ portState t p = 5 ∧ t.out = s.out) ∧
    (l.rx = .idle → s.get F.PORT_TXCRED_PEER p c < avail → ∃ t, exec (.crdRx p c count) s = .next t ∧ portState t p = 6 ∧
      t.get F.PORT_CNT_PROTERR_COUNT p = min (s.get F.PORT_CNT_PROTERR_COUNT p + 1) (2 ^ F.PORT_CNT_PROTERR_COUNT.width - 1)) ∧
    (storedFrom q.toNat l.stored = f :: rest →
      exec (.linkAckRx p q) s = .next (s.setLink p { l with stored := rest, noProgress := 0 })) ∧
    (storedFrom q.toNat l.stored = [] → exec (.linkAckRx p q) s = .next s) ∧
    (l.stored = [f] → f.lseq = q.toNat → l.noProgress < max 1 (s.get F.PORT_RETRY_MAX p) →
      (∃ t, exec (.nakRx p q) s = .next t ∧ replayed t) ∧
      (f.done = true → s.get F.PORT_RETRY_ACKTMO p ≤ s.elapsed f.sentAt → ∃ t, exec (.acktmoExpiry p) s = .next t ∧ replayed t)) ∧
    (l.rx = .idle → l.stored = [f] → f.lseq = q.toNat → max 1 (s.get F.PORT_RETRY_MAX p) ≤ l.noProgress →
      ∃ t, exec (.nakRx p q) s = .next t ∧ portState t p = 6 ∧ t.out = s.out) ∧
    (0 < l.unacked → 20 ≤ s.elapsed l.unackedAt →
      exec (.ackDelayExpiry p) s =
        .next ((s.setLink p { l with unacked := 0 }).emit (.linkWord p (ctlWord 0x05 ((l.rxExp + 255) % 256))))) ∧
    (l.unacked = 0 → exec (.ackDelayExpiry p) s = .next s) ∧
    (∃ t, exec (.creditRefresh p) s = .next t ∧ t = { s with out := t.out } ∧ t.out.length = s.out.length + 9 ∧
      ∀ k, k < 9 → .linkWord p (crdWord k (l.rxCount.getD k 0)) ∈ t.out) ∧
    (7 < word.toNat % 256 → ∃ t, exec (.controlWordProterr p word false) s = .next t ∧ onlyRegs s t ∧
      t.get F.PORT_CNT_PROTERR_COUNT p = min (s.get F.PORT_CNT_PROTERR_COUNT p + 1) (2 ^ F.PORT_CNT_PROTERR_COUNT.width - 1))

/-! Frames, packets and forwarding. -/

/-- Reception and lookup (R75, R85, R86, R100, R106 to R108, R127, R139): a good frame that is next in sequence is accepted, its packet is
complete with the frame's contents, the expected number advances, and the credit of a TC packet written into pool 0 is returned at once; a bad frame
and one from ahead are answered by one NAK; a late duplicate is acknowledged again. A header that passes its checks starts a packet on the ingress path; a packet for
another endpoint takes pool 0 cells and joins the queue of the port that its table entry names; one for this device goes to the
device-receive path. -/
def framesIn : Prop :=
  ∀ (s s1 : State) (p : PortId) (f : RxFrame) (id : Nat) (k : Pkt) (h : Header) (cells : List Nat) (rest : List Nat) (o : Nat),
    Regs.wf s.regs = true →
    let l := s.link p
    let behind := (l.rxExp + 256 - f.lseq.toNat) % 256
    let units := cellsOf f.hdr
    (portState s p = 5 → f.abt = false → frameBad f = false → f.lseq.toNat = l.rxExp → l.rxExp < 256 → l.rx = .packet id →
      s.pkt id = some k → k.src = .port p → k.refs ≠ 0 → f.symErr = [] → packetCrc f.hdr f.payload = f.trailer.toNat →
      ∃ t, exec (.frameRx p f) s = .next t ∧ (t.link p).rxExp = (l.rxExp + 1) % 256 ∧ (t.link p).rx = .idle ∧ (t.link p).nakHeld = false ∧
        t.pkt id = some { k with hdr := f.hdr, payload := f.payload, trailer := f.trailer, complete := true, inRx := false, owes := !(decide (f.hdr.cls.toNat < 8) && decide (k.cells ≠ [])) } ∧
        (f.hdr.cls.toNat < 8 → k.cells ≠ [] → creditWithheld s f.hdr.cls.toNat = false →
          .linkWord p (crdWord f.hdr.cls.toNat ((l.rxCount.getD f.hdr.cls.toNat 0 + units) % 65536)) ∈ t.out)) ∧
    (portState s p = 5 → frameBad f = true ∨ 64 < behind → f.abt = false → l.rx = .idle → l.nakHeld = false →
      ∃ t, exec (.frameRx p f) s = .next t ∧ (t.link p).nakHeld = true ∧ (t.link p).rxExp = l.rxExp ∧
        .linkWord p (ctlWord 0x06 l.rxExp) ∈ t.out ∧
        t.get F.PORT_CNT_NAK_COUNT p = min (s.get F.PORT_CNT_NAK_COUNT p + 1) (2 ^ F.PORT_CNT_NAK_COUNT.width - 1)) ∧
    (portState s p = 5 → frameBad f = false → f.abt = false → 0 < behind → behind ≤ 64 →
      ∃ t, exec (.frameRx p f) s = .next t ∧ (t.link p).rxExp = l.rxExp ∧ (t.link p).unacked = 0 ∧
        .linkWord p (ctlWord 0x05 ((l.rxExp + 255) % 256)) ∈ t.out) ∧
    (portState s p = 5 → l.rx = .idle → kindOf h ≠ .tide → h.len.toNat ≤ 4096 →
      (h.cls.toNat < 8 → s.get F.SCHED_MRATE_RATE p h.cls.toNat = 0 → l.rxExp < 256 →
        ∃ t, exec (.packetIngress p h.cls (BitVec.ofNat 8 l.rxExp) h) s = .next t ∧ (t.link p).rx = .packet s.net.nextPkt ∧
          t.pkt s.net.nextPkt = some ⟨h, [], 0, false, false, .port p, [], portJob s p, 1, true, false, false, s.fabTime, none, false⟩ ∧
          lookup t.net.ingress p = some ((lookup s.net.ingress p).getD [] ++ [s.net.nextPkt])) ∧
      (8 < h.cls.toNat → l.rxExp < 256 → ∃ t, exec (.packetIngress p h.cls (BitVec.ofNat 8 l.rxExp) h) s = .next t ∧
        (t.link p).rx = .dropped ∧ t.get F.FWD_LASTDROP_REASON = 2 ∧
        t.get F.FWD_CNT_HDRERR_COUNT = min (s.get F.FWD_CNT_HDRERR_COUNT + 1) (2 ^ F.FWD_CNT_HDRERR_COUNT.width - 1))) ∧
    (lookup s.net.ingress p = some (id :: rest) → s.pkt id = some k →
      (forDevice s k.hdr = false → lookupRoute k.hdr k.job (portEngine s p) (some p.val) (popIngress p s) = (.ports [o] false, popIngress p s) →
        takePktCells k ownerIngress ownerEgress 1 (popIngress p s) = some (cells, s1) →
        exec (.lookupComplete p) s = .next (enqueue id o k.hdr.cls.toNat (creditWritten id (s1.setPkt id { k with cells := cells, refs := 1, mcast := false })))) ∧
      (s.upsets = [] → s.flag F.FWD_CTL_EN = true → epFenced s k.hdr.dst.toNat = false → o < 512 → portDefined s o = true → portFenced s o = false →
        lookup s.net.fwdTab k.hdr.dst.toNat = some (BitVec.ofNat 32 (2 ^ 30 + o)) →
        lookupRoute k.hdr k.job (portEngine s p) (some p.val) s = (.ports [o] false, s)) ∧
      (forDevice s k.hdr = true → kindOf k.hdr ≠ .other → k.hdr.cm = false → k.owes = false →
        takePktCells k ownerIngress ownerDevRx 1 (popIngress p s) = some (cells, s1) →
        ∃ t, exec (.devicePacketDeliver p) s = .next t ∧ t.net.devRx = s1.net.devRx ++ [id] ∧
          t.pkt id = some { k with cells := cells, refs := 1 } ∧ t.mem = s1.mem ∧ t.regs = s1.regs)) ∧
    (s.pkt id = some k → k.hdr.cm = false → s.get F.FWD_CMTHR_MARK 0 k.hdr.cls.toNat = 0 →
      (enqueue id o k.hdr.cls.toNat s).queue o k.hdr.cls.toNat =
        s.queue o k.hdr.cls.toNat ++ [⟨id, false, depth s o k.hdr.cls.toNat + cellsOf k.hdr, s.ticks, false⟩])

/-- A packet that an injector holds starts (R123, R127, R139, R141): it leaves the injector; one for another endpoint takes its cells and
joins the queue of the port that the lookup names, one for this device goes to the device-receive path. A packet behind another of
the same transfer waits; a replica for a rank fenced meanwhile is not sent (R239). Staged forwarding words join the staging list, and the index moves where it is to (R109, R110, R124). -/
def injectionAndStaging : Prop :=
  ∀ (s s1 s2 : State) (m : MasterId) (i : BitVec 12) (k : InjPkt) (cells : List Nat) (o : Nat) (mcast : Bool) (v : Word),
    let mid := m.toNat
    let held := (lookup s.net.injq mid).getD []
    let c := k.hdr.cls.toNat
    let pkt : Pkt := ⟨k.hdr, k.payload, BitVec.ofNat 32 (packetCrc k.hdr k.payload), true, k.bad, .injector mid, [], k.job, 0, false, false,
      false, s.fabTime, none, false⟩
    let first := (held.take i.toNat).any (fun x => x.xfer == k.xfer) = false
    (held[i.toNat]? = some k → k.cells = none → k.coll = none → epFenced s k.hdr.dst.toNat = false → first →
      (forDevice s k.hdr = true → c = 8 ∨ poolHolds s mid = false → takePktCells pkt mid ownerDevRx 1 s = some (cells, s1) →
        let u := (addPkt { pkt with cells := cells, refs := 1 } s1).2
        exec (.injectedPacketStart m i) s =
          .next (removeHeld mid i.toNat { u with net.devRx := u.net.devRx ++ [s1.net.nextPkt] })) ∧
      (forDevice s k.hdr = false → lookupRoute k.hdr k.job (injectorEngine mid) none s = (.ports [o] mcast, s2) →
        c = 8 ∨ ((mid = responder ∨ throttleAllows s mid o c = true) ∧ poolHolds s mid = false) →
        takePktCells pkt mid ownerEgress 1 s2 = some (cells, s1) →
        let u := (addPkt { pkt with cells := cells, refs := 1, mcast := mcast } s1).2
        exec (.injectedPacketStart m i) s =
          .next (removeHeld mid i.toNat (enqueue s1.net.nextPkt o c (noteLaneHold mid (throttleNote mid c [o] u)))))) ∧
    (held[i.toNat]? = some k → first → rankFenced s k.coll = true →
      exec (.injectedPacketStart m i) s = .next (removeHeld mid i.toNat (loseReplica k s))) ∧
    (held[i.toNat]? = some k → ¬ first → exec (.injectedPacketStart m i) s = .next s) ∧
    (s.get F.FWD_IND_SEL_TABLE < 3 → s.armed .fwd = false → s.net.staging.length < 1024 →
      ∃ t, exec (.fwdStageWord m v) s = .next t ∧
        t.net.staging = s.net.staging ++ [(s.get F.FWD_IND_SEL_TABLE, s.get F.FWD_IND_SEL_INDEX, v)] ∧
        (s.flag F.FWD_IND_SEL_AUTOINC = false → t.regs = s.regs))

/-- Frames received, packets looked up and injected, staged forwarding words: `framesIn`, `injectionAndStaging`. -/
def Obligations.PacketsIn : Prop := framesIn ∧ injectionAndStaging

/-- Packets that reached the device (R102 to R105): a PUT or PUT_ACK makes its write and a GET its read as the master that its source maps
to; a PUT_ACK is answered with ACK, OK where the write was made and DENIED where it was refused, a GET with its data in a GETRESP;
a PUT is not answered. A GET with no length is MALFORMED. An ACK ends the request that awaits it, with OK or with its error; a GETRESP writes its
data and ends its request; a response that nothing awaits is dropped with HDRERR. -/
def Obligations.RemoteAccesses : Prop :=
  ∀ (s s1 : State) (i : BitVec 12) (id : Nat) (k : Pkt) (bs : List Byte) (cause : Nat) (c : Nat) (x : Xfer) (r : RemoteReq) (m : Mop),
    s.upsets = [] → devRxAt s i.toNat = some (id, k) →
    let h := k.hdr
    let u := devRxDone id s
    let mid := fabricMaster s h.src.toNat
    let written := fun (res : AccRes) =>
      writeParts regPut mid 0 (accParts u h.addr.toNat k.payload.length false) k.payload u = (res, s1)
    let direct := h.ord = false ∨ s.held = []
    let w := ofBytes k.payload
    let rlen := fieldOf w 48 13
    let read := fun (res : AccRes) => readParts regBytes (fabricMaster u h.src.toNat) 0 (accParts u h.addr.toNat rlen false) u = (res, s1)
    let status := fieldOf (ofBytes (k.payload.take 8)) 0 8
    (kindOf h = .put → direct → written (.data bs) ∨ written (.refused cause) → exec (.put i) s = .next s1) ∧
    (kindOf h = .putAck → direct → written (.data bs) → exec (.putAck i) s = .next (ackWith 0 h k.job s1)) ∧
    (kindOf h = .putAck → direct → written (.refused cause) → exec (.putAck i) s = .next (ackWith 1 h k.job s1)) ∧
    (kindOf h = .get → k.payload.length = 8 → 0 < rlen → rlen ≤ 4096 →
      (read (.data bs) → exec (.get i) s = .next (respond false h k.job 0x03 (w % 2 ^ 48) bs s1)) ∧
      (read (.refused cause) → exec (.get i) s = .next (ackWith 1 h k.job s1))) ∧
    (kindOf h = .get → k.payload.length = 8 → rlen = 0 → exec (.get i) s = .next (ackWith 2 h k.job u)) ∧
    (kindOf h = .ack → awaited false h s = some (c, x, r) →
      (status = 0 → x.kind ≠ 1 → exec (.ack i) s = .next (reqDone c x.id r.seq u)) ∧
      (status ≠ 0 → exec (.ack i) s = .next (xferFail c (remoteStatus status) x (reqDone c x.id r.seq u)))) ∧
    (kindOf h = .ack → awaited false h s = none →
      ∃ t, exec (.ack i) s = .next t ∧ t = devRxDone id (countDrop h 2 s)) ∧
    (kindOf h = .getResp → awaited true h s = some (c, x, r) → (s.clu c).mopOf x.q x.seq = some m → k.bad = false →
      wholeRows (opdOf m.copy 0) (opdOf m.copy 1) = false →
      k.payload.length = (recvParts c m r).foldl (fun n p => n + p.nw) 0 →
      moveWrites c (opdOf m.copy 1).hint (partWrites c m (recvParts c m r) k.payload) s = (.data bs, s1) →
      ∃ t, exec (.getresp i) s = .next t ∧ t.mem = s1.mem ∧ id ∉ t.net.devRx ∧
        ∀ y ∈ (t.clu c).xfers, y.id = x.id → ∀ q ∈ y.reqs, q.seq ≠ r.seq) ∧
    (∀ (v : State) (job kind addr : Nat) (data : List Byte), lookup (respond false h job kind addr data v).net.injq responder =
      some (((lookup v.net.injq responder).getD []) ++ [⟨h.src.toNat * 16 + h.cls.toNat, responseHeader h (selfId v) kind data.length addr,
        data, job, false, false, false, none, none⟩]))

/-! Egress. -/

/-- The choice and the sending of frames (R79, R84, R86, R90, R120, R154 to R156, R583): XC goes first; else deficit round-robin takes the class at its
pointer where its head fits the deficit; the frame takes its credit, the next sequence number and a place in replay storage. A
frame that ends is sent as SOF, its data blocks and EOF with PAD and LCRC, or cut short with ABT where its check value fails. A fenced port discards what it has queued. -/
def Obligations.FramesOut : Prop :=
  ∀ (s : State) (p : PortId) (c : ClassId) (e : QEnt) (rest : List QEnt) (k : Pkt) (ptr n : Nat) (d : List Nat) (x : TxCur),
    Regs.wf s.regs = true → rising none s.net.egress = true →
    let l := s.link p
    let ready := portState s p = 5 ∧ l.tx = none ∧ l.replayFrom = none ∧ portFenced s p = false ∧
      ∀ y, y < 9 → (s.get F.PORT_TXCRED_PEER p y = 0 → s.queue p y = []) ∧ (mayStart s p y = true → eligible s p y = true) ∧
        ((headOf s p y).map fun x => rankFenced s x.2.coll) ≠ some true
    (ready → choose s p = (some n, ptr, d) → n < 9 → s.queue p n = e :: rest → s.pkt e.pkt = some k →
      ∃ t, exec (.egressChoose p) s = .next t ∧ (t.link p).tx = some ⟨e.pkt, n, l.txSeq, e.cm⟩ ∧ (t.link p).txSeq = (l.txSeq + 1) % 256 ∧
        (t.link p).ptr = ptr ∧ (t.link p).deficit = d ∧ (t.link p).stored.length = l.stored.length + 1 ∧ t.queue p n = rest ∧
        t.get F.PORT_TXCRED_AVAIL p n = s.get F.PORT_TXCRED_AVAIL p n - cellsOf k.hdr) ∧
    (ready → choose s p = (none, ptr, d) →
      ∃ t, exec (.egressChoose p) s = .next t ∧ t = s.setLink p { l with ptr := ptr, deficit := d }) ∧
    (eligible s p 8 = true → choose s p = (some 8, l.ptr, l.deficit)) ∧
    (eligible s p 8 = false → eligible s p l.ptr = true → headSize s p l.ptr ≤ l.deficit.getD l.ptr 0 →
      choose s p = (some l.ptr, l.ptr, l.deficit.set l.ptr (l.deficit.getD l.ptr 0 - headSize s p l.ptr))) ∧
    (portState s p ≠ 5 ∨ l.tx ≠ none ∨ l.replayFrom ≠ none ∨ portFenced s p = true → exec (.egressChoose p) s = .next s) ∧
    (s.queue p c = e :: rest → portState s p ≠ 5 →
      exec (.cutThroughStart p c) s = .next (s.setQueue p c ({ e with ready := true } :: rest))) ∧
    (s.queue p c = e :: rest →
      exec (.cutThroughStart p c) s = exec (.egressChoose p) (s.setQueue p c ({ e with ready := true } :: rest))) ∧
    (portState s p = 5 → l.tx = some x → s.pkt x.pkt = some k → k.complete = true → k.bad = false → l.replayFrom = none →
      s.upsets = [] →
      let bytes := frameBytes { k.hdr with cm := x.cm } k.payload k.trailer
      let sof := ctlWord 1 (x.cls + x.lseq <<< 4)
      (∃ t, exec (.frameTxEnd p .none) s = .next t ∧ (t.link p).tx = none ∧
        .frame p sof (dataBlocks bytes) (ctlWord 2 ((8 - bytes.length % 8) % 8 + lcrc bytes <<< 3)) ∈ t.out) ∧
      (∃ t, exec (.frameTxEnd p .checkValue) s = .next t ∧ (t.link p).tx = none ∧
        (∃ n, .frame p sof ((dataBlocks bytes).take n) (ctlWord 3 (x.cls + x.lseq <<< 4)) ∈ t.out) ∧
        t.get F.PORT_CNT_ABORTTX_COUNT p = min (s.get F.PORT_CNT_ABORTTX_COUNT p + 1) (2 ^ F.PORT_CNT_ABORTTX_COUNT.width - 1) ∧
        t.get F.ERR_CNT_E2EEGR_COUNT = min (s.get F.ERR_CNT_E2EEGR_COUNT + 1) (2 ^ F.ERR_CNT_E2EEGR_COUNT.width - 1))) ∧
    (l.tx = none → exec (.frameTxEnd p .none) s = .next s) ∧
    (portFenced s p = true → s.queue p 8 = e :: rest → s.pkt e.pkt = some k → k.mcast = false →
      ∃ t, exec (.fenceDrain p) s = .next t ∧ t.queue p 8 = rest ∧
        t.get F.FWD_CNT_FENCEDROP_COUNT = min (s.get F.FWD_CNT_FENCEDROP_COUNT + 1) (2 ^ F.FWD_CNT_FENCEDROP_COUNT.width - 1)) ∧
    (portFenced s p = false → exec (.fenceDrain p) s = .next s)

/-- Gate lists (R162, R163, R166) and the sample FIFO (R168): at the end of its interval the next entry opens, cyclically; at its takeover time an
armed list is the active one and its entry 0 opens, or is refused there where an interval is 1 to 7 ns (R17, R162);
before, nothing changes. A pop answers with the low word of the oldest
sample, latches its upper word, and lets a pending gap marker in. -/
def Obligations.GatesAndSamples : Prop :=
  ∀ (s : State) (p : PortId) (m : MasterId) (x : Nat) (rest : List Nat), Regs.wf s.regs = true → s.upsets = [] →
    let g := s.gate p
    let len := s.get F.GATE_STATUS_LEN p
    let interval := fun (e : Nat) => fieldOf (s.rdShadow R.GATE_ENT p e) 9 23
    (len ≠ 0 → g.began + gateInterval s p g.entry ≤ s.nowNs → g.refusedSince = List.replicate 9 none →
      ∃ t, exec (.gateEdge p) s = .next t ∧ (t.gate p).entry = (g.entry + 1) % len ∧
        (t.gate p).began = g.began + gateInterval s p g.entry ∧
        t.get F.GATE_STATUS_ENTRY p = (g.entry + 1) % len % 2 ^ F.GATE_STATUS_ENTRY.width ∧ othersKept s t p [R.GATE_STATUS]) ∧
    (len = 0 ∨ s.nowNs < g.began + gateInterval s p g.entry → exec (.gateEdge p) s = .next s) ∧
    (s.armed (.gate p) = true → g.takeover ≤ s.nowNs → (∀ e, e < 256 → interval e = 0 ∨ 8 ≤ interval e) →
      ∃ t, exec (.gateTakeover p) s = .next t ∧ t.gate p = ⟨0, g.takeover, g.takeover, List.replicate 9 none, false⟩ ∧ t.armed (.gate p) = false ∧
        t.get F.GATE_STATUS_LEN p = listLen interval 256 0 % 2 ^ F.GATE_STATUS_LEN.width ∧ t.get F.GATE_STATUS_ENTRY p = 0) ∧
    (s.armed (.gate p) = true → g.takeover ≤ s.nowNs → (∃ e, e < 256 ∧ 0 < interval e ∧ interval e < 8) →
      ∃ t, exec (.gateTakeover p) s = .next t ∧ t.gate p = g ∧ t.armed (.gate p) = false ∧ t.flag F.ERR_CFG_REJECT = true) ∧
    (s.armed (.gate p) = false ∨ s.nowNs < g.takeover → exec (.gateTakeover p) s = .next s) ∧
    (s.net.samples.items = x :: rest →
      let more := if s.net.samples.gap = 0 then [] else [0x1FFF + (saturate 21 s.net.samples.gap) <<< 13 + 2 ^ 63]
      exec (.sfifoPop m) s = .next (({ s with
        net.samples := ⟨rest ++ more, 0⟩
        net.sampleHi := x / 2 ^ 32 } : State).emit (.readData m.toNat (toBytes 4 (x % 2 ^ 32)))))

/-! Pools and fabric time. -/

/-- The pool manager (R127, R130, R131, R133 to R138, R148): a staging allocation takes the oldest free chunks and gives them their state words, or
waits, and a waiting one is granted when chunks are free; ADDREF, PASS and RELEASE act for the owner and are refused with their
causes; the last RELEASE returns the buffer to the end of its free store, and its word keeps OWNER and JOB. Enabling checks the configuration, INIT fills the store,
the scale table's generation moves, and disabling needs every chunk free. A sweep ages what nothing references, and reports what is aged as a leak. -/
def Obligations.Pools : Prop :=
  ∀ (s : State) (k : PoolId) (m owner : MasterId) (n : BitVec 16) (sharers add : BitVec 10) (job : Byte) (buf : BitVec 24) (f : FreeStore)
    (w : BufWord) (q : PoolWait) (rest : List PoolWait), Regs.wf s.regs = true → s.upsets = [] → s.pools.length = 17 → k ≠ 0 →
    let p := s.pool k
    let taken := fun (t : State) (own num sh jb : Nat) => ∃ bs : List Nat, bs.length = num ∧
      (t.pool k).granted = p.granted ++ bs.map (fun b => (own, b)) ∧
      (∀ b ∈ bs, lookup (t.pool k).words b = some ⟨true, sh, own, false, jb⟩) ∧
      t.get F.POOL_CNT_ALLOC_COUNT k = min (s.get F.POOL_CNT_ALLOC_COUNT k + num) (2 ^ F.POOL_CNT_ALLOC_COUNT.width - 1)
    let lets := (poolState s k = 2 ∨ poolState s k = 3) ∧ poolStalled s k = false ∧ p.stores = [f]
    (lets → 0 < n.toNat → n.toNat ≤ f.count → p.waiting = [] →
      ∃ t, exec (.alloc k owner n sharers job) s = .next t ∧ taken t owner.toNat n.toNat (max 1 sharers.toNat) job.toNat) ∧
    (lets → f.count < n.toNat → exec (.alloc k owner n sharers job) s =
      .next ((s.bump F.POOL_CNT_WAIT_COUNT 1 k).setPool k { p with
        waiting := p.waiting ++ [⟨owner.toNat, n.toNat, max 1 sharers.toNat, job.toNat⟩] })) ∧
    (lets → p.waiting = q :: rest → q.n ≤ f.count →
      ∃ t, exec (.allocGrant k) s = .next (grantDone t) ∧ (t.pool k).waiting = rest ∧ taken t q.owner q.n q.sharers q.job) ∧
    (p.waiting = [] → exec (.allocGrant k) s = .next (grantDone s)) ∧
    (buf.toNat < poolSize s k → lookup p.words buf.toNat = some w → w.alloc = true →
      (w.owner = owner.toNat → w.sharers + add.toNat ≤ 1023 →
        exec (.addref k buf add owner) s = .next (setWord k buf.toNat { w with sharers := w.sharers + add.toNat } s)) ∧
      (w.owner = owner.toNat → 1023 < w.sharers + add.toNat →
        exec (.addref k buf add owner) s = .next (poolRefuse k buf.toNat owner.toNat w.owner 4 s)) ∧
      (w.owner = owner.toNat → exec (.pass k buf m owner) s =
        .next (passHeld k buf.toNat owner.toNat (some m.toNat) (setWord k buf.toNat { w with owner := m.toNat } s))) ∧
      (w.owner ≠ owner.toNat → exec (.pass k buf m owner) s = .next (poolRefuse k buf.toNat owner.toNat w.owner 2 s)) ∧
      (1 < w.sharers → exec (.release k buf owner) s =
        .next (passHeld k buf.toNat owner.toNat none (setWord k buf.toNat { w with sharers := w.sharers - 1 } s))) ∧
      (w.sharers ≤ 1 → w.owner ≠ owner.toNat → exec (.release k buf owner) s = .next (poolRefuse k buf.toNat owner.toNat w.owner 2 s)) ∧
      (w.sharers ≤ 1 → w.owner = owner.toNat → p.stores = [f] → f.retired = false →
        ∃ t f', exec (.release k buf owner) s = .next t ∧
          lookup (t.pool k).words buf.toNat = some { w with alloc := false, sharers := 0, age := false } ∧
          (t.pool k).stores = [f'] ∧ f'.freed = f.freed ++ [buf.toNat] ∧ f'.next = f.next ∧ f'.limit = f.limit ∧
          (t.pool k).granted = p.granted.filter (fun e => e.2 != buf.toNat) ∧
          ∀ b, b ≠ buf.toNat → lookup (t.pool k).words b = lookup p.words b)) ∧
    (buf.toNat < poolSize s k → lookup p.words buf.toNat = none →
      exec (.release k buf owner) s = .next (poolRefuse k buf.toNat owner.toNat 0 1 s)) ∧
    (buf.toNat < poolSize s k → lookup p.words buf.toNat = some w → w.alloc = false →
      exec (.release k buf owner) s = .next (poolRefuse k buf.toNat owner.toNat w.owner 1 s)) ∧
    (poolSize s k ≤ buf.toNat → exec (.release k buf owner) s = .next (poolRefuse k buf.toNat owner.toNat 0 3 s)) ∧
    (s.flag F.POOL_CTL_EN k = false → poolConfigOk s k = true → ∃ t, exec (.poolEnable m k) s = .next t ∧ t.get F.POOL_CTL_EN k = 1 ∧
      poolState t k = 1 ∧ (t.pool k).words = [] ∧
      t.get F.DEV_SCALE_GEN_GEN = (s.get F.DEV_SCALE_GEN_GEN + 2) % 2 ^ F.DEV_SCALE_GEN_GEN.width) ∧
    (s.flag F.POOL_CTL_EN k = false → poolConfigOk s k = false →
      exec (.poolEnable m k) s = .next ((s.set F.POOL_STATUS_CFGERR 1 k).reject m.toNat (R.POOL_CTL.addr k 0))) ∧
    (poolState s k = 1 → 0 < poolSize s k → s.get F.POOL_WARN_LEVEL k ≤ poolSize s k → s.get F.POOL_PLOW_LEVEL k ≤ poolSize s k →
      s.get F.POOL_PALL_LEVEL k ≤ poolSize s k →
      ∃ t, exec (.poolInitDone k) s = .next t ∧ poolState t k = 2 ∧ (t.pool k).free = poolSize s k ∧ (t.pool k).words = []) ∧
    (s.flag F.POOL_CTL_EN k = true → p.inUse = false → p.waiting = [] → ∃ t, exec (.poolDisable m k) s = .next t ∧
      t.get F.POOL_CTL_EN k = 0 ∧ poolState t k = 0 ∧ t.pool k = ⟨[], [], [], []⟩) ∧
    (s.flag F.POOL_CTL_EN k = true → p.inUse = true → exec (.poolDisable m k) s = .next (s.reject m.toNat (R.POOL_CTL.addr k 0))) ∧
    (s.flag F.BUF_AUDIT_EN = true → s.flag F.BUF_AUDIT_STATUS_SWEEP = false →
      s.passedUs ((lookup s.timers auditTimer).getD 0) (1000 * max 1 (s.get F.BUF_AUDIT_PERIOD)) = true → (∀ j, j < 17 → (s.pool j).words = []) →
      exec .auditSweepStart s = .next { s.set F.BUF_AUDIT_STATUS_SWEEP 1 with timers := place s.timers auditTimer s.ticks }) ∧
    (s.flag F.BUF_AUDIT_STATUS_SWEEP = true → (∀ j, j < 17 → poolState s j < 2) →
      exec .auditSweepEnd s = .next (s.set F.BUF_AUDIT_STATUS_SWEEP 0)) ∧
    (s.flag F.BUF_AUDIT_STATUS_SWEEP = false → exec .auditSweepEnd s = .next s) ∧
    (lookup p.words buf.toNat = some w → w.alloc = true →
      (w.age = false → lookup ((auditBuffer k false s buf.toNat).pool k).words buf.toNat = some { w with age := true }) ∧
      (w.age = true → s.flag F.BUF_AUDIT_RECLAIM = false → (auditBuffer k false s buf.toNat).get F.POOL_CNT_LEAK_COUNT k =
        min (s.get F.POOL_CNT_LEAK_COUNT k + 1) (2 ^ F.POOL_CNT_LEAK_COUNT.width - 1)) ∧
      auditBuffer k true s buf.toNat = s)

/-- Fabric time (R172 to R179, R185, R187 to R189): a tick adds 10 ns with the frequency adjustment, carries the fraction, and takes at most 200 ppm of a slew (its upsets wait with the others);
a read of the low word latches the others; SET, STEP and SLEW commit as they say, and are refused while a follower's time is its
upstream's. A reference or 1PPS that is lost clears its OK bit with an event; 1PPS_OUT is due when a tick or a step reaches its offset in a second, and
falls WIDTH µs later; too long without a SYNC a follower enters HOLDOVER. -/
def fabricTime : Prop :=
  ∀ (s : State) (m : MasterId), Regs.wf s.regs = true →
    let d := slewNow s.tm.slew
    let acc : Int := (s.tm.phase : Int) + signed 24 (s.get F.TIME_FREQ_ADJ) * 655360 + d * 16000000
    let ns := s.fabTime / 65536
    let lo := s.rdShadow R.TIME_SET_LO 0 0
    let hi := s.rdShadow R.TIME_SET_HI 0 0
    let amount : Int := signed 32 lo * 65536
    let st := tideState s
    let us := max 1 (s.get F.TIME_INT_HOLDCNT) * 2 ^ s.get F.TIME_INT_SYNCINT
    let ofs := s.get F.TIME_PPSOFS_NS % 1000000000
    let quiet := s.posts = [] ∧ s.upsets = [] ∧
      ∀ e ∈ s.clus, e.2.recov = none ∧ ∀ q ∈ (e.2.queues.getD 3 IssueQ.empty).mops, q.blocked = false
    (bootStage s ≠ 0 → quiet → ∃ t, exec (.aonTick []) s = .next t ∧ t.ticks = s.ticks + 1 ∧ t.tm.slew = s.tm.slew - d ∧
      t.fabTime = ((s.fabTime : Int) + 655360 + acc / 16000000000).toNat % 2 ^ 80 ∧ t.tm.phase = (acc % 16000000000).toNat ∧
      t.regs = s.regs ∧ t.mem = s.mem ∧ t.net = s.net ∧ t.tm.ppsDue = (s.tm.ppsDue || (s.flag F.TIME_PPSOUT_EN &&
        decide ((ns + 1000000000 - ofs) / 1000000000 < (t.fabTime / 65536 + 1000000000 - ofs) / 1000000000)))) ∧
    (bootStage s = 0 → s.clus = [] → s.posts = [] → ∀ u, exec (.aonTick u) s = .next { s with upsets := s.upsets ++ u }) ∧
    (-131072 ≤ d ∧ d ≤ 131072) ∧
    (∃ t, exec (.timeNowRead m) s = .next t ∧ t.out = .readData m.toNat (toBytes 4 (ns % 2 ^ 32)) :: s.out ∧
      t.rd R.TIME_NOW_HI 0 0 = ns / 2 ^ 32 % 2 ^ 32 ∧ t.rd R.TIME_NOW_FRAC 0 0 = s.fabTime % 65536 ∧ t.fabTime = s.fabTime) ∧
    (s.armed .time = true → st < 2 →
      (armedMode s = 1 → ∃ t, exec .timeSet s = .next t ∧ t.fabTime = (lo + hi <<< 32) * 65536 % 2 ^ 80 ∧ t.tm.slew = 0 ∧
        t.armed .time = false) ∧
      (armedMode s = 2 → 0 ≤ (s.fabTime : Int) + amount → ∃ t, exec .timeStep s = .next t ∧
        t.fabTime = ((s.fabTime : Int) + amount).toNat % 2 ^ 80 ∧ t.tm.slew = 0 ∧ t.armed .time = false) ∧
      (armedMode s = 3 → 0 ≤ (s.fabTime : Int) + amount → ∃ t, exec .timeSlew s = .next t ∧ t.fabTime = s.fabTime ∧
        t.tm.slew = amount * 1000 ∧ t.armed .time = false)) ∧
    (s.armed .time = true → 2 ≤ st →
      (armedMode s = 1 → exec .timeSet s = .next (commitRefused .time s)) ∧ (armedMode s = 2 → exec .timeStep s = .next (commitRefused .time s)) ∧
      (armedMode s = 3 → exec .timeSlew s = .next (commitRefused .time s))) ∧
    (st = 2 ∨ st = 3 → s.passedUs s.tm.syncAt us = true → ∃ t, exec .holdoverEntry s = .next t ∧ tideState t = 4 ∧ t.tm.slew = 0) ∧
    (st < 2 → exec .holdoverEntry s = .next s) ∧
    (s.get F.TIME_CTL_SRC ≠ 2 → ∃ t, exec .ppsEdge s = .next t ∧ t.get F.TIME_STATUS_PPSOK = 1 ∧ t.rd R.TIME_PPSIN_LO 0 0 = ns % 2 ^ 32 ∧
      t.rd R.TIME_PPSIN_HI 0 0 = ns / 2 ^ 32 % 2 ^ 32 ∧ t.tm.ppsAt = s.ticks ∧ t.fabTime = s.fabTime ∧ t.tm.slew = s.tm.slew) ∧
    (s.flag F.TIME_STATUS_REFOK = true → exec .refLoss s = .next ((s.set F.TIME_STATUS_REFOK 0).event 4 2 0 0 [])) ∧
    (s.flag F.TIME_STATUS_REFOK = false → exec .refLoss s = .next s) ∧
    (∃ t, exec .ref10mRestore s = .next t ∧ t.get F.TIME_STATUS_REFOK = 1 ∧ onlyRegs s t ∧ othersKept s t 0 [R.TIME_STATUS]) ∧
    (s.flag F.TIME_STATUS_PPSOK = true → s.passedUs s.tm.ppsAt 1100000 = true →
      exec .ppsLoss s = .next ((s.set F.TIME_STATUS_PPSOK 0).event 4 3 0 0 [])) ∧
    (s.flag F.TIME_PPSOUT_EN = true → s.tm.ppsDue = true →
      exec .ppsOutRise s = .next { s with tm.ppsOut := true, tm.ppsDue := false, tm.ppsRose := s.ticks }) ∧
    (s.tm.ppsDue = false → exec .ppsOutRise s = .next s) ∧
    (s.tm.ppsOut = true → s.passedUs s.tm.ppsRose (max 1 (s.get F.TIME_PPSOUT_WIDTH)) = true →
      exec .ppsOutFall s = .next { s with tm.ppsOut := false }) ∧
    (s.tm.ppsOut = false → exec .ppsOutFall s = .next s)

/-- Tide messages (R180 to R184): the message engine sends SYNC from a grandmaster every 2^SYNCINT µs; a follower takes the SYNC of its upstream port and domain and rejects
another; a DREQ on a tide port is answered with DRESP, which repeats its number and carries its time of arrival; a DRESP that answers
the last DREQ, and is the first since its SYNC, gives the offset and the delay, and in ACQUIRE an offset of at most 1 µs is slewed out. -/
def tideMessages : Prop :=
  ∀ (s : State) (i : BitVec 8) (id : Nat) (k : Pkt) (p t1 t2 t3 : Nat), Regs.wf s.regs = true → s.upsets = [] →
    let st := tideState s
    let sent := fun (t : State) (port : Nat) (payload : List Byte) => ∃ e, t.queue port 8 = s.queue port 8 ++ [e] ∧
      e.pkt = s.net.nextPkt ∧ (t.pkt e.pkt).map Pkt.payload = some payload
    (st = 1 → s.passedUs s.tm.sendAt (2 ^ s.get F.TIME_INT_SYNCINT) = true →
      (List.range 512).filter (fun q => tidePort s q && portState s q == 5) = [p] →
      ∃ t, exec .syncSend s = .next t ∧ t.tm.syncSeq = s.tm.syncSeq + 1 ∧ t.tm.sendAt = s.ticks ∧
        sent t p (tidePayload 1 (s.get F.TIME_CTL_DOMAIN) 0 (s.tm.syncSeq + 1) 0 (s.get F.FWD_SELF_ID))) ∧
    (st = 0 → exec .syncSend s = .next s) ∧
    (devRxAt s i.toNat = some (id, k) → kindOf k.hdr = .tide → k.cells = [] → k.coll = none →
      (tideField k 0 8 = 1 → 2 ≤ st → st ≤ 3 → k.port = s.get F.TIME_CTL_UPPORT → tideField k 8 8 = s.get F.TIME_CTL_DOMAIN →
        tideField k 144 20 ≠ s.get F.FWD_SELF_ID → tideField k 16 4 ≤ 14 →
        ∃ t, exec (.sync i) s = .next t ∧ t.tm.sync = some (tideField k 64 80, k.rxAt) ∧ t.tm.syncAt = s.ticks ∧
          t.get F.TIME_STATUS_STEPS = tideField k 16 4 + 1 ∧ t.get F.TIME_GMID_ID = tideField k 144 20 ∧ tideState t = st ∧
          t.get F.TIME_CNT_SYNCRX_COUNT = min (s.get F.TIME_CNT_SYNCRX_COUNT + 1) (2 ^ F.TIME_CNT_SYNCRX_COUNT.width - 1)) ∧
      (tideField k 0 8 = 1 → tideField k 8 8 ≠ s.get F.TIME_CTL_DOMAIN →
        ∃ t, exec (.sync i) s = .next t ∧ t.tm = s.tm ∧ t.fabTime = s.fabTime ∧
          t.get F.TIME_CNT_REJECT_COUNT = min (s.get F.TIME_CNT_REJECT_COUNT + 1) (2 ^ F.TIME_CNT_REJECT_COUNT.width - 1)) ∧
      (tideField k 0 8 = 2 → tidePort s k.port = true → tideField k 8 8 = s.get F.TIME_CTL_DOMAIN → st = 1 →
        ∃ t, exec (.dreq i) s = .next t ∧ sent t k.port (tidePayload 3 (s.get F.TIME_CTL_DOMAIN) (s.get F.TIME_STATUS_STEPS)
          (tideField k 32 32) k.rxAt (s.get F.FWD_SELF_ID))) ∧
      (tideField k 0 8 = 3 → s.tm.paired = some (t1, t2) → s.tm.dreqSent = some t3 → st = 2 →
        tideField k 32 32 = s.tm.dreqSeq % 2 ^ 32 →
        let back := timeDiff t2 t1
        let forth := timeDiff (tideField k 64 80) t3
        let off := wrapTime (wrapTime (back - forth) / 2 - signed 32 (s.get F.TIME_ASYM_ASYM) * 256);
        -65536000 ≤ off ∧ off ≤ 65536000 →
        ∃ t, exec (.dresp i) s = .next t ∧ t.rd R.TIME_OFFSET 0 0 = unsigned 32 (off / 256) ∧
          t.rd R.TIME_DELAY 0 0 = unsigned 32 (wrapTime (back + forth) / 2 / 256) ∧ t.tm.slew = -off * 1000 ∧ t.tm.paired = none ∧ t.fabTime = s.fabTime)) ∧
    (∀ a b, a < 2 ^ 79 → b < 2 ^ 79 → timeDiff a b = (a : Int) - (b : Int))

/-- Fabric time and tide messages: `fabricTime`, `tideMessages`. -/
def Obligations.TimeAndTide : Prop := fabricTime ∧ tideMessages

/-! Cue engines and collectives. -/

/-- Cue engines (R191 to R195, R206, R584): the next entry of an enabled engine is taken when its time is reached, moves the engine to the entry after it, counts as
fired and carries out its action; one whose target cannot act is counted too; before its time nothing happens. A late entry is
counted, and with LATESKIP not fired. A berth engine does not
act while its lane groups sleep (R196). A one-time release sets its flag when its time comes (R204). A SET_FLAG of a cluster engine sets its cluster's flag. Enabling and disabling write EN. -/
def Obligations.CueEngines : Prop :=
  ∀ (s t : State) (e : EngineId) (o : CueRelease), Regs.wf s.regs = true → s.upsets = [] →
    let q := s.cue e
    let time := cueTime s e q.idx q.rep
    let due := s.flag F.CUE_CTL_EN e = true ∧ s.flag F.CUE_STATUS_DONE e = false ∧ cueHas s e q.idx = true ∧ q.once = [] ∧
      q.broken = false ∧ (e.val < 100 ∨ berthAwake s (e.val - 100) = true)
    let moved := cueWrap e (cueAt e (q.idx + 1) q.rep (s.setCue e { q with predAt := time * 65536 }))
    let fired := moved.bump F.CUE_CNT_FIRED_COUNT 1 e
    let act := cueAct moved e q.idx
    (due → time ≤ s.nowNs → q.predAt ≤ time * 65536 →
      (cueAction e act fired = (true, t) → exec (.cueEntryDue e) s = .next t) ∧
      (cueAction e act fired = (false, t) → exec (.cueEntryDue e) s = .next (t.bump F.CUE_CNT_NOTARGET_COUNT 1 e))) ∧
    (due → s.nowNs < time → exec (.cueEntryDue e) s = .next s) ∧
    (s.flag F.CUE_CTL_EN e = false → q.once = [] → exec (.cueEntryDue e) s = .next s) ∧
    (100 ≤ e.val → q.once = [] → berthAwake s (e.val - 100) = false → exec (.cueEntryDue e) s = .next s) ∧
    (s.flag F.CUE_CTL_EN e = false → q.once = [o] → s.nowNs < o.time → exec (.cueEntryDue e) s = .next s) ∧
    (s.flag F.CUE_CTL_EN e = false → q.once = [o] → o.time ≤ s.nowNs →
      let gone := s.setCue e { q with once := [] }
      (o.late = false → cluPresent gone o.cluster = true →
        exec (.cueEntryDue e) s = .next (setFlag o.cluster o.flag (wakeCluster o.cluster gone))) ∧
      (o.late = false → cluPresent gone o.cluster = false →
        exec (.cueEntryDue e) s = .next (gone.bump F.CUE_CNT_NOTARGET_COUNT 1 e))) ∧
    (due → time ≤ s.nowNs → time * 65536 < q.predAt → s.flag F.CUE_CTL_LATESKIP e = true →
      ∃ u, exec (.cueEntryDue e) s = .next u ∧ u.clus = s.clus ∧ u.get F.CUE_CNT_FIRED_COUNT e = s.get F.CUE_CNT_FIRED_COUNT e ∧
        u.get F.CUE_CNT_LATE_COUNT e = min (s.get F.CUE_CNT_LATE_COUNT e + 1) (2 ^ F.CUE_CNT_LATE_COUNT.width - 1)) ∧
    (∀ f, f < 256 → e.val < 80 → cluState s e = 5 → (s.clu e).governor f = none → (s.clu e).flagWaits = [] →
      ((cueAction e (2 + 256 * f) s).2.clu e).flag f = true ∧ (cueAction e (2 + 256 * f) s).1 = true) ∧
    (e.val < 80 ∨ 100 ≤ e.val →
      (s.flag F.CUE_CTL_EN e = false → ∃ u, exec (.cueEnable e) s = .next u ∧ u.get F.CUE_CTL_EN e = 1 ∧ (u.cue e).predAt = s.fabTime ∧
        u.clus = s.clus ∧ u.mem = s.mem) ∧
      (s.flag F.CUE_CTL_EN e = true → ∃ u, exec (.cueDisable e) s = .next u ∧ u.get F.CUE_CTL_EN e = 0 ∧ onlyRegs s u ∧
        othersKept s u e [R.CUE_CTL])) ∧
    (s.flag F.CUE_CTL_EN e = true → exec (.cueEnable e) s = .next s) ∧
    (s.flag F.CUE_CTL_EN e = false → exec (.cueDisable e) s = .next s)

/-- A context with no chunk in flight, no packet that waits, none queued at its engine, and no CLUSTER member. -/
abbrev collQuiet (s : State) (x : CtxId) : Prop :=
  let g := s.coll x
  g.inflight = [] ∧ g.waiting = [] ∧ lookup s.net.injq g.owner = none ∧ ∀ m ∈ g.members, m.kind ≠ 1

/-- The context ABORTs with a status, a DETAIL and a list of ranks (R236, R237). -/
abbrev aborts (t : State) (x : CtxId) (status detail : Nat) (ranks : List Nat) : Prop :=
  collState t x = 5 ∧ (t.coll x).outcome = some (status, detail, ranks) ∧ (t.coll x).inflight = [] ∧ (t.coll x).data = []

/-- An instance has ended (R221, R230): its record, the next step value, IDLE. -/
abbrev ended (s t : State) (x : CtxId) (status detail : Nat) : Prop :=
  collState t x = 2 ∧ t.get F.COLL_LASTST_STATUS x = status ∧ t.get F.COLL_LASTST_DETAIL x = detail % 2 ^ 24 ∧
    t.get F.COLL_STEP_DONE x = s.get F.COLL_STEP_RUN x ∧ t.get F.COLL_STEP_RUN x = (s.get F.COLL_STEP_RUN x + 1) % 65536 ∧
    t.get F.COLL_CNT_INST_COUNT x = min (s.get F.COLL_CNT_INST_COUNT x + 1) (2 ^ 32 - 1)

/-- The life of a group and its instances (R215, R221 to R224, R230, R236, R237, R242): GROUP_CREATE takes a FREE context; a descriptor
that passes the checks makes it IDLE with its group, one that fails leaves it FREE; START makes a cued IDLE context RUNNING with its
job's seed and step; an abort, a timeout and a destroy of a RUNNING one lead to ABORTING and from there to IDLE; a drained one
ends; DESTROYING ends FREE. Stated where nothing is in flight or queued. -/
def Obligations.GroupLifecycle : Prop :=
  ∀ (s s1 s2 : State) (r : RingId) (i : BitVec 8) (d : Desc) (m : MasterId) (x : CtxId) (cmd : CmdRef) (addr len code status detail : Nat)
    (hb bs : List Byte) (ranks : List Nat) (v : Word), Regs.wf s.regs = true → Regs.wf s2.regs = true → s.upsets = [] →
    let g := s.coll x
    let desc := nthDesc s r i
    let hw := wordsOf hb
    let ws := wordsOf (bs.drop 64)
    let es := (List.range (ws.length / 4)).map fun i => (ws.drop (4 * i)).take 4
    let read := g.create = some (cmd, addr, len) ∧ collState s x = 1 ∧ memRead 0 addr 64 0 s = (.data hb, s1) ∧
      len = 64 + 16 * fieldOf (hw.getD 1 0).toNat 0 10 ∧ memRead 0 addr len 0 s1 = (.data bs, s2)
    (descReady s r i 5 d → d.word 1 % 4096 = x.val → collState s x = 0 → 64 ≤ d.word 4 →
      ∃ t, exec (.groupCreate r i) s = .next t ∧ collState t x = 1 ∧ (t.coll x).create = some (desc, d.pair 2 % 2 ^ 48, d.word 4)) ∧
    (descReady s r i 5 d → d.word 4 < 64 → exec (.groupCreate r i) s = .next (complete desc 2 0 4 [] (begun s r i d))) ∧
    (read → groupRefusal s2 x hw es = 0 → ∃ t, exec (.groupLoaded x) s = .next t ∧ collState t x = 2 ∧ (t.coll x).header = hw ∧
      (t.coll x).entries = es ∧ (t.coll x).create = none ∧ t.get F.COLL_STEP_RUN x = (groupHdr hw).step0 % 65536) ∧
    (read → groupRefusal s2 x hw es = code → code ≠ 0 → ∃ t, exec (.groupLoaded x) s = .next t ∧ collState t x = 0 ∧ (t.coll x).create = none) ∧
    (descReady s r i 6 d → d.word 1 % 4096 = x.val →
      (collState s x = 2 → g.early = [] → ∃ t, exec (.groupDestroy r i) s = .next t ∧ collState t x = 6 ∧ (t.coll x).destroy = some desc) ∧
      (collState s x = 3 → collQuiet s x → ∃ t, exec (.groupDestroy r i) s = .next t ∧ aborts t x 0x16 0 [] ∧ (t.coll x).destroy = some desc) ∧
      (collState s x = 0 → exec (.groupDestroy r i) s = .next (complete desc 1 0 0 [] (begun s r i d)))) ∧
    (collState s x = 6 → g.destroy = some cmd → ∃ t, exec (.destroyDone x) s = .next t ∧ collState t x = 0 ∧
      t.coll x = { Coll.initial with history := g.history } ∧ t.desc cmd = none) ∧
    (collState s x = 2 → g.hdr.cued = true → g.early = [] → (s.job g.hdr.job).past = [] →
      ∃ t, exec (.collStart m x) s = .next t ∧ collState t x = 3 ∧ (t.coll x).seed = (s.job g.hdr.job).seed ∧
        (t.coll x).step = (s.job g.hdr.job).step ∧ (t.coll x).since = s.ticks ∧ (t.coll x).arrived = [] ∧ (t.coll x).got = []) ∧
    (collState s x ≠ 2 ∨ g.hdr.cued = false → exec (.collStart m x) s = .next (s.reject m.toNat (R.COLL_CTL.addr x 0))) ∧
    (collState s x = 3 → collQuiet s x → ∃ t, exec (.collAbort x) s = .next t ∧ aborts t x 0x16 0 []) ∧
    (collState s x ≠ 3 → exec (.collAbort x) s = .next s) ∧
    (collState s x = 3 → collQuiet s x → g.hdr.tmo ≠ 0 → s.passedUs g.since g.hdr.tmo = true →
      let miss := missingRanks g;
      ∃ t, exec (.instanceTimeout x) s = .next t ∧ aborts t x 0x12 (miss.headD 0x3FF + (miss.length % 1024) <<< 10) miss) ∧
    (collState s x = 5 → g.outcome = some (status, detail, ranks) → lookup s.net.injq g.owner = none → g.destroy = none → g.early = [] →
      status < 256 → ∃ t, exec (.abortDone x) s = .next t ∧ ended s t x status detail ∧ (t.coll x).outcome = none) ∧
    (collState s x = 4 → g.replicas = 0 → g.fenced = [] → g.destroy = none → g.early = [] →
      ∃ t, exec (.drainDone x) s = .next t ∧ ended s t x 0 0) ∧
    (collState s x = 4 → g.replicas ≠ 0 → exec (.drainDone x) s = .next s) ∧
    (∃ t, exec (.collStragWrite x v) s = .next t ∧ t.get F.COLL_STRAG_WINDOW x = v.toNat % 2 ^ 7 ∧
      t.get F.COLL_STRAG_THRESH x = v.toNat / 256 % 2 ^ 7 ∧ t.get F.COLL_STRAG_CLRTHR x = v.toNat / 65536 % 2 ^ 7 ∧
      (t.coll x).history = [] ∧ t.get F.COLL_LASTIN_RECORDED x = 0 ∧ ∀ w, w < 19 → t.get F.COLL_SUSPECT_RANKS x w = 0)

/-- Packets of collectives (R217 to R220, R226, R229, R232, R233, R236, R238): an accepted contribution, partial or exact partial is recorded with its interval, and
waits where the window is full; one of another class is discarded with reason 6. A chunk whose data is complete sends its partial to
the parent, or its results to the receivers; an uncorrectable word aborts. A RESULT from the parent goes on to the
receivers; a CERR from a child or the parent aborts with its status. -/
def Obligations.CollectivePackets : Prop :=
  ∀ (s : State) (i : BitVec 12) (x : CtxId) (id : Nat) (k : Pkt) (f : Flight) (chunk : BitVec 32) (rank : BitVec 10) (child : Nat) (bs : List Byte) (s1 : State),
    Regs.wf s.regs = true → s.upsets = [] →
    let g := s.coll x
    let h := g.hdr
    let run := s.get F.COLL_STEP_RUN x
    let r := rankField k.payload
    let here := devRxAt s i.toNat = some (id, k) ∧ k.hdr.ctx.toNat = x.val ∧ collState s x = 3
    let plain := k.cells = [] ∧ k.coll = none ∧ k.owes = false
    let status := fieldOf (ofBytes (k.payload.take 8)) 0 8
    (∀ row : Instr × Kind, row ∈ [(.contrib i, .contrib), (.partial_ i, .partial_), (.xpartial i, .xpartial)] → here → kindOf k.hdr = row.2 →
      (k.hdr.cls.toNat = g.contribClass → k.hdr.step.toNat = run → acceptFault g k = none → mismatch h k.payload = 0 → h.oper ≠ 5 →
        g.flight (k.hdr.addr.toNat / h.dchunk g.express) = none → g.room = false →
        ∃ t, exec row.1 s = .next t ∧ (t.coll x).got = g.got ++ [(r, k.hdr.addr.toNat, dataLength h k)] ∧
          (t.coll x).waiting = g.waiting ++ [id] ∧ (t.coll x).inflight = g.inflight ∧ id ∉ t.net.devRx ∧ t.mem = s.mem) ∧
      (k.hdr.cls.toNat ≠ g.contribClass → plain →
        ∃ t, exec row.1 s = .next t ∧ (t.coll x).got = g.got ∧ t.get F.COLL_BADREC_REASON x = 6 ∧ id ∉ t.net.devRx ∧
          t.get F.COLL_CNT_BADPKT_COUNT x = min (s.get F.COLL_CNT_BADPKT_COUNT x + 1) (2 ^ 32 - 1))) ∧
    (collState s x = 3 → g.flight chunk.toNat = some f →
      (g.inflight = [f] → f.buf = none → h.pool = 0 → g.waiting = [] → lookup s.net.injq g.owner = none → (∀ m ∈ g.members, m.kind ≠ 1) →
        ∃ t, exec (.chunkCombined x chunk (some rank)) s = .next t ∧ aborts t x 0x14 rank.toNat []) ∧
      (f.upward = false → chunkComplete g chunk.toNat = true → (g.need = 0 ∨ f.buf.isSome = true) → h.hasParent = true →
        stagingRead x chunk.toNat s = (.data bs, s1) →
        ∃ t, exec (.chunkCombined x chunk none) s = .next t ∧ (t.coll x).flight chunk.toNat = some { f with buf := none, upward := true } ∧
          ((lookup s.net.injq g.owner).getD []).length < ((lookup t.net.injq g.owner).getD []).length) ∧
      (f.upward = false → chunkComplete g chunk.toNat = true → h.hasParent = false → g.express = true → h.oper = 5 → h.count = 0 →
        f.issued = 0 → f.buf = none → g.inflight = [f] → g.finished = [] → g.waiting = [] → g.fenced = [] → (∀ m ∈ g.members, m.kind ≠ 1) →
        ∃ t, exec (.chunkCombined x chunk none) s = .next t ∧ collState t x = 4 ∧ (t.coll x).finished = [chunk.toNat] ∧
          (t.coll x).replicas = g.replicas + (receivers g.members).length ∧
          ((lookup t.net.injq g.owner).getD []).length = ((lookup s.net.injq g.owner).getD []).length + (receivers g.members).length) ∧
      (chunkComplete g chunk.toNat = false → exec (.chunkCombined x chunk none) s = .next s)) ∧
    (here → kindOf k.hdr = .result → h.hasParent = true → k.hdr.src.toNat = h.parent → k.hdr.step.toNat = run → plain → h.oper ≠ 5 →
      (∀ m ∈ g.members, m.kind ≠ 1) → g.fenced = [] → g.flight (k.hdr.addr.toNat / h.dchunk g.express) = some f →
      f.replicated + k.payload.length < h.chunkLen g.express (k.hdr.addr.toNat / h.dchunk g.express) →
      ∃ t, exec (.result i) s = .next t ∧ (t.coll x).replicas = g.replicas + (receivers g.members).length ∧
        ((lookup t.net.injq g.owner).getD []).length = ((lookup s.net.injq g.owner).getD []).length + (receivers g.members).length ∧
        (t.coll x).flight (k.hdr.addr.toNat / h.dchunk g.express) = some { f with replicated := f.replicated + k.payload.length }) ∧
    (here → kindOf k.hdr = .result → h.hasParent = true → k.hdr.src.toNat = h.parent → k.hdr.step.toNat ≠ run → plain →
      ∃ t, exec (.result i) s = .next t ∧ t.coll x = g ∧ id ∉ t.net.devRx) ∧
    (here → kindOf k.hdr = .cerr → k.hdr.step.toNat = run → plain → collQuiet s x →
      ((List.range g.members.length).find? (fun r => (memberAt g.members r).kind == 2 && (memberAt g.members r).id == k.hdr.src.toNat) = some child →
        ∃ t, exec (.cerr i) s = .next t ∧ aborts t x 0x18 (child + status <<< 10) []) ∧
      ((List.range g.members.length).find? (fun r => (memberAt g.members r).kind == 2 && (memberAt g.members r).id == k.hdr.src.toNat) = none →
        h.hasParent = true → k.hdr.src.toNat = h.parent → ∃ t, exec (.cerr i) s = .next t ∧ aborts t x 0x17 status []))

/-! Stacks. -/

/-- The stacks (R439, R445 to R448, R451, R456 to R460): an access is judged and makes its read or write; a hit answers with the cached line and a miss with the
stack's bytes, a fenced pseudo-channel with an error. A patrol read moves on when its interval has passed; a temperature or a drift beyond its threshold
starts training on an idle stack, a re-centring takes its turn, and training ends READY when the last pseudo-channel has trained. A written fence takes effect. WRITEBACK, INVALIDATE,
UNPROTECT and DISCARD act on the cached lines of their pages. -/
def Obligations.Stacks : Prop :=
  ∀ (s s1 : State) (m : MasterId) (n : StackId) (p : Fin 32) (off : BitVec 36) (len : BitVec 13) (hint : BitVec 2) (data bs : List Byte)
    (cause line : Nat) (temp d : Byte) (c : CacheLine) (rest : List Nat), s.wf = true → s.upsets = [] → issued m = true →
    let k := s.stack n
    let a := n.val * 2 ^ 36 + off.toNat
    let base := s.get F.STK_TRAIN_TEMP n
    let delta := max 1 (s.get F.STK_RECENTRE_TEMPDELTA n)
    let thr : Int := (s.get F.STK_RECENTRE_DRIFTTHR n : Nat)
    let st := s.get F.STK_STATUS_STATE n
    let idle := k.training = [] ∧ 2 ≤ st ∧ st ≤ 4 ∧ livePchs s n ≠ []
    let next := if stackBytes s ≤ k.scrub + 64 then 0 else k.scrub + 64
    let training := fun (t : State) (ps : List Nat) =>
      (t.stack n).training = ps ∧ t.get F.STK_TRAIN_BUSY n = 1 ∧ t.get F.STK_STATUS_STATE n = 3
    (data ≠ [] → writeParts regPut m.toNat hint.toNat (accParts s a data.length false) data s = (.data bs, s1) →
      exec (.stackAccess m n off len hint (some data)) s = .next s1) ∧
    (len ≠ 0 → readParts regBytes m.toNat hint.toNat (accParts s a len.toNat false) s = (.data bs, s1) →
      exec (.stackAccess m n off len hint none) s = .next (s1.emit (.readData m.toNat bs))) ∧
    (len ≠ 0 → readParts regBytes m.toNat hint.toNat (accParts s a len.toNat false) s = (.refused cause, s1) →
      (prompterMaster m.toNat = none → exec (.stackAccess m n off len hint none) s = .next (s1.emit (.refusal m.toNat cause false))) ∧
      (∀ c, prompterMaster m.toNat = some c →
        exec (.stackAccess m n off len hint none) s = .next { s1 with posts := s1.posts ++ [.trap c a] })) ∧
    (offFenced s n (line * 64) = false → lookup k.lines line = some c → (lineRead n line hint.toNat s).1 = some c.data) ∧
    (offFenced s n (line * 64) = false → lookup k.lines line = none →
      (lineRead n line hint.toNat s).1 = some (memBytes s.mem (stackKey n (line * 64)) 64)) ∧
    (offFenced s n (line * 64) = true → (lineRead n line hint.toNat s).1 = none) ∧
    exec (.refresh n p) s = .next s ∧
    (s.get F.STK_SCRUB_INTERVAL n ≠ 0 → s.get F.STK_SCRUB_INTERVAL n ≤ 10 * s.elapsed k.scrubAt →
      exec (.scrubRead n []) s = .next (s.setStack n { k with scrub := next, scrubAt := s.ticks })) ∧
    (s.get F.STK_SCRUB_INTERVAL n = 0 ∨ 10 * s.elapsed k.scrubAt < s.get F.STK_SCRUB_INTERVAL n → exec (.scrubRead n []) s = .next s) ∧
    (temp.toNat ≤ base + delta → base ≤ temp.toNat + delta → ∃ t, exec (.stackTempRead n temp) s = .next t ∧ onlyRegs s t ∧
      t.get F.STK_STATUS_TEMP n = temp.toNat ∧ t.get F.STK_STATUS_HOT n = (if 85 < temp.toNat then 1 else 0) ∧ othersKept s t n [R.STK_STATUS]) ∧
    (base + delta < temp.toNat → idle → ∃ t, exec (.stackTempRead n temp) s = .next t ∧
      t.get F.STK_STATUS_TEMP n = temp.toNat ∧ training t (livePchs s n)) ∧
    (2 ≤ st → st ≤ 4 → recentreDue n p s = true →
      (d.toInt ≤ thr → -thr ≤ d.toInt → ∃ t, exec (.recentre n p d) s = .next t ∧ onlyRegs (recentreNext n p s) t ∧
        t.get F.STK_PCH_DRIFT n p = unsigned 8 d.toInt) ∧
      (thr < d.toInt ∨ d.toInt < -thr → k.training.contains p.val = false → ∃ t, exec (.recentre n p d) s = .next t ∧
        training t (k.training ++ [p.val]) ∧ t.get F.STK_CNT_DRIFT_COUNT n = min (s.get F.STK_CNT_DRIFT_COUNT n + 1) (2 ^ 32 - 1))) ∧
    (recentreDue n p s = false → exec (.recentre n p d) s = .next s) ∧
    (s.flag F.STK_PCH_FENCED n p = false → k.turn = p.val → k.turn ≠ 0 → recentreDue n p s = true) ∧
    (idle → ∃ t, exec (.retrainRequest n) s = .next t ∧ training t (livePchs s n) ∧ (t.stack n).whole = true) ∧
    (k.training ≠ [] → exec (.retrainRequest n) s = .next s) ∧
    (k.training = p.val :: rest → rest ≠ [] → ∃ t, exec (.pchRetrainDone n true) s = .next (claimAll (retryHeld t)) ∧ (t.stack n).training = rest ∧
      t.get F.STK_PCH_DRIFT n p = 0 ∧ t.get F.STK_TRAIN_BUSY n = s.get F.STK_TRAIN_BUSY n) ∧
    (k.training = [p.val] → k.whole = true → s.flag F.STK_TRAIN_BUSY n = true → s.get F.STK_FENCE_MASK n = 0 → ∃ t, exec (.pchRetrainDone n true) s = .next (claimAll (retryHeld t)) ∧
      (t.stack n).training = [] ∧ (t.stack n).whole = false ∧ t.get F.STK_TRAIN_BUSY n = 0 ∧ t.get F.STK_STATUS_STATE n = 2 ∧
      t.get F.STK_TRAIN_TEMP n = s.get F.STK_STATUS_TEMP n) ∧
    (s.flag F.STK_PCH_FENCED n p = false → st ≠ 5 → s.flag F.STK_TRAIN_BUSY n = false → k.lines = [] → ∃ t, exec (.stkFenceWrite n (BitVec.ofNat 32 (2 ^ p.val))) s = .next t ∧
      t.get F.STK_PCH_FENCED n p = 1 ∧ t.get F.STK_STATUS_STATE n = 4 ∧ t.get F.STK_FENCE_MASK n = s.get F.STK_FENCE_MASK n ||| 2 ^ p.val) ∧
    (s.flag F.STK_CACHEOP_BUSY n = false → k.lines = [(line, c)] → inCacheOp s n line = true → c.dirty = true → c.data.length = 64 →
      let written := fun (t : State) => (∀ j, j < 64 → memByte t.mem (stackKey n (line * 64) + j) = c.data.getD j 0) ∧
        memSame s t [(stackKey n (line * 64), 64)] ∧ t.get F.STK_CNT_WB_COUNT n = min (s.get F.STK_CNT_WB_COUNT n + 1) (2 ^ 32 - 1)
      let busy := fun (t : State) => t.get F.STK_CACHEOP_BUSY n = 1;
      (∃ t, exec (.writeback m n) s = .next t ∧ busy t ∧ written t ∧ (t.stack n).lines = [(line, { c with dirty := false })]) ∧
      (∃ t, exec (.invalidate m n) s = .next t ∧ busy t ∧ written t ∧ (t.stack n).lines = []) ∧
      (∃ t, exec (.unprotect m n) s = .next t ∧ busy t ∧ t.mem = s.mem ∧ (t.stack n).lines = [(line, { c with prot := false })]) ∧
      (∃ t, exec (.discard m n) s = .next t ∧ busy t ∧ t.mem = s.mem ∧ (t.stack n).lines = [] ∧
        t.get F.STK_CNT_LASTDROP_COUNT n = min (s.get F.STK_CNT_LASTDROP_COUNT n + 1) (2 ^ 32 - 1))) ∧
    (s.flag F.STK_CACHEOP_BUSY n = true → exec (.writeback m n) s = .next (s.reject m.toNat (R.STK_CACHEOP.addr n 0)) ∧
      exec (.cacheopDone n) s = .next (s.set F.STK_CACHEOP_BUSY 0 n)) ∧
    (s.flag F.STK_CACHEOP_BUSY n = false → exec (.cacheopDone n) s = .next s)

/-! Host interface. -/

/-- Rings, events and the PCIe endpoint (R463 to R475, R485 to R488, R544, R545): a doorbell in range moves its pointer, one out of range is counted; the descriptor at the
head of the ring whose turn it is joins those outstanding; enabling a ring with good sizes starts it afresh; a queued event goes to the event ring and leaves the
queue; link-down disables every ring and clears the event queue; PERST resets the MSI-X table; the link trains when out of reset. -/
def Obligations.Rings : Prop :=
  ∀ (s : State) (m : MasterId) (r : RingId) (v : BitVec 16) (words : Vector Word 16) (e : EventRec) (rest : List EventRec) (word : BitVec 14)
    (w : Word) (reg : BitVec 10) (gen : BitVec 3) (width : BitVec 4) (status : BitVec 32), Regs.wf s.regs = true → s.upsets = [] →
    let x := s.ring r
    let on := s.flag F.HIF_RCFG_EN 0 r = true
    let bad := fun (u : State) (ring : Nat) => (u.bump F.HIF_CNT_BADDB_COUNT).event 0x0D 1 0 ring [ring, v.toNat]
    let good := fun (n : Nat) => 4 ≤ n ∧ n ≤ 16
    (on → (v.toNat < sqSize s r → exec (.sqDoorbell r v) s = .next (s.setRing r { x with tail := v.toNat })) ∧
      (sqSize s r ≤ v.toNat → exec (.sqDoorbell r v) s = .next (bad (s.set F.HIF_RSTATUS_BADDB 1 0 r) r)) ∧
      (v.toNat < cqSize s r → exec (.cqDoorbell r v) s = .next (s.setRing r { x with cqHead := v.toNat })) ∧
      (cqSize s r ≤ v.toNat → exec (.cqDoorbell r v) s = .next (bad (s.set F.HIF_RSTATUS_BADDB 1 0 r) r))) ∧
    (¬ on → exec (.sqDoorbell r v) s = .next s ∧ exec (.cqDoorbell r v) s = .next s) ∧
    (s.flag F.HIF_EVQ_CFG_EN = true → v.toNat < evSize s → exec (.evqDoorbell v) s = .next { s with hif.ev.head := v.toNat }) ∧
    (s.flag F.HIF_EVQ_CFG_EN = true → evSize s ≤ v.toNat → exec (.evqDoorbell v) s = .next (bad s 64)) ∧
    (nextRing s = some r.val → ∃ t, exec (.descriptorFetch r words) s = .next t ∧
      (t.ring r).out = x.out ++ [⟨x.serial, x.head, words.toList, false, s.ticks, 0, 0, []⟩] ∧ (t.ring r).head = (x.head + 1) % sqSize s r ∧
      t.hif.lastRing = r ∧ t.regs = s.regs) ∧
    (nextRing s ≠ some r.val → exec (.descriptorFetch r words) s = .next s) ∧
    (nextRing s = some r.val → on ∧ x.stopped = false ∧ x.head ≠ x.tail ∧ x.out.length < 256) ∧
    (¬ on → x.out = [] → good (s.get F.HIF_RCFG_SQLOG2 0 r) → good (s.get F.HIF_RCFG_CQLOG2 0 r) →
      ∃ t, exec (.ringEnable m r) s = .next t ∧ t.get F.HIF_RCFG_EN 0 r = 1 ∧ t.ring r = { RingSt.initial with serial := x.serial }) ∧
    (¬ on → x.out ≠ [] → s.flag F.ERR_CFG_REJECT = false → ∃ t, exec (.ringEnable m r) s = .next t ∧ t.get F.HIF_RCFG_EN 0 r = 0 ∧
      t.get F.ERR_CFG_REJECT = 1) ∧
    (∃ t, exec (.ringDisable r) s = .next t ∧ t.get F.HIF_RCFG_EN 0 r = 0 ∧ onlyRegs s t) ∧
    (∃ t, exec (.hostMemoryError r true status) s = .next t ∧ (t.ring r).stopped = true ∧ (t.ring r).mute = x.mute ∧
      t.get F.HIF_CNT_HOSTERR_COUNT = min (s.get F.HIF_CNT_HOSTERR_COUNT + 1) (2 ^ 32 - 1)) ∧
    (s.flag F.HIF_EVQ_CFG_EN = false → good (s.get F.HIF_EVQ_CFG_LOG2) → ∃ t, exec (.evqEnable m true) s = .next t ∧
      t.get F.HIF_EVQ_CFG_EN = 1 ∧ t.hif.ev = ⟨false, 0, 0, true, 0, 0⟩) ∧
    (s.events.items = e :: rest → s.events.gap = 0 → s.flag F.HIF_EVQ_CFG_EN = true → (s.hif.ev.tail + 1) % evSize s ≠ s.hif.ev.head →
      ∃ t, exec .eventWrite s = .next t ∧ t.events.items = rest ∧ t.hif.ev.tail = (s.hif.ev.tail + 1) % evSize s ∧
        .hostWrite (s.get F.HIF_EVQ_BASE_LO_ADDR <<< 12 + s.get F.HIF_EVQ_BASE_HI_ADDR <<< 32 + 64 * s.hif.ev.tail)
          (eventBytes e s.hif.ev.phase) ∈ t.out) ∧
    (s.events.items = [] → exec .eventWrite s = .next s) ∧
    (s.get F.HIF_RMOD_TIMER 0 r ≠ 0 → x.unsignalled ≠ 0 → s.passedUs x.oldest (s.get F.HIF_RMOD_TIMER 0 r) = true →
      ∃ t, exec (.interruptTimer (some r)) s = .next t ∧ (t.ring r).unsignalled = 0 ∧
        (msixWord s (4 * s.get F.HIF_RCFG_VECTOR 0 r + 3) % 2 = 0 → t.out = .msix (s.get F.HIF_RCFG_VECTOR 0 r) :: s.out) ∧
        (msixWord s (4 * s.get F.HIF_RCFG_VECTOR 0 r + 3) % 2 = 1 → s.get F.HIF_RCFG_VECTOR 0 r ∈ t.hif.pending)) ∧
    (∃ t, exec .pcieLinkDown s = .next t ∧ t.hif.linkUp = false ∧ t.events.items = [] ∧ t.get F.HIF_EVQ_CFG_EN = 0 ∧
      (∀ q, q < 64 → t.get F.HIF_RCFG_EN 0 q = 0) ∧ t.mem = s.mem ∧ t.clus = s.clus) ∧
    (∃ t, exec .perst s = .next t ∧ t.hif.inReset = true ∧ t.hif.linkUp = false ∧ t.hif.msix = [] ∧ t.hif.pending = []) ∧
    exec .perstRelease s = .next { s with hif.inReset := false } ∧
    (s.hif.inReset = false → bootStage s ≠ 0 →
      (1 ≤ gen.toNat → gen.toNat ≤ 5 → width.toNat ∈ [1, 2, 4, 8] → ∃ t, exec (.pcieLinkUp gen width) s = .next t ∧ t.hif.linkUp = true ∧
        t.get F.HIF_STATUS_GEN = gen.toNat ∧ t.get F.HIF_STATUS_WIDTH = width.toNat) ∧
      exec (.configRequest true reg w) s = .next (s.emit (.answer 4 [])) ∧
      (∃ t bs, exec (.configRequest false reg w) s = .next t ∧ t.out = .answer 4 bs :: s.out ∧ bs.length = 4 ∧ t.regs = s.regs)) ∧
    (s.hif.inReset = true → exec (.pcieLinkUp gen width) s = .next s) ∧
    (word.toNat < 1024 → exec (.msixTableAccess false word w) s = .next (s.emit (.readData 0 (toBytes 4 (msixWord s word.toNat)))) ∧
      (word.toNat % 4 ≠ 3 → ∃ t, exec (.msixTableAccess true word w) s = .next t ∧ msixWord t word.toNat = w.toNat ∧ t.out = s.out))

/-- Descriptors that the host interface carries out (R477 to R484, R520, R553, R554), each when it may start and has no reserved bit: REMAP moves the window; a batch makes its record's write and completes; a POLL goes on when its register matches, stays while it
does not, and times out; COPY moves its bytes either way; FENCE and UNFENCE set and clear exactly the bits of their range; TELEMETRY_READ
writes the register it reads to the host; CAL_READ writes the set's bytes; CAL_WRITE holds the flash, and on a good read-back leaves the
new contents; ATTEST writes the response. -/
def Obligations.HostDescriptors : Prop :=
  ∀ (s s1 : State) (r : RingId) (i : BitVec 8) (d : Desc) (records : List Word) (host bs : List Byte) (resp : SpdmResp) (stage : Nat)
    (q : SpdmReq) (s2 : State), s.wf = true → rising none s.net.epFence = true →
    let cmd := nthDesc s r i
    let b := begun s r i d
    let fresh := d.progress = 0 ∧ d.tally = 0
    let w := fun (l : List Word) (rec_ j : Nat) => (l.getD (4 * rec_ + j) 0).toNat
    let loaded := mapDesc cmd (fun d => { d with data := records }) b
    let at_ := s.desc cmd = some d ∧ d.started = true
    let poll := at_ ∧ d.word 0 % 256 = 4 ∧ d.tally = 0 ∧ d.progress + 1 = d.word 4 ∧ 4 * (d.progress + 1) ≤ d.data.length ∧
      w d.data d.progress 0 % 16 = 3 ∧ w d.data d.progress 1 % 4 = 0 ∧
      batchRead (w d.data d.progress 1 % 2 ^ 26) s = (.data bs, s1)
    let hits := ofBytes bs &&& w d.data d.progress 3 = w d.data d.progress 2 &&& w d.data d.progress 3
    let range := d.word 2 ≤ d.word 3
    let base := calBase + 4096 * (calSectors d).1
    let isIn := fun (p : Nat) => decide (d.word 2 ≤ p ∧ p ≤ d.word 3)
    (descReady s r i 0x0E d → d.pair 2 % 4096 = 0 → d.pair 2 + 2 ^ 33 ≤ 2 ^ 48 →
      exec (.remap r i) s = .next (complete cmd 0 0 0 [] ((b.set F.HIF_WIN_LO_BASE (d.pair 2 / 4096)).set F.HIF_WIN_HI_BASE (d.pair 2 / 2 ^ 32))) ∧
      ∃ t, exec (.remap r i) s = .next t ∧ winBase t = d.pair 2) ∧
    (descReady s r i 0x0E d → d.pair 2 % 4096 ≠ 0 → exec (.remap r i) s = .next (complete cmd 2 0 2 [] b)) ∧
    (descReady s r i 4 d → fresh → d.word 4 = 1 → records.length = 4 → w records 0 0 % 16 = 1 → w records 0 1 % 4 = 0 →
      batchWrite (w records 0 1 % 2 ^ 26) (w records 0 2) loaded = (.data bs, s1) → s1.desc cmd = loaded.desc cmd →
      ∃ t, exec (.cfgBatch r i records) s = .next t ∧ t.desc cmd = none ∧ t.mem = s1.mem ∧ t.regs = s1.regs) ∧
    (poll → s1.desc cmd = s.desc cmd → hits → ∃ t, exec (.poll r i) s = .next t ∧ t.desc cmd = none ∧ t.regs = s1.regs ∧ t.mem = s1.mem) ∧
    (poll → ¬ hits → ∃ t, exec (.poll r i) s = .next t ∧ t.desc cmd = some d ∧ t.regs = s.regs ∧ t.mem = s.mem) ∧
    (poll → ¬ hits → s.passedUs d.since (max 1 (w d.data d.progress 0 / 65536)) = true →
      exec (.pollTimeout r i) s = .next (complete cmd 9 0 d.progress [d.progress] (setDesc cmd d s))) ∧
    (descReady s r i 7 d → fresh → accParts b (d.pair 4) (d.word 6) true = [(d.pair 4, d.word 6)] →
      ((d.word 1).testBit 0 = false → host.length = d.word 6 →
        writeParts regPut 0 (fieldOf (d.word 1) 1 2) [(d.pair 4, d.word 6)] host b = (.data bs, s1) →
        ∃ t, exec (.copy r i host none) s = .next t ∧ t.desc cmd = none ∧ t.mem = s1.mem) ∧
      ((d.word 1).testBit 0 = true → readParts regBytes 0 (fieldOf (d.word 1) 1 2) [(d.pair 4, d.word 6)] b = (.data bs, s1) →
        ∃ t, exec (.copy r i host none) s = .next t ∧ t.desc cmd = none ∧ .hostWrite (d.pair 2) bs ∈ t.out)) ∧
    (∀ row : Instr × Nat × (Bool → Bool → Bool), row ∈ [(.fence r i, 8, fun old x => old || x), (.unfence r i, 9, fun old x => old && !x)] →
      descReady s r i row.2.1 d → fresh → range →
      ((d.word 1).testBit 0 = false → (d.word 1).testBit 1 = false → d.word 3 ≤ 511 → ∃ t, exec row.1 s = .next t ∧ t.desc cmd = none ∧
        ∀ p, p < 512 → (t.get F.FWD_PFENCEH_HOST 0 (p / 32)).testBit (p % 32) =
          row.2.2 ((s.get F.FWD_PFENCEH_HOST 0 (p / 32)).testBit (p % 32)) (isIn p)) ∧
      ((d.word 1).testBit 0 = true → d.word 3 ≤ 0xFFFFF → ∃ t, exec row.1 s = .next t ∧ t.desc cmd = none ∧ t.regs = s.regs ∧
        ∀ p, p < 2 ^ 20 → epFenced t p = row.2.2 (epFenced s p) (isIn p))) ∧
    (descReady s r i 0x0A d → fresh → (d.word 1).testBit 0 = false → d.word 2 % 4 = 0 → d.word 3 = 1 →
      readParts regBytes 0 0 [(regBase + d.word 2, 4)] b = (.data bs, s1) →
      ∃ t, exec (.telemetryRead r i none) s = .next t ∧ t.desc cmd = none ∧ .hostWrite (d.pair 4) bs ∈ t.out) ∧
    (descReady s r i 0x0B d → calRangeBad d = false → s.sec.calBusy = none →
      ∃ t, exec (.calRead r i false false) s = .next t ∧ t.desc cmd = none ∧
        .hostWrite (d.pair 4) (flashRead s (calBase + d.word 2) (d.word 3)) ∈ t.out ∧ t.flash = s.flash) ∧
    (descReady s r i 0x0C d → fresh → d.word 1 / 65536 = 0xCA1B → calRangeBad d = false → s.sec.calBusy = none →
      s.flag F.SEC_UPD_STATUS_BUSY = false → d.word 3 ≤ host.length →
      ∃ t, exec (.calWrite r i host true) s = .next t ∧ t.sec.calBusy = some cmd ∧ (t.desc cmd).map Desc.progress = some 1 ∧
        ∀ a, ¬(base ≤ a ∧ a < base + 4096 * (calSectors d).2) → memByte t.flash a = memByte s.flash a) ∧
    (at_ → d.word 0 % 256 = 0x0C → d.progress = 1 →
      (∃ t, exec (.calWrite r i host true) s = .next t ∧ t.sec.calBusy = none ∧ t.desc cmd = none ∧
        ∀ j, j < (bytesOfWords d.data).length → memByte t.flash (base + j) = (bytesOfWords d.data).getD j 0) ∧
      exec (.calWrite r i host false) s = .next (complete cmd 5 2 0 [] { s with sec.calBusy := none })) ∧
    (descReady s r i 0x0D d → 0 < d.word 4 → d.word 4 ≤ 4096 → spdmRespond b.hif.attest.stage q b = (resp, stage, s2) →
      (Config.spdmBytes resp).length ≤ d.word 7 →
      exec (.attest r i q false) s = .next (complete cmd 0 0 0 [(Config.spdmBytes resp).length]
        (({ s2 with hif.attest.stage := stage } : State).emit (.hostWrite (d.pair 5) (Config.spdmBytes resp)))))

/-! Failures and switch-in. -/

/-- Nothing of the host or of another master waits on a cluster: no START, no STOP, no held access. -/
abbrev nobodyWaits (s : State) (c : ClusterId) : Prop :=
  (s.clu c).startCmd = none ∧ (s.clu c).stops = [] ∧ s.held = []

/-- The cluster is MISSING, with the record of R504 and its count; memory is as it was. -/
abbrev wentMissing (s t : State) (c : ClusterId) (cause reason : Nat) : Prop :=
  cluState t c = 11 ∧ t.get F.ERR_LASTUNIT_CLUSTER = c.val ∧ t.get F.ERR_LASTUNIT_CAUSE = cause % 8 ∧
    t.get F.ERR_LASTUNIT_REASON = reason ∧ t.get F.ERR_LASTUNIT_NEWSLOT = 7 ∧
    t.get F.ERR_CNT_MISSING_COUNT = min (s.get F.ERR_CNT_MISSING_COUNT + 1) (2 ^ F.ERR_CNT_MISSING_COUNT.width - 1) ∧ t.mem = s.mem

/-- A RUNNING cluster fails when a macro-op has been running for MOPTMO × 100 µs (R281, R495) or when the host writes its number to
ERR_UFAIL; another number is rejected. A CLEARING one gives such a macro-op up. A cluster that fails with an understudy and a retained program is FENCED, its slot marked,
and its switch-in begins; one without an understudy goes MISSING (R496 to R498, R503). -/
def Obligations.ClusterFailures : Prop :=
  ∀ (s : State) (m : MasterId) (c : ClusterId) (n : BitVec 7) (spare : Nat) (p : Prog), Regs.wf s.regs = true →
    let k := s.clu c
    let die := dieOf c
    let fails := fun (i : Instr) (cause : Nat) =>
      (understudy s die = some spare → switching s die = false → k.prog = some p → p.retain = true → s.get F.CLU_STATUS_SLOT c < 5 →
        ∃ t, exec i s = .next t ∧ cluState t c = 10 ∧ slotFailed t (slotOf s c) = true ∧
          (t.clu c).switch = some ⟨cause, s.get F.CLU_STATUS_SLOT c, spare, 0, k.hash.ways.length, s.ticks⟩ ∧
          (t.clu c).regs = k.regs ∧ (t.clu c).pc = k.pc ∧ (t.clu c).flags = k.flags ∧ t.mem = s.mem ∧
          ∀ d, d ≠ c.val → t.clu d = s.clu d) ∧
      (understudy s die = none → nobodyWaits s c → k.switch = none → ∃ t, exec i s = .next t ∧ wentMissing s t c cause 1)
    (cluState s c = 5 → progressDue s c = true → fails (.progressTimeout c) failProgress) ∧
    (cluState s c = 9 → progressDue s c = true → ∃ t, exec (.progressTimeout c) s = .next t ∧ progressDue t c = false ∧ t.regs = s.regs ∧
      t.mem = s.mem ∧ ∀ d, d ≠ c.val → t.clu d = s.clu d) ∧
    (cluState s c ≠ 5 ∧ cluState s c ≠ 9 ∨ progressDue s c = false → exec (.progressTimeout c) s = .next s) ∧
    (n.toNat = c.val → cluState s c = 5 → fails (.ufail m n) failHost) ∧
    (80 ≤ n.toNat ∨ n.toNat = c.val ∧ cluState s c ≠ 5 →
      exec (.ufail m n) s = .next (s.reject m.toNat (R.ERR_UFAIL.addr 0 0)))

/-- The steps of a switch-in (R497 to R499, R503): 2 µs after the fence, with issued writes acknowledged, the understudy's domain is ON; the
cluster's private memory and scratch then stand in the understudy's slot, which CLU_STATUS names; the program is loaded again and
the cluster is RUNNING with its registers, PC, flags and mailboxes. An understudy that fails leaves it MISSING. The drift monitor
compares each lane's margin with that at ACTIVE every INTERVAL ms and counts one that fell by more than MARGIN (R505). -/
def Obligations.SwitchIn : Prop :=
  ∀ (s u : State) (c : ClusterId) (w : SwitchSt) (p : Prog) (unc : BitVec 21) (lane : LaneId) (v : BitVec 6) (was : Nat),
    Regs.wf s.regs = true → Memory.wf s.mem = true →
    let k := s.clu c
    let at_ := fun (step : Nat) => k.switch = some w ∧ w.step = step
    let new := 5 * dieOf c + w.newSlot
    let old := 5 * dieOf c + w.oldSlot
    (at_ 0 → s.passedUs w.since 2 = true → writesAcked k = true → ∃ t, exec (.switchinPowerUpDone c) s = .next t ∧
      (t.clu c).switch = some { w with step := 1 } ∧ (w.newSlot < 5 → t.get F.PWR_DOM_STATE 0 new = 3) ∧ t.mem = s.mem) ∧
    (k.switch = none ∨ k.switch = some w ∧ w.step ≠ 0 → exec (.switchinPowerUpDone c) s = .next s) ∧
    (at_ 0 → s.passedUs w.since 2 = false ∨ writesAcked k = false → exec (.switchinPowerUpDone c) s = .next s) ∧
    (w.oldSlot < 5 → w.newSlot < 5 → w.oldSlot ≠ w.newSlot →
      let t := moveSlot c w s
      (∀ i, i < 0x800000 → memByte t.mem (scratchKey new + i) = memByte s.mem (scratchKey old + i)) ∧
      (∀ i, i < 0x100000 → memByte t.mem (privateKey new + i) = memByte s.mem (privateKey old + i)) ∧
      t.get F.CLU_STATUS_SLOT c = w.newSlot ∧ t.get F.CLU_STATUS_UNDERSTUDY c = 1 ∧ t.get F.PWR_DOM_STATE 0 new = 3 ∧
      t.get F.PWR_DOM_STATE 0 old = 0 ∧ cluState t c = cluState s c ∧ t.clus = s.clus) ∧
    (at_ 1 → k.prog = some p → reload c p (moveSlot c w s) = some (true, u) → (u.clu c).hash.settings = none →
      exec (.migrationDone c false) s = .next (u.setClu c { u.clu c with hash := HashAcc.empty, switch := some { w with step := 2 } })) ∧
    (at_ 1 → k.prog = some p → nobodyWaits s c → ∃ t, exec (.migrationDone c true) s = .next t ∧ wentMissing s t c w.cause 5) ∧
    (at_ 2 → k.active = none → k.next = none → noMops k → k.xfers = [] → k.wait = none → k.flagWaits = [] → nobodyWaits s c →
      ∃ t, exec (.switchinRunning c false unc) s = .next t ∧ cluState t c = 5 ∧ (t.clu c).switch = none ∧ (t.clu c).regs = k.regs ∧
        (t.clu c).pc = k.pc ∧ (t.clu c).flags = k.flags ∧ (t.clu c).mail = k.mail ∧ t.mem = s.mem ∧
        t.get F.ERR_CNT_SWITCHIN_COUNT = min (s.get F.ERR_CNT_SWITCHIN_COUNT + 1) (2 ^ F.ERR_CNT_SWITCHIN_COUNT.width - 1)) ∧
    (k.switch = none ∨ k.switch = some w ∧ w.step ≠ 2 → exec (.switchinRunning c false unc) s = .next s) ∧
    (let due := s.passedUs ((lookup s.timers driftTimer).getD 0) (1000 * max 1 (s.get F.ERR_LDRIFT_INTERVAL))
      let fell := lookup s.laneMargin lane = some was ∧ was < 64 ∧ v.toNat + s.get F.ERR_LDRIFT_MARGIN < was;
      (s.get F.ERR_LDRIFT_MARGIN = 0 ∨ due = false → exec (.laneDriftCheck [(lane, v)]) s = .next s) ∧
      (s.get F.ERR_LDRIFT_MARGIN ≠ 0 → due = true → fell →
        (∃ q, q < 512 ∧ portState s q = 5 ∧ portLane s q ≤ lane.val ∧
          (s.get F.PORT_STATUS_LMASK q).testBit (lane.val - portLane s q) = true) →
        ∃ t, exec (.laneDriftCheck [(lane, v)]) s = .next t ∧ t.get F.ERR_CNT_LDRIFT_COUNT =
          min (s.get F.ERR_CNT_LDRIFT_COUNT + 1) (2 ^ F.ERR_CNT_LDRIFT_COUNT.width - 1) ∧ lookup t.laneMargin lane = some 64) ∧
      (s.get F.ERR_LDRIFT_MARGIN ≠ 0 → due = true → lookup s.laneMargin lane = some was → was ≤ v.toNat + s.get F.ERR_LDRIFT_MARGIN →
        exec (.laneDriftCheck [(lane, v)]) s = .next { s with timers := place s.timers driftTimer s.ticks }))

/-! Security. -/

/-- The security root's registers (R511, R512, R514): ADVANCE takes a value above ARB, at most 64 and neither above the running image's SVN nor the
flash image's, and is rejected otherwise; the bits are blown, one each millisecond. GO erases and programs the slot with an image
that passes the check and records the reason of one that fails; a programmed slot holds the image. A push in recovery goes
on to CALREAD with an image that passes. -/
def Obligations.SecurityRoot : Prop :=
  ∀ (s s1 : State) (m : MasterId) (v : Byte) (img : List Byte), Regs.wf s.regs = true → Memory.wf s.flash = true →
    let arb := s.fuses.arb
    let allowed := arb < v.toNat ∧ v.toNat ≤ 64 ∧ v.toNat ≤ s.get F.SEC_SVN_RUN ∧ v.toNat ≤ s.get F.SEC_SVN_FLASH ∧ s.flag F.SEC_ARB_BUSY = false
    let blown := s.passedUs ((lookup s.timers arbTimer).getD 0) (1000 * (s.sec.advanceTo - arb))
    let free := s.flag F.HIF_STATUS_READY = true ∧ updBusy s = false ∧ s.sec.calBusy = none ∧
      memRead 1 (updAddr s) (s.get F.SEC_UPD_LEN_LEN) 0 s = (.data img, s1)
    (allowed → ∃ t, exec (.arbAdvance m v) s = .next t ∧ t.get F.SEC_ARB_BUSY = 1 ∧ t.sec.advanceTo = v.toNat ∧ t.fuses = s.fuses) ∧
    (¬ allowed → exec (.arbAdvance m v) s = .next (s.reject m.toNat (R.SEC_ARB.addr 0 0))) ∧
    (s.flag F.SEC_ARB_BUSY = true → blown = true → ∃ t, exec .arbAdvanceDone s = .next t ∧ t.fuses.arb = s.sec.advanceTo ∧
      t.get F.SEC_ARB_BUSY = 0) ∧
    (s.flag F.SEC_ARB_BUSY = false ∨ blown = false → exec .arbAdvanceDone s = .next s) ∧
    (s.flag F.HIF_STATUS_READY = true → updBusy s = true → exec .updateGo s = .next (s.set F.SEC_UPD_STATUS_RESULT 8)) ∧
    (free → Regs.wf s1.regs = true → checkImage s1 img = 0 → ∃ t, exec .updateGo s = .next t ∧ t.get F.SEC_UPD_STATUS_BUSY = 1 ∧
      t.get F.SEC_UPD_STATUS_RESULT = 0 ∧ t.sec.updImage = img ∧
      ∀ a, lookup t.flash a = (if a < 4 * 2 ^ 20 then none else lookup s1.flash a)) ∧
    (free → checkImage s1 img ≠ 0 → exec .updateGo s = .next (s1.set F.SEC_UPD_STATUS_RESULT (checkImage s1 img))) ∧
    (s.flag F.SEC_UPD_STATUS_BUSY = true →
      (∃ t, exec (.updateDone true) s = .next t ∧ t.get F.SEC_UPD_STATUS_BUSY = 0 ∧ t.get F.SEC_UPD_STATUS_RESULT = 0 ∧
        t.get F.SEC_SVN_FLASH = imageSvn s.sec.updImage % 256 ∧
        (∀ i, i < s.sec.updImage.length → (lookup t.flash i).getD 0 = s.sec.updImage.getD i 0) ∧
        ∀ a, s.sec.updImage.length ≤ a → lookup t.flash a = lookup s.flash a) ∧
      (∃ t, exec (.updateDone false) s = .next t ∧ t.get F.SEC_UPD_STATUS_BUSY = 0 ∧ t.get F.SEC_UPD_STATUS_RESULT = 7 ∧
        t.flash = s.flash ∧ t.get F.SEC_SVN_FLASH = s.get F.SEC_SVN_FLASH)) ∧
    (s.flag F.SEC_UPD_STATUS_BUSY = false → exec (.updateDone true) s = .next s) ∧
    (bootStage s ≠ 7 → exec (.pushGo true) s = .next s) ∧
    (bootStage s = 7 → s.flag F.SEC_PUSH_STATUS_BUSY = false →
      (checkImage s (pushed s) ≠ 0 → exec (.pushGo true) s = .next (s.set F.SEC_PUSH_STATUS_RESULT (checkImage s (pushed s)))) ∧
      (checkImage s (pushed s) = 0 → ∃ t, exec (.pushGo true) s = .next t ∧ bootStage t = 3 ∧ t.get F.SEC_PUSH_STATUS_RESULT = 0 ∧
        t.get F.SEC_STATUS_RECOVERY = 0 ∧ t.get F.HIF_STATUS_RECOVERY = 0 ∧ t.get F.SEC_STATUS_BOOTOK = 1 ∧
        t.get F.SEC_SVN_RUN = imageSvn (pushed s) % 256 ∧ t.sec.runDigest = imageDigest (pushed s) ∧
        (s.flag F.SEC_PUSH_CTL_PERSIST = false → t.flash = s.flash) ∧
        (s.flag F.SEC_PUSH_CTL_PERSIST = true → ∀ i, i < (pushed s).length → (lookup t.flash i).getD 0 = (pushed s).getD i 0)))

/-- The responder on the DOE mailbox answers `r`, at stage `n` of its connection. -/
def answers (s : State) (n : Nat) (r : SpdmResp) : Host.Outcome State Fault Refusal :=
  .next (({ s with hif.doe.stage := n } : State).emit (.answer 1 (Config.spdmBytes r)))

/-- Identity and the debug lock (R516, R518, R519, R521, R522). SPDM requests are answered in their order: GET_VERSION starts a connection,
GET_CAPABILITIES and NEGOTIATE_ALGORITHMS follow, and the rest come after them. A token that is accepted grants its scope; eight
refused tokens close the lock; the nonce is replaced either way. A JTAG command loads its instruction, scans its register, and
touches nothing else (R63). -/
def Obligations.IdentityAndDebug : Prop :=
  ∀ (s : State) (ws : Vector Word 44) (off len : BitVec 16) (code index kind : Byte) (signed tdi : Bool) (lands cells : List Bool),
    Regs.wf s.regs = true →
    let stage := s.hif.doe.stage
    let valid := s.flag F.SEC_STATUS_IDVALID
    let chain := certChain s
    let rest := (chain.drop off.toNat).take (min (min len.toNat 2048) (chain.length - off.toNat))
    let fails := s.get F.SEC_STATUS_DBGFAILS
    let submit := exec (.debugTokenSubmit (some ws)) s
    let nonce := (randomWords s).1
    let loaded := fun (i : JtagInstr) => ({ s with board.jtag := i } : State)
    let bypassed := fun (i : JtagInstr) => ({ loaded i with board.bypass := tdi } : State).emit (.tdo [false])
    let scanned := fun (i : JtagInstr) => ({ loaded i with board.captured := lands } : State).emit (.tdo lands)
    let driven := fun (i : JtagInstr) => ({ scanned i with board.preloaded := cells } : State);
    exec .getVersion s = answers s 1 (.version 1 2) ∧
    (stage = 1 → exec .getCapabilities s = answers s 2 (.capabilities true true true 13 4096 4096)) ∧
    (stage ≠ 1 → exec .getCapabilities s = answers s stage (.error .unexpectedRequest)) ∧
    (stage = 2 → exec (.negotiateAlgorithms true true true) s = answers s 3 .algorithms ∧
      exec (.negotiateAlgorithms true false true) s = answers s 2 (.error .negotiationFail)) ∧
    (stage < 3 → exec .getDigests s = answers s stage (.error .unexpectedRequest) ∧
      exec (.getCertificate 0 off len) s = answers s stage (.error .unexpectedRequest) ∧
      exec (.challenge 0 kind) s = answers s stage (.error .unexpectedRequest) ∧
      exec (.getMeasurements index signed) s = answers s stage (.error .unexpectedRequest)) ∧
    (3 ≤ stage →
      exec .getDigests s = answers s stage (.digests (Sha.digest chain)) ∧
      (valid = true → off.toNat < chain.length →
        exec (.getCertificate 0 off len) s = answers s stage (.certificate rest (chain.length - off.toNat - rest.length))) ∧
      (valid = true → exec (.challenge 0 0) s = (let (n, s1) := randomWords s
        let (sig, s2) := sign s1
        answers s2 stage (.challengeAuth (Sha.digest chain) (bytesOfWords n) [] sig))) ∧
      (valid = false → exec (.getCertificate 0 off len) s = answers s stage (.error .unspecified) ∧
        exec (.challenge 0 0) s = answers s stage (.error .unspecified)) ∧
      (1 ≤ index.toNat → index.toNat ≤ 5 → exec (.getMeasurements index false) s =
        answers (randomWords s).2 stage (.measurements 5 [(index.toNat, s.sec.measures.getD (index.toNat - 1) [])] (bytesOfWords nonce) [])) ∧
      (5 < index.toNat → index.toNat < 255 → exec (.getMeasurements index false) s = answers s stage (.error .invalidRequest))) ∧
    exec (.unsupportedRequest code) s = answers s stage (.error .unsupportedRequest) ∧
    exec .doeAbort s = .next { s with hif.doe.stage := 0 } ∧
    (tokenGood s ws.toList = true → fails < 8 → ∃ t, submit = .next t ∧ t.get F.SEC_STATUS_DBG = 1 ∧ t.sec.nonce = nonce ∧
      t.get F.SEC_DBG_CTL_SCOPE = (s.get F.SEC_DBG_CTL_SCOPE ||| (ws.toList.getD 1 0).toNat) ∧
      t.get F.SEC_STATUS_DBGFAILS = fails) ∧
    (tokenGood s ws.toList = false ∨ 8 ≤ fails → ∃ t, submit = .next t ∧ t.get F.SEC_STATUS_DBG = s.get F.SEC_STATUS_DBG ∧
      t.sec.nonce = nonce ∧ t.get F.SEC_STATUS_DBGFAILS = min 8 (fails + 1) ∧ t.get F.SEC_DBG_CTL_SCOPE = s.get F.SEC_DBG_CTL_SCOPE) ∧
    exec (.bypass tdi) s = .next (bypassed .bypass) ∧ exec (.highz tdi) s = .next (bypassed .highz) ∧
    exec (.clamp tdi) s = .next (bypassed .clamp) ∧
    exec .idcode s = .next ((loaded .idcode).emit (.tdo ((List.range 32).map Config.idcode.getLsbD))) ∧
    exec (.sample lands) s = .next (scanned .sample) ∧
    exec (.preload cells) s = .next { loaded .preload with board.preloaded := cells } ∧
    exec (.extest lands cells) s = .next (driven .extest) ∧ exec (.extestPulse lands cells) s = .next (driven .extestPulse) ∧
    exec (.extestTrain lands cells) s = .next (driven .extestTrain)

/-! Power, clocks and heat. -/

/-- The sensors' values written. -/
def sensed (temps : List (BitVec 11)) (s : State) : State :=
  ((List.range 200).zip temps).foldl (fun s e => s.set F.PWR_TS_TEMP e.2.toNat 0 e.1) s

/-- Thermal control (R534 to R537, R540, R541): a reading is kept and the hottest sensor found. A die or stack is at or above each state whose
threshold its reading reaches, and leaves a state only HYST below its threshold. A stage die that comes to THROTTLE loses
100 MHz of its cap, at CRITICAL its cap is 900 MHz, and at TRIP the device is off. Every STEPDN ms in THROTTLE the cap falls again,
and every STEPUP ms after it rises, within 900 MHz and CALMAX. -/
def thermal : Prop :=
  ∀ (s : State) (temps : List (BitVec 11)) (n : StackId) (g l : Nat) (x : Int), Regs.wf s.regs = true →
    let cap := fun (t : State) => t.get F.CLK_STG_STATUS_CAP 0 n
    let u := sensed temps s
    let hyst : Int := 4 * (max 1 (s.get F.PWR_THYST_HYST) : Nat)
    let down := s.passedUs (s.die n).capAt (1000 * max 1 (s.get F.PWR_THYST_STEPDN))
    let up := s.passedUs (s.die n).capAt (1000 * max 1 (s.get F.PWR_THYST_STEPUP))
    (s.board.thermTrip = true → exec (.sensorRead temps) s = .next s) ∧
    (s.board.thermTrip = false → temps.length = 200 → (∀ g, g < 84 → nextHeat u g (hottest u g).2 = heatOf s g) →
      ∃ t, exec (.sensorRead temps) s = .next t ∧ onlyRegs s t ∧ (∀ i, i < 200 → t.get F.PWR_TS_TEMP 0 i = (temps.getD i 0).toNat) ∧
        (∀ g, g < 84 → ∀ i ∈ sensorsOf g, t.get F.PWR_TS_STATE 0 i = heatOf s g) ∧
        (let h := t.get F.PWR_THOT_SENSOR; h < 200 ∧ t.get F.PWR_THOT_TEMP = t.get F.PWR_TS_TEMP 0 h ∧
          ∀ i, i < 200 → sensorTemp t i ≤ sensorTemp t h)) ∧
    (1 ≤ l → l ≤ 4 → threshold s g l ≤ x → l ≤ nextHeat s g x) ∧
    (1 ≤ l → nextHeat s g x = l → l ≤ 4 ∧ (threshold s g l ≤ x ∨ (l ≤ heatOf s g ∧ threshold s g l - hyst < x))) ∧
    (nextHeat s n (hottest s n).2 = 2 → heatOf s n < 2 → throttled s n = false →
      let t := heatStep n s
      cap t = max 900 (cap s - 100) ∧ heatOf t n = 2 ∧
        t.get F.PWR_CNT_THROTTLE_COUNT = min (s.get F.PWR_CNT_THROTTLE_COUNT + 1) (2 ^ F.PWR_CNT_THROTTLE_COUNT.width - 1)) ∧
    (nextHeat s n (hottest s n).2 = 3 → heatOf s n < 3 → cap (heatStep n s) = 900 ∧ heatOf (heatStep n s) n = 3) ∧
    (nextHeat s g (hottest s g).2 = 4 → heatOf s g < 4 →
      let t := heatStep g s
      t.board.thermTrip = true ∧ t.mem = [] ∧ t.stackMem = [] ∧
        ((∀ p, p < 512 → portState s p = 0) → t.get F.HIF_STATUS_READY = 0)) ∧
    (throttled s n = true → down = true → ∃ t, exec (.capStepDown n) s = .next t ∧ cap t = max 900 (cap s - 100) ∧ t.mem = s.mem) ∧
    (throttled s n = false ∨ down = false → exec (.capStepDown n) s = .next s) ∧
    (throttled s n = false → cap s < calMax s → up = true →
      ∃ t, exec (.capStepUp n) s = .next t ∧ cap t = min (calMax s) (cap s + 100) ∧ t.mem = s.mem) ∧
    (throttled s n = true ∨ calMax s ≤ cap s ∨ up = false → exec (.capStepUp n) s = .next s)

/-- Frequency, voltage, locks and domains (R525, R526, R528, R530, R531, R538, R542). A new target gives the die the frequency of R530: above the
present one the voltage is raised first and the slew waits VSETTLE µs, below it the slew begins at once and the voltage falls when
it ends. A PLL that loses lock is counted and reported, and again each ms until it relocks. A wake brings a domain to ON, and
its sleeping cluster to RUNNING; an engine idle for 1 ms turns OFF. An armed spread setting applies. -/
def powerAndClocks : Prop :=
  ∀ (s : State) (n : StackId) (mhz : BitVec 12) (k : Fin 60) (d : Fin 262) (c : Nat) (v : Word), Regs.wf s.regs = true →
    let x := s.die n
    let t0 := s.set F.CLK_STG_TARGET_MHZ mhz.toNat 0 n
    let goal := min (max 900 (mhz.toNat / 25 * 25)) (min (s.get F.CLK_STG_STATUS_CAP 0 n) (calMax s))
    let cur := curMhz s n
    let fresh := ¬ (goal = x.goal ∧ x.phase ≠ 0)
    let settled := s.passedUs x.since (max 1 (s.get F.CLK_VSETTLE_US))
    let idleAt := lookup s.timers (engineTimer n)
    let lostAt := lookup s.timers (lockTimer k)
    let others := fun (t : State) => ∀ j, j < 60 → j ≠ k.val → locked t j = locked s j
    (¬ fresh → exec (.stgTargetWrite n mhz) s = .next t0) ∧
    (fresh → cur < goal → ∃ t, exec (.stgTargetWrite n mhz) s = .next t ∧ (t.die n).phase = 1 ∧ (t.die n).goal = goal ∧
      (t.die n).since = s.ticks ∧ t.get F.CLK_STG_TARGET_MHZ 0 n = mhz.toNat ∧ t.get F.CLK_STG_STATUS_SLEW 0 n = 1 ∧
      t.get F.CLK_STG_MV_MV 0 n = max (needMv s n goal) (needMv s n cur)) ∧
    (fresh → goal < cur → ∃ t, exec (.stgTargetWrite n mhz) s = .next t ∧ (t.die n).phase = 3 ∧ (t.die n).goal = goal ∧
      (t.die n).since = s.ticks ∧ t.get F.CLK_STG_TARGET_MHZ 0 n = mhz.toNat ∧ t.get F.CLK_STG_STATUS_SLEW 0 n = 1 ∧
      t.get F.CLK_STG_MV_MV 0 n = needMv s n cur) ∧
    (x.phase = 1 → settled = true → exec (.vsettleDone n) s = .next (s.setDie n { x with phase := 2, since := s.ticks })) ∧
    (x.phase ≠ 1 ∨ settled = false → exec (.vsettleDone n) s = .next s) ∧
    (2 ≤ x.phase → cur = x.goal → x.goal < 4096 → ∃ t, exec (.slewDone n) s = .next t ∧ (t.die n).phase = 0 ∧
      t.get F.CLK_STG_STATUS_CUR 0 n = x.goal ∧ t.get F.CLK_STG_STATUS_SLEW 0 n = 0 ∧ t.get F.CLK_STG_MV_MV 0 n = needMv s n x.goal) ∧
    (x.phase < 2 ∨ cur ≠ x.goal → exec (.slewDone n) s = .next s) ∧
    (locked s k = true → ∃ t, exec (.pllUnlock k) s = .next t ∧ locked t k = false ∧ others t ∧ lookup t.timers (lockTimer k) = some s.ticks ∧
      t.get F.CLK_CNT_UNLOCK_COUNT = min (s.get F.CLK_CNT_UNLOCK_COUNT + 1) (2 ^ F.CLK_CNT_UNLOCK_COUNT.width - 1)) ∧
    (locked s k = false → exec (.pllUnlock k) s = .next s ∧ ∃ t, exec (.pllRelock k) s = .next t ∧ locked t k = true ∧ others t ∧
      onlyRegs s t) ∧
    (locked s k = true → exec (.pllRelock k) s = .next s ∧ exec (.pllRelockRetry k) s = .next s) ∧
    (∀ t, lostAt = some t → locked s k = false → s.passedUs t 1000 = true → exec (.pllRelockRetry k) s = .next (lockLost k s)) ∧
    (s.board.thermTrip = false →
      (100 ≤ d.val → domainWanted s d = true → exec (.domainWake d) s = .next (s.set F.PWR_DOM_STATE 3 0 d)) ∧
      (100 ≤ d.val → domainWanted s d = false → exec (.domainWake d) s = .next s) ∧
      (d.val < 100 → slotCluster s d = some c → cluState s c = 6 ∨ cluState s c = 7 → ∃ t, exec (.domainWake d) s = .next t ∧
        cluState t c = 5 ∧ t.get F.PWR_DOM_STATE 0 d = 3 ∧
        t.get F.CLU_CNT_WAKE_COUNT c = min (s.get F.CLU_CNT_WAKE_COUNT c + 1) (2 ^ F.CLU_CNT_WAKE_COUNT.width - 1))) ∧
    (∀ t, idleAt = some t → engineNeeded s n = false → s.passedUs t 1000 = true →
      exec (.engineIdleOff n) s = .next (s.set F.PWR_DOM_STATE 0 0 (140 + n))) ∧
    (idleAt = none ∨ engineNeeded s n = true → exec (.engineIdleOff n) s = .next s) ∧
    (s.armed .clk = false → exec .sscApply s = .next s) ∧
    (s.armed .clk = true → s.shadow = [(R.CLK_SSC.addr 0 0, v)] → ∃ t, exec .sscApply s = .next t ∧ t.armed .clk = false ∧
      t.get F.CLK_SSC_STG = v.toNat % 4 ∧ t.get F.CLK_SSC_MCK = v.toNat / 64 % 4 ∧ t.shadow = [])

/-- Thermal control; frequency, voltage, PLL locks and power domains: `thermal`, `powerAndClocks`. -/
def Obligations.ThermalAndPower : Prop := thermal ∧ powerAndClocks

/-! Reset and boot. -/

/-- Reset and the boot stages (R25, R510, R513, R544, R546, R547, R551, R552, R572). SYS_RESET_N low brings the state of reset, with fuses and
flash kept; its rise samples GPIO0 to GPIO2 and begins AON. Each stage's end leads to the next: AON locks the four clocks that boot needs,
ROM goes to CALREAD with a good image and to RECOVERY otherwise, CALREAD ends whatever the set is, HARBOUR locks every PLL and maps the clusters
of each die onto its healthy slots, and BRINGUP sets READY. A stage's end out of its turn changes nothing. -/
def Obligations.ResetAndBoot : Prop :=
  ∀ (s : State) (powerOn readError missing : Bool) (lands : BitVec 16) (d i : Nat) (bad : BitVec 64)
    (trained : List (Option (Fin 3 × Byte × Word))) (n : StackId) (rate : Fin 3) (temp : Byte), Regs.wf s.regs = true →
    let img := flashImage s
    let set_ := flashRead s calBase calSize
    let healthy := (List.range 5).filter fun k => s.fuses.slotOk.testBit (5 * d + k)
    let off := fun (i : Instr) (stage : Nat) => bootStage s ≠ stage → exec i s = .next s
    (∃ t, exec (.sysReset false powerOn lands) s = .next t ∧ bootStage t = 0 ∧ t.flash = s.flash ∧ t.mem = [] ∧ t.stackMem = [] ∧ t.clus = [] ∧
      t.hif.inReset = s.hif.inReset ∧ t.fuses = { s.fuses with arb := arbAfterReset s } ∧
      (powerOn = true → t.regs = []) ∧
      (powerOn = false → t.get F.SEC_PUSH_CTL_WAIT = s.get F.SEC_PUSH_CTL_WAIT ∧
        ∀ (r : Reg) (i j : Nat), r.addr i j ≠ R.SEC_PUSH_CTL.addr 0 0 → t.rd r i j = resetWord r i j)) ∧
    off (.sysReset true powerOn lands) 0 ∧
    (bootStage s = 0 → ∃ t, exec (.sysReset true powerOn lands) s = .next t ∧ bootStage t = 1 ∧ t.sec.forced = lands.getLsbD 2 ∧
      t.board.smbAddr.toNat = 0x58 + lands.toNat % 4 ∧ (∀ k, 252 ≤ k → k < 262 → t.get F.PWR_DOM_STATE 0 k = 3) ∧ t.mem = s.mem) ∧
    off .aonDone 1 ∧
    (bootStage s = 1 → ∃ t, exec .aonDone s = .next t ∧ bootStage t = 2 ∧ onlyRegs s t ∧ (∀ k, 56 ≤ k → k < 60 → locked t k = true) ∧
      t.flag F.SEC_STATUS_IDVALID = Config.identityMatches (certChain s)) ∧
    off (.romCheckDone readError) 2 ∧
    (bootStage s = 2 → s.flag F.SEC_PUSH_CTL_WAIT = false → s.sec.forced = false →
      (checkImage s img = 0 → ∃ t, exec (.romCheckDone false) s = .next t ∧ bootStage t = 3 ∧ t.get F.SEC_STATUS_BOOTOK = 1 ∧
        t.get F.SEC_STATUS_REASON = 0 ∧ t.get F.SEC_SVN_RUN = imageSvn img % 256 ∧ t.get F.SEC_SVN_FLASH = imageSvn img % 256 ∧
        t.sec.runDigest = imageDigest img ∧ t.sec.measures.length = s.sec.measures.length) ∧
      (checkImage s img ≠ 0 → ∃ t, exec (.romCheckDone false) s = .next t ∧ bootStage t = 7 ∧ t.get F.SEC_STATUS_REASON = checkImage s img ∧
        t.get F.SEC_STATUS_RECOVERY = 1 ∧ t.get F.HIF_STATUS_RECOVERY = 1 ∧ onlyRegs s t)) ∧
    (bootStage s = 2 → s.flag F.SEC_PUSH_CTL_WAIT = true ∨ s.sec.forced = true → ∃ t, exec (.romCheckDone readError) s = .next t ∧
      bootStage t = 7 ∧ t.get F.SEC_STATUS_RECOVERY = 1) ∧
    off (.calreadDone missing) 3 ∧
    (bootStage s = 3 →
      (∃ t, exec (.calreadDone true) s = .next t ∧ bootStage t = 4 ∧ t.get F.CAL_STATUS_MISSING = 1 ∧
        t.get F.CAL_STATUS_VALID = s.get F.CAL_STATUS_VALID ∧ t.cal = s.cal) ∧
      (∀ check o, setFault s set_ = some (check, o) → ∃ t, exec (.calreadDone false) s = .next t ∧ bootStage t = 4 ∧
        t.get F.CAL_STATUS_CHECK = check % 16 ∧ t.get F.CAL_STATUS_VALID = s.get F.CAL_STATUS_VALID ∧ t.cal = s.cal) ∧
      (setFault s set_ = none → ∃ t, exec (.calreadDone false) s = .next t ∧ bootStage t = 4 ∧ t.get F.CAL_STATUS_VALID = 1 ∧
        (∀ a, a < calSize → memByte t.cal a = set_.getD a 0) ∧ t.get F.CAL_CRC_CRC = setCrc set_)) ∧
    off .harbourDone 4 ∧
    (bootStage s = 4 → ∃ t, exec .harbourDone s = .next t ∧ bootStage t = 5 ∧ (∀ k, k < 60 → locked t k = true) ∧
      (d < 20 → i < 4 → ∀ k, healthy[i]? = some k → cluState t (4 * d + i) = 1 ∧ t.get F.CLU_STATUS_SLOT (4 * d + i) = k) ∧
      (d < 20 → i < 4 → healthy[i]? = none → cluState t (4 * d + i) = 11)) ∧
    off (.bringupDone trained bad) 5 ∧
    (bootStage s = 5 → ∃ t, exec (.bringupDone trained bad) s = .next t ∧ bootStage t = 6 ∧ t.get F.HIF_STATUS_READY = 1 ∧
      t.net.groupBad = bad.toNat) ∧
    (bootStage s = 5 → trained = List.replicate 20 (some (rate, temp, 0)) → ∃ t,
      exec (.bringupDone trained bad) s = .next t ∧ t.get F.STK_STATUS_STATE n = 2 ∧ t.get F.STK_STATUS_TEMP n = temp.toNat ∧
      t.get F.PWR_DOM_STATE 0 (120 + n) = 3 ∧ t.get F.PWR_DOM_STATE 0 (160 + n) = 3)

/-! The board's service ports. -/

/-- The SMBus target (R47, R571, R574, R576), outside SYS_RESET_N. STATUS and HOTTEST answer in every stage; the others answer once HARBOUR has ended,
and before it, and for a code that is not listed, are not acknowledged. A packet error code is checked where one comes and
given where one is asked for. REGDATA reads or writes the register at REGADDR as master 0x001. -/
def Obligations.SmbusTarget : Prop :=
  ∀ (s s1 : State) (w : BitVec 16) (v : Word) (p code : Byte) (lands : BitVec 16) (bs : List Byte) (cause : Nat),
    bootStage s ≠ 0 →
    let nack : Host.Outcome State Fault Refusal := .next (s.emit .nack)
    let tells := fun (xs : List Nat) => (.next (s.emit (.answer 3 (xs.map (BitVec.ofNat 8)))) : Host.Outcome State Fault Refusal)
    let status := s.get F.HIF_STATUS_READY + 2 * s.get F.HIF_STATUS_RECOVERY + 4 * s.get F.PWR_TS_STATE 0 (s.get F.PWR_THOT_SENSOR)
    let dir := s.board.gpioDir.toNat
    let out := s.board.gpioOut.toNat
    let slew := s.board.slew.toNat
    let lo := w.toNat % 256
    let hi := w.toNat / 256
    let good := fun (cmd : Nat) (xs : List Nat) => p.toNat = pecOf (smbByte s false :: cmd :: xs)
    let at_ := [(0x7F0000000000 + s.board.regAddr.toNat, 4)]
    exec (.smbStatus false) s = tells [status] ∧
    exec (.smbStatus true) s = tells [status, pecOf [smbByte s false, 0x01, smbByte s true, status]] ∧
    exec (.smbHottest false) s = tells [s.get F.PWR_THOT_TEMP % 256, s.get F.PWR_THOT_TEMP / 256] ∧
    exec (.smbUnlistedCommand code) s = nack ∧ exec .smbusClockLowTimeout s = .next s ∧
    (smbReady s = false →
      exec (.smbRegaddr v none) s = nack ∧ exec (.smbRegdata (some v) none) s = nack ∧ exec (.smbRegdata none none) s = nack ∧
      exec (.smbGpiodir (some w) none) s = nack ∧ exec (.smbGpiodir none none) s = nack ∧ exec (.smbGpioout (some w) none) s = nack ∧
      exec (.smbGpioout none none) s = nack ∧ exec (.smbSlew (some w) none) s = nack ∧ exec (.smbSlew none none) s = nack ∧
      exec (.smbGpioin lands false) s = .next (({ s with board.gpioIn := lands } : State).emit .nack)) ∧
    (smbReady s = true →
      (v.toNat % 4 = 0 → exec (.smbRegaddr v none) s = .next { s with board.regAddr := v }) ∧
      (v.toNat % 4 ≠ 0 → exec (.smbRegaddr v none) s = nack) ∧
      exec (.smbGpiodir (some w) none) s = .next { s with board.gpioDir := w } ∧
      exec (.smbGpioout (some w) none) s = .next { s with board.gpioOut := w } ∧
      exec (.smbSlew (some w) none) s = .next { s with board.slew := w.setWidth 10 } ∧
      (good 0x20 [lo, hi] → exec (.smbGpiodir (some w) (some p)) s = .next { s with board.gpioDir := w }) ∧
      (¬ good 0x20 [lo, hi] → exec (.smbGpiodir (some w) (some p)) s = nack) ∧
      exec (.smbGpiodir none none) s = tells [dir % 256, dir / 256] ∧
      exec (.smbGpioout none none) s = tells [out % 256, out / 256] ∧
      exec (.smbSlew none none) s = tells [slew % 256, slew / 256] ∧
      (∃ t, exec (.smbGpioin lands false) s = .next t ∧ t.board.gpioIn = lands ∧ ∃ x : BitVec 16, t.out = .answer 3 [x.setWidth 8, (x >>> 8).setWidth 8] :: s.out ∧
        ∀ b, b < 16 → x.getLsbD b = if s.board.gpioDir.getLsbD b then s.board.gpioOut.getLsbD b else lands.getLsbD b) ∧
      (s.board.regAddr.toNat < 2 ^ 26 →
        (readParts regBytes 1 0 at_ s = (.data bs, s1) → exec (.smbRegdata none none) s =
          .next (s1.emit (.answer 3 ((4 :: (List.range 4).map fun i => ofBytes bs / 2 ^ (8 * i) % 256).map (BitVec.ofNat 8))))) ∧
        (readParts regBytes 1 0 at_ s = (.refused cause, s1) → exec (.smbRegdata none none) s = .next (s1.emit .nack)) ∧
        (writeParts regPut 1 0 at_ (toBytes 4 v.toNat) s = (.data bs, s1) → exec (.smbRegdata (some v) none) s = .next s1) ∧
        (writeParts regPut 1 0 at_ (toBytes 4 v.toNat) s = (.refused cause, s1) → exec (.smbRegdata (some v) none) s = .next (s1.emit .nack))) ∧
      (2 ^ 26 ≤ s.board.regAddr.toNat → exec (.smbRegdata none none) s = nack))

/-! Protected words. -/

/-- Words under error protection (R434, R489): a word that is not upset is read as it stands; a corrected upset is counted in its class and gone;
an uncorrectable one is counted, the first is logged with its class and unit, and it stays until the word is written anew. An
uncorrectable item at the front of the sample FIFO is discarded into the gap count, and the pop answers with the next. -/
def Obligations.ProtectedWords : Prop :=
  ∀ (s : State) (m : MasterId) (cls unit addr x y : Nat) (items : List Nat) (at_ : Spot → Bool) (u : Upset) (rest : List Upset),
    Regs.wf s.regs = true → cls < 12 →
    let t := s.uncorrectable cls unit addr
    let up := fun (v w : State) (f : Fld) => w.get f 0 cls = min (v.get f 0 cls + 1) (2 ^ f.width - 1)
    ((∀ v ∈ s.upsets, at_ v.spot = false) → s.touch cls unit addr at_ = (false, s)) ∧
    (s.upsets = u :: rest → at_ u.spot = true → (∀ v ∈ rest, at_ v.spot = false) →
      (u.bad = false → ∃ v, s.touch cls unit addr at_ = (false, v) ∧ v.upsets = rest ∧ up s v F.ERR_CE_COUNT ∧ v.mem = s.mem ∧ v.net = s.net) ∧
      (u.bad = true → s.touch cls unit addr at_ = (true, t)) ∧
      s.heal at_ = { s with upsets := rest }) ∧
    up s t F.ERR_UE_COUNT ∧ t.upsets = s.upsets ∧ t.mem = s.mem ∧ t.net = s.net ∧
    (s.flag F.ERR_UELOG0_VALID = false → t.get F.ERR_UELOG0_VALID = 1 ∧ t.get F.ERR_UELOG0_CLASS = cls ∧
      t.get F.ERR_UELOG0_UNIT = unit % 2 ^ F.ERR_UELOG0_UNIT.width ∧ t.rd R.ERR_UELOG1 0 0 = addr % 2 ^ 32) ∧
    (s.flag F.ERR_UELOG0_VALID = true → t.rd R.ERR_UELOG0 0 0 = s.rd R.ERR_UELOG0 0 0 ∧ t.rd R.ERR_UELOG1 0 0 = s.rd R.ERR_UELOG1 0 0) ∧
    (s.upsets = [⟨.sample 0, true⟩] → s.net.samples = ⟨x :: y :: items, 0⟩ →
      ∃ v, exec (.sfifoPop m) s = .next v ∧ v.out = .readData m.toNat (toBytes 4 (y % 2 ^ 32)) :: s.out ∧
        v.net.samples = ⟨items ++ [0x1FFF + 1 <<< 13 + 2 ^ 63], 0⟩ ∧ v.net.sampleHi = y / 2 ^ 32 ∧ v.upsets = [] ∧
        v.get F.ERR_UE_COUNT 0 8 = min (s.get F.ERR_UE_COUNT 0 8 + 1) (2 ^ F.ERR_UE_COUNT.width - 1))
end

