-- ==== Sys2Proof/Tests/Slice0.lean ====
section
/-! SUPPORT. Tests: ill-formed commands, words written out from the encodings of R295, and for every statement with hypotheses states that meet
them. -/

open Sys2Proof Sys2Proof.Machine Sys2Proof.Laws

namespace Sys2Proof.Tests

set_option Elab.async false

/-! Helpers. -/

/-- Cluster `c` RUNNING on a stage die whose clock is locked. -/
def running (c : Nat) : State := setLocked (c / 4) true (State.reset.set F.CLU_STATUS_STATE 5 c)

/-- That cluster with the given prompter state, and the word `w` at its PC. -/
def atWord (c : Nat) (w : Word) (k : Clu) : State := privWrite c (imemOff + k.pc) (toBytes 4 w.toNat) ((running c).setClu c k)

/-- The cluster's prompter with registers of increasing values, `g4` and `g5` addressing its data memory. -/
def k0 : Clu := { Clu.initial with regs := [0, 1, 2, 0xFFFFFFFF, 0x00040000, 0x00000500] ++ List.replicate 26 8 }

/-- The same inside both loops. -/
def kLoop : Clu := { k0 with loop0 := ⟨3, true, 4, 8⟩, loop1 := ⟨1, true, 4, 100⟩, pc := 8 }

/-- Addresses in data memory: `g2` its start, `g3` a byte before it, `g4` and `g5` a far pair through the stride of cluster 3. -/
def kAddr : Clu := { k0 with regs := [0, 0x1234F6F5, 0x40000, 0x3FFFF, 0x00340000, 0x0500, 0x0033FFFF, 0x0500] ++ List.replicate 24 0 }

/-- What a next state satisfies. -/
def after (r : Host.Outcome State Fault Refusal) (p : State → Bool) : Bool := match r with
  | .next t => p t
  | _ => false

/-- A queued macro-op of slot 0. -/
def mop0 : Mop := ⟨0, [], 0, .queued, false, [], 0, 0, 0, [], 0, false, false, none, false, 0⟩

/-- A LOCAL operand, packed: its four words (R319). -/
def opdW (base fmt rows cols : Nat) : List Nat := [base, fmt * 2 ^ 16 + 2 ^ 25, rows, cols]

/-- A macro-op word of one repetition (R319). -/
def mopW (fam sub fspec : Nat) (ops : List Nat) : List Nat := ([fam + 64 * sub, 1, 0, fspec] ++ ops ++ List.replicate 12 0).take 16

/-- A program of 8 slots. -/
def prog0 : Prog := ⟨0, 0, 0, 8, 64, 0, true, []⟩

/-- Cluster 3 RUNNING with that word in slot 0 and its macro-op at the head of queue `q`; its scratch holds the bytes 0x11, 0x12, … at
0 and zeros elsewhere. -/
def withMop (q : Nat) (ws : List Nat) : State :=
  let k := { k0 with prog := some prog0, queues := [0, 1, 2, 3].map fun i => if i = q then { IssueQ.empty with mops := [mop0], seq := 1 } else IssueQ.empty }
  let s := (privWrite 3 mopOff (ws.flatMap (toBytes 4)) (running 3)).setClu 3 k
  s.memWrite (scratchKey (slotOf s 3)) ((List.range 64).map fun i => BitVec.ofNat 8 (0x11 + i))

/-- An operand word row with flag bits set in its second word. -/
def opdF (base fmt flags rows cols : Nat) : List Nat := [base, fmt * 2 ^ 16 + flags, rows, cols]

/-- `withMop` with bytes written at offset `a` of the scratch. -/
def mopMem (q : Nat) (ws : List Nat) (a : Nat) (bs : List Byte) : State :=
  (withMop q ws).memWrite (scratchKey (slotOf (withMop q ws) 3) + a) bs

/-- 32-bit words as bytes. -/
def words (ws : List Nat) : List Byte := ws.flatMap (toBytes 4)

/-- Collective context 5 RUNNING with operation `oper`, cluster 3 its one contributor of FP32. -/
def withColl (oper : Nat) (s : State) : State :=
  (s.set F.COLL_STATE_STATE 3 5).setColl 5 { Coll.initial with header := [5 + oper * 2 ^ 12, 1, 4, 0, 0, 0, 0, 0, 0, 0].map (BitVec.ofNat 32), entries := [[3 + 2 ^ 20 + 2 ^ 22 + 2 ^ 23, 0, 0, 0].map (BitVec.ofNat 32)] }

/-- Entry 0 of table `t` admits every master to all of the pages from `lo` to `hi`. -/
def admitAll (t lo hi : Nat) (s : State) : State :=
  let s := (s.set F.ACC_ENT_MID_MID_LO 0 t 0).set F.ACC_ENT_MID_MID_HI 0xFFF t 0
  let s := ((s.set F.ACC_ENT_BASE_BASE (lo % 2 ^ 32) t 0).set F.ACC_ENT_CTL_BASE_HI (lo / 2 ^ 32) t 0).set F.ACC_ENT_LIMIT_LIMIT (hi % 2 ^ 32) t 0
  let s := (s.set F.ACC_ENT_CTL_LIMIT_HI (hi / 2 ^ 32) t 0).set F.ACC_ENT_CTL_RD 1 t 0
  (s.set F.ACC_ENT_CTL_WR 1 t 0).set F.ACC_ENT_CTL_VALID 1 t 0

/-- Port `p` in a state, with a time long after reset. -/
def portAt (p st : Nat) : State := { State.reset.set F.PORT_STATUS_STATE st p with ticks := 100000000 }

/-- A header: DST 0x04D, SRC 0x123, class 2, PUT of 4 bytes to a scratch address. -/
def hdr0 : Header := ⟨0x04D, 0x123, 2, 1, 4, false, false, 0, 0, 0, 7, 0, 0x040003000000, 0, 0⟩

/-- A stored frame with that header. -/
def stored0 : Stored := ⟨1, 2, hdr0, [1, 2, 3, 4], 0x55, false, 0, true⟩

/-- A complete packet with that header. -/
def pkt0 : Pkt := ⟨hdr0, [1, 2, 3, 4], BitVec.ofNat 32 (packetCrc hdr0 [1, 2, 3, 4]), true, false, .port 0, [5], 0, 1, false, false, false, 0, none, false⟩

/-- A good frame of that packet, sequence number `q`. -/
def goodFrame (q : Nat) : RxFrame :=
  ⟨2, BitVec.ofNat 8 q, hdr0, [1, 2, 3, 4], pkt0.trailer, 0, BitVec.ofNat 16 (lcrc (frameBytes hdr0 [1, 2, 3, 4] pkt0.trailer)), 0, 0, [], false⟩

/-- Forwarding on, endpoint 0x04D on port 1, which is ACTIVE; this device is 0x04E. -/
def routed (s : State) : State :=
  { ((s.set F.FWD_CTL_EN 1).set F.PORT_STATUS_STATE 5 1).set F.FWD_SELF_ID 0x04E with net.fwdTab := [(0x04D, 0x40000001#32)] }

/-- Packet 1 is `k`. -/
def withPkt (k : Pkt) (s : State) : State := s.setPkt 1 k

/-- The parts of a value that is there. -/
theorem some_parts {α : Type} {x : Option (α × State)} {d : α × State} (h : x.isSome = true) : x = some ((x.getD d).1, (x.getD d).2) := by
  cases x with
  | none => cases h
  | some y => rfl

def mm (s : State) : State := s.memWrite (privateKey (slotOf s 3) + 0x40000) [0xF1,0xF2,0x73,0xF4,5,6]

def mopAt (c slot : Nat) (ws : List Nat) (s : State) : State := privWrite c (mopOff + 64 * slot) (ws.flatMap (toBytes 4)) s

def kProg : Clu := { k0 with prog := some ⟨0, 0, 0, 2048, 0, 0, false, []⟩ }

def fullQ : IssueQ := { IssueQ.empty with mops := List.replicate 16 mop0, seq := 16 }

/-- Registers of instances 0 and 3 set. -/
def worn : State := [R.FWD_CNT_NOROUTE, R.ACC_TBL_DENYCNT, R.ACC_TBL_DENYMID, R.CUE_CNT_FIRED, R.PWR_CNT_CRIT, R.CLK_CNT_UNLOCK].foldl (fun s r => (s.wr r 3 0 7).wr r 0 0 9) State.reset

def ready : State := { State.reset.set F.HIF_STATUS_READY 1 with hif.linkUp := true }

def linked : State := { State.reset with hif.linkUp := true }

def six (l : List Nat) : List Counter := l.map fun f => { Counter.zero with flag := f, valid := true, armed := true, wbase := 16, wlimit := 32, target := 4 }

def kCount : Clu := { k0 with counters := six [5] ++ List.replicate 15 Counter.zero }

def kMail (n gap : Nat) : Clu := { k0 with mail := [⟨⟨List.replicate n (0x123456789ABCDEF, 1), gap⟩, 0xFFFFFFFF, 3, 5, 6, true, 9, false⟩] }

/-- Descriptor 7 of ring 5, with the given words, the only one outstanding. -/
def descOf (ws : List Nat) : Desc := ⟨7, 0, ws.map (BitVec.ofNat 32), false, 0, 0, 0, []⟩

def withDesc (ws : List Nat) (s : State) : State := s.setRing 5 { s.ring 5 with out := [descOf ws] }

def inState (c n : Nat) (k : Clu) : State := (State.reset.set F.CLU_STATUS_STATE n c).setClu c k

def halted (c cause : Nat) : State := (State.reset.set F.CLU_STATUS_STATE 8 c).set F.CLU_STATUS_HALTCAUSE cause c

/-- Clusters 3 and 40 are the members of line 31, with flag 9; the clusters in the list have arrived. -/
def curtain (arr : List Nat) (s : State) : State := arr.foldl (fun s c => s.wr R.CURT_ARR 31 (c / 32) (s.rd R.CURT_ARR 31 (c / 32) + 2 ^ (c % 32)))
  (((s.wr R.CURT_MEM 31 0 8).wr R.CURT_MEM 31 1 256).set F.CURT_CFG_FLAG 9 31)

def at31 : State := atWord 3 (encF 0x34 ⟨0, 0, 0, false, false, 31⟩) k0

def bare : List Byte :=
  let b := toBytes 4 0x4750564F ++ toBytes 4 1 ++ toBytes 4 4 ++ List.replicate 28 0 ++ toBytes 4 384 ++ List.replicate 340 0
  b.take 60 ++ toBytes 4 742569968 ++ b.drop 64

def loadOf (a : Nat) (img : List Byte) : LoadSt := ⟨a, 9, true, img, ⟨5, 7⟩⟩

def waitsFor : Clu := { k0 with wait := some (.flag 9 true 5 0) }

def imgAt : State := { inState 3 2 { k0 with load := some (loadOf 0 []) } with mem := bare.zipIdx.filterMap fun x => if x.1 = 0 then none else some (stackKey 0 0 + x.2, x.1) }

def imgS1 : State := (memRead 0 0 64 0 imgAt).2

def imgS2 : State := (memRead 0 0 (imageLength (bare.take 64)) 0 imgS1).2

def panel0 : Panel := ⟨[[some 1, some 2, none], [some 3, some 0, some 5]].map fun r => r.map fun x => x.map fun n => decodeFlt fFP32 (0x3F800000 + n), [], 0⟩

def hash0 : HashAcc := ⟨[], some (0, 0, 8), [], 0⟩

def hashA : HashAcc := (applyAll 8 0 [(0, 5), (1, 7)] hash0).getD HashAcc.empty

def hashM : HashAcc := (applyAll 8 0 [(3, 4), (3, 9)] hash0).getD HashAcc.empty

def at8 : Option (List Nat × State) → List Nat × State := fun x => x.getD ([], State.reset)

def pin : Pkt := { pkt0 with payload := [], complete := false, inRx := true, cells := [7] }

def nine : List Nat := [0, 1, 2, 3, 4, 5, 6, 7, 8]

def creds (p : Nat) (s : State) : State := nine.foldl (fun s c => (s.set F.PORT_TXCRED_PEER 100 p c).set F.PORT_TXCRED_AVAIL 50 p c) s

def p8 : Pkt := { pkt0 with hdr := { hdr0 with cls := 8 }, cells := [] }

def fs0 : FreeStore := ⟨4, 100, [2, 3], false, 0, 0, 0⟩

def pool5 (st : Nat) (f : FreeStore) (ws : SMap BufWord) (wt : List PoolWait) (gr : List (Nat × Nat)) : State :=
  (((State.reset.set F.POOL_STATUS_STATE st 5).set F.POOL_COUNT_N 100 5).set F.POOL_CTL_EN 1 5).setPool 5 ⟨[f], ws, wt, gr⟩

def tide (st : Nat) : State := { State.reset.set F.TIME_STATUS_STATE st with fabTime := 0x12345678ABCDEF01, ticks := 1000000000 }

def lateS (s : State) : State := { s with fabTime := 65536 * 5000000, ticks := 1000000000 }

/-- Stack 2 in state `st`, every master admitted to its first pages. -/
def stk (st : Nat) : State := { admitAll 2 0x2000000 0x20FFFFF (State.reset.set F.STK_STATUS_STATE st 2) with ticks := 1000000000 }

def line0 : CacheLine := ⟨(List.range 64).map (BitVec.ofNat 8), true, true, 0⟩

def ringsOn : State := { ((((State.reset.set F.HIF_RCFG_EN 1 0 5).set F.HIF_RCFG_SQLOG2 4 0 5).set F.HIF_RCFG_CQLOG2 4 0 5)) with ticks := 1000000000, hif.linkUp := true }

def runMop : Mop := { mop0 with phase := .running 0 }

def cluX (st : Nat) (k : Clu) : State := { (State.reset.set F.CLU_STATUS_STATE st 3).setClu 3 k with ticks := 1000000000 }

def kq : Clu := { k0 with prog := some ⟨0, 0, 0, 8, 64, 0, true, []⟩, queues := [0, 1, 2, 3].map fun i => if i = 1 then { IssueQ.empty with mops := [runMop] } else IssueQ.empty }

def good : State := { State.reset with fuses := { State.reset.fuses with slotOk := 2 ^ 100 - 1 } }


def temps (t : Nat) : List (BitVec 11) := List.replicate 200 (BitVec.ofNat 11 t)

def late (s : State) : State := { s with ticks := 1000000000 }


/-! Well-formed commands. -/

theorem test_wf_lengths : Instr.wf (.bar0Access 0 4 (some [1, 2, 3])) = false ∧ Instr.wf (.bar0Access 0 0 none) = false ∧
    Instr.wf (.bar0Access 0 4 (some [1, 2, 3, 4])) = true ∧ Instr.wf (.bar2Access (BitVec.ofNat 33 (2 ^ 33 - 1)) 2 none) = false ∧
    Instr.wf (.scratchWriteCounted 0x010 0 0x7FFFFF [1, 2]) = false ∧ Instr.wf (.scratchWriteCounted 0x010 0 0 []) = false := by decide

theorem test_wf_masters : Instr.wf (.registerWrite 0x005 0 0) = false ∧ Instr.wf (.registerWrite 0x004 0 0) = true ∧
    Instr.wf (.timeNowRead 0x140) = false ∧ Instr.wf (.timeNowRead 0x13F) = true ∧ Instr.wf (.ufail 0 80) = false ∧
    Instr.wf (.ufail 0 79) = true := by decide

theorem test_wf_counts : Instr.wf (.copy 0 0 (List.replicate 4097 0) none) = false ∧
    Instr.wf (.laneDriftCheck (List.replicate 1025 (0, 0))) = false ∧ Instr.wf (.sensorRead (List.replicate 201 0)) = false ∧
    Instr.wf (.bringupDone [] 0) = false ∧ Instr.wf (.smbRegaddr 2 none) = false := by decide +kernel

theorem test_wf_frame : Instr.wf (.frameRx 0 { goodFrame 0 with payload := List.replicate 4097 0 }) = false := by decide +kernel

/-! Words of the prompter, from the formats of R295. -/

theorem test_words_decode : decodePrompt 3 0b00000000000_00011_00010_00001_000001#32 = some (.aluAdd 3 1 2 3) ∧
    decodePrompt 3 0b1111111111111111_00010_00001_000010#32 = some (.addi 3 1 2 0xFFFF) ∧
    decodePrompt 3 0b0000000000000100_00110_00101_010100#32 = some (.lw 3 5 6 4) ∧
    decodePrompt 3 0b0000000000001000_01000_00111_011111#32 = some (.swx 3 7 8 8) ∧
    decodePrompt 3 0b1111111111111110_00010_00001_100001#32 = some (.bne 3 1 2 0xFFFE) := by decide

theorem test_words_decode_system : decodePrompt 3 0b0000000000000011_000001010_1_101001#32 = some (.loopi 3 true 10 3) ∧
    decodePrompt 3 0b00100001_0_0_0_00000_00000_00000_110000#32 = some (.setf 3 ⟨0, 0, 0, false, false, 0x21⟩) ∧
    decodePrompt 3 0b00000000101_00000_00100_01010_111000#32 = some (.issue 3 10 4 5) ∧
    decodePrompt 3 0x0000003F#32 = some (.end_ 3) ∧ decodePrompt 3 0x00000000#32 = none := by decide

/-! The queue. -/

theorem test_empty_queue_idles : step State.reset = .next State.reset := rfl

theorem witness_step : ({ State.reset with pending := [.aonDone, .fwdCntClr] } : State).pending = .aonDone :: [.fwdCntClr] := by decide

theorem test_reset_wf : State.reset.wf = true := by decide

/-! Stores and words. -/

theorem witness_stores : Memory.wf (State.reset.memWrite 7 [1, 0, 2]).mem = true ∧ Regs.wf (State.reset.set F.CLU_STATUS_STATE 5 3).regs = true ∧
    resetWord R.CLU_STATUS 79 0 < 2 ^ 32 ∧ F.CLU_STATUS_STATE.lo + F.CLU_STATUS_STATE.width ≤ 32 ∧
    F.CLU_STATUS_STATE.lo + F.CLU_STATUS_STATE.width ≤ F.CLU_STATUS_SLOT.lo ∧ F.CLU_STATUS_SLOT.reg = F.CLU_STATUS_STATE.reg ∧
    F.CLU_STATUS_SLOT.lo + F.CLU_STATUS_SLOT.width ≤ 32 ∧ R.CLU_WDOG.addr 0 0 ≠ R.CLU_STATUS.addr 0 0 := by decide +kernel



theorem witness_prompt_legal : promptWord (.end_ 3) = some (3, 0x3F#32) ∧ legalWord 0x3F#32 = true ∧ decodePrompt 3 0x3F#32 = some (.end_ 3) ∧
    imemWord State.reset 3 (State.reset.clu 3).pc ≠ 0x3F#32 ∧ canRun State.reset 3 = false := by decide +kernel



theorem witness_alu_results_1 :
    (let s : State := atWord 3 (encR 1 1 2 3 0) k0
     let c : ClusterId := 3
     let rd : GReg := 1
     let ra : GReg := 2
     let rb : GReg := 3
     let rdy : BitVec 11 → Prop := fun (fn : BitVec 11) ↦ readyFor s (↑c) (encR 1 rd ra rb fn) [rd, ra, rb] = true;
     rdy 0) ∧
    (let s : State := atWord 3 (encR 1 1 2 3 1) k0
     let c : ClusterId := 3
     let rd : GReg := 1
     let ra : GReg := 2
     let rb : GReg := 3
     let rdy : BitVec 11 → Prop := fun (fn : BitVec 11) ↦ readyFor s (↑c) (encR 1 rd ra rb fn) [rd, ra, rb] = true;
     rdy 1) ∧
    (let s : State := atWord 3 (encR 1 1 2 3 2) k0
     let c : ClusterId := 3
     let rd : GReg := 1
     let ra : GReg := 2
     let rb : GReg := 3
     let rdy : BitVec 11 → Prop := fun (fn : BitVec 11) ↦ readyFor s (↑c) (encR 1 rd ra rb fn) [rd, ra, rb] = true;
     rdy 2) ∧
    (let s : State := atWord 3 (encR 1 1 2 3 3) k0
     let c : ClusterId := 3
     let rd : GReg := 1
     let ra : GReg := 2
     let rb : GReg := 3
     let rdy : BitVec 11 → Prop := fun (fn : BitVec 11) ↦ readyFor s (↑c) (encR 1 rd ra rb fn) [rd, ra, rb] = true;
     rdy 3) ∧
    (let s : State := atWord 3 (encR 1 1 2 3 4) k0
     let c : ClusterId := 3
     let rd : GReg := 1
     let ra : GReg := 2
     let rb : GReg := 3
     let rdy : BitVec 11 → Prop := fun (fn : BitVec 11) ↦ readyFor s (↑c) (encR 1 rd ra rb fn) [rd, ra, rb] = true;
     rdy 4) ∧
    (let s : State := atWord 3 (encR 1 1 2 3 5) k0
     let c : ClusterId := 3
     let rd : GReg := 1
     let ra : GReg := 2
     let rb : GReg := 3
     let rdy : BitVec 11 → Prop := fun (fn : BitVec 11) ↦ readyFor s (↑c) (encR 1 rd ra rb fn) [rd, ra, rb] = true;
     rdy 5) := by
  refine ⟨?_, ?_, ?_, ?_, ?_, ?_⟩ <;> decide +kernel

theorem witness_alu_results_2 :
    (let s : State := atWord 3 (encR 1 1 2 3 6) k0
     let c : ClusterId := 3
     let rd : GReg := 1
     let ra : GReg := 2
     let rb : GReg := 3
     let rdy : BitVec 11 → Prop := fun (fn : BitVec 11) ↦ readyFor s (↑c) (encR 1 rd ra rb fn) [rd, ra, rb] = true;
     rdy 6) ∧
    (let s : State := atWord 3 (encR 1 1 2 3 7) k0
     let c : ClusterId := 3
     let rd : GReg := 1
     let ra : GReg := 2
     let rb : GReg := 3
     let rdy : BitVec 11 → Prop := fun (fn : BitVec 11) ↦ readyFor s (↑c) (encR 1 rd ra rb fn) [rd, ra, rb] = true;
     rdy 7) ∧
    (let s : State := atWord 3 (encR 1 1 2 3 8) k0
     let c : ClusterId := 3
     let rd : GReg := 1
     let ra : GReg := 2
     let rb : GReg := 3
     let rdy : BitVec 11 → Prop := fun (fn : BitVec 11) ↦ readyFor s (↑c) (encR 1 rd ra rb fn) [rd, ra, rb] = true;
     rdy 8) ∧
    (let s : State := atWord 3 (encR 1 1 2 3 9) k0
     let c : ClusterId := 3
     let rd : GReg := 1
     let ra : GReg := 2
     let rb : GReg := 3
     let rdy : BitVec 11 → Prop := fun (fn : BitVec 11) ↦ readyFor s (↑c) (encR 1 rd ra rb fn) [rd, ra, rb] = true;
     rdy 9) ∧
    (let s : State := atWord 3 (encR 1 1 2 3 10) k0
     let c : ClusterId := 3
     let rd : GReg := 1
     let ra : GReg := 2
     let rb : GReg := 3
     let rdy : BitVec 11 → Prop := fun (fn : BitVec 11) ↦ readyFor s (↑c) (encR 1 rd ra rb fn) [rd, ra, rb] = true;
     rdy 10) ∧
    (let s : State := atWord 3 (encR 1 1 2 3 11) k0
     let c : ClusterId := 3
     let rd : GReg := 1
     let ra : GReg := 2
     let rb : GReg := 3
     let rdy : BitVec 11 → Prop := fun (fn : BitVec 11) ↦ readyFor s (↑c) (encR 1 rd ra rb fn) [rd, ra, rb] = true;
     rdy 11) := by
  refine ⟨?_, ?_, ?_, ?_, ?_, ?_⟩ <;> decide +kernel

theorem witness_alu_results_3 :
    (let s : State := atWord 3 (encR 1 1 2 3 12) k0
     let c : ClusterId := 3
     let rd : GReg := 1
     let ra : GReg := 2
     let rb : GReg := 3
     let rdy : BitVec 11 → Prop := fun (fn : BitVec 11) ↦ readyFor s (↑c) (encR 1 rd ra rb fn) [rd, ra, rb] = true;
     rdy 12) ∧
    (let s : State := atWord 3 (encR 1 1 2 3 13) k0
     let c : ClusterId := 3
     let rd : GReg := 1
     let ra : GReg := 2
     let rb : GReg := 3
     let rdy : BitVec 11 → Prop := fun (fn : BitVec 11) ↦ readyFor s (↑c) (encR 1 rd ra rb fn) [rd, ra, rb] = true;
     rdy 13) ∧
    (let s : State := atWord 3 (encR 1 1 2 3 14) k0
     let c : ClusterId := 3
     let rd : GReg := 1
     let ra : GReg := 2
     let rb : GReg := 3
     let rdy : BitVec 11 → Prop := fun (fn : BitVec 11) ↦ readyFor s (↑c) (encR 1 rd ra rb fn) [rd, ra, rb] = true;
     rdy 14) ∧
    (let s : State := atWord 3 (encR 1 1 2 3 15) k0
     let c : ClusterId := 3
     let rd : GReg := 1
     let ra : GReg := 2
     let rb : GReg := 3
     let rdy : BitVec 11 → Prop := fun (fn : BitVec 11) ↦ readyFor s (↑c) (encR 1 rd ra rb fn) [rd, ra, rb] = true;
     rdy 15) ∧
    (let s : State := atWord 3 (encR 1 1 2 3 16) k0
     let c : ClusterId := 3
     let rd : GReg := 1
     let ra : GReg := 2
     let rb : GReg := 3
     let rdy : BitVec 11 → Prop := fun (fn : BitVec 11) ↦ readyFor s (↑c) (encR 1 rd ra rb fn) [rd, ra, rb] = true;
     rdy 16) ∧
    (let s : State := atWord 3 (encR 1 1 2 3 17) k0
     let c : ClusterId := 3
     let rd : GReg := 1
     let ra : GReg := 2
     let rb : GReg := 3
     let rdy : BitVec 11 → Prop := fun (fn : BitVec 11) ↦ readyFor s (↑c) (encR 1 rd ra rb fn) [rd, ra, rb] = true;
     rdy 17) := by
  refine ⟨?_, ?_, ?_, ?_, ?_, ?_⟩ <;> decide +kernel

theorem witness_alu_results_4 :
    (let s : State := atWord 3 (encR 1 31 3 0 18) k0
     let c : ClusterId := 3
     let rd : GReg := 31
     let ra : GReg := 3
     readyFor s (↑c) (encR 1 rd ra 0 18) [rd, ra, 0] = true) ∧
    (let s : State := atWord 3 (encR 1 31 3 0 19) k0
     let c : ClusterId := 3
     let rd : GReg := 31
     let ra : GReg := 3
     readyFor s (↑c) (encR 1 rd ra 0 19) [rd, ra, 0] = true) := by
  refine ⟨?_, ?_⟩ <;> decide +kernel

theorem witness_immediate_results_1 :
    (let s : State := atWord 3 (encI 2 1 3 0xFFFF) k0
     let c : ClusterId := 3
     let rd : GReg := 1
     let ra : GReg := 3
     let imm : BitVec 16 := 0xFFFF
     let rdy : BitVec 6 → Prop := fun (op : BitVec 6) ↦ readyFor s (↑c) (encI op rd ra imm) [rd, ra] = true;
     rdy 2) ∧
    (let s : State := atWord 3 (encI 3 1 3 0xFFFF) k0
     let c : ClusterId := 3
     let rd : GReg := 1
     let ra : GReg := 3
     let imm : BitVec 16 := 0xFFFF
     let rdy : BitVec 6 → Prop := fun (op : BitVec 6) ↦ readyFor s (↑c) (encI op rd ra imm) [rd, ra] = true;
     rdy 3) ∧
    (let s : State := atWord 3 (encI 4 1 3 0xFFFF) k0
     let c : ClusterId := 3
     let rd : GReg := 1
     let ra : GReg := 3
     let imm : BitVec 16 := 0xFFFF
     let rdy : BitVec 6 → Prop := fun (op : BitVec 6) ↦ readyFor s (↑c) (encI op rd ra imm) [rd, ra] = true;
     rdy 4) ∧
    (let s : State := atWord 3 (encI 5 1 3 0xFFFF) k0
     let c : ClusterId := 3
     let rd : GReg := 1
     let ra : GReg := 3
     let imm : BitVec 16 := 0xFFFF
     let rdy : BitVec 6 → Prop := fun (op : BitVec 6) ↦ readyFor s (↑c) (encI op rd ra imm) [rd, ra] = true;
     rdy 5) ∧
    (let s : State := atWord 3 (encI 6 1 3 0xFFFF) k0
     let c : ClusterId := 3
     let rd : GReg := 1
     let ra : GReg := 3
     let imm : BitVec 16 := 0xFFFF
     let rdy : BitVec 6 → Prop := fun (op : BitVec 6) ↦ readyFor s (↑c) (encI op rd ra imm) [rd, ra] = true;
     rdy 6) ∧
    (let s : State := atWord 3 (encI 7 1 3 0xFFFF) k0
     let c : ClusterId := 3
     let rd : GReg := 1
     let ra : GReg := 3
     let imm : BitVec 16 := 0xFFFF
     let rdy : BitVec 6 → Prop := fun (op : BitVec 6) ↦ readyFor s (↑c) (encI op rd ra imm) [rd, ra] = true;
     rdy 7) := by
  refine ⟨?_, ?_, ?_, ?_, ?_, ?_⟩ <;> decide +kernel

theorem witness_immediate_results_2 :
    (let s : State := atWord 3 (encI 8 1 3 ((0#9) ++ (0#2) ++ (31#5))) k0
     let c : ClusterId := 3
     let rd : GReg := 1
     let ra : GReg := 3
     let kind : BitVec 2 := 0
     let amt : BitVec 5 := 31
     readyFor s (↑c) (encI 8 rd ra (0#9 ++ kind ++ amt)) [rd, ra] = true) ∧
    (let s : State := atWord 3 (encI 9 0 0 0xFFFF) k0
     let c : ClusterId := 3
     let rd : GReg := 0
     let imm : BitVec 16 := 0xFFFF
     readyFor s (↑c) (encI 9 rd 0 imm) [rd, 0] = true) := by
  refine ⟨?_, ?_⟩ <;> decide +kernel

theorem witness_local_loads :
    (let s : State := mm (atWord 3 (encI 0x10 1 2 0) kAddr)
     let c : ClusterId := 3
     let rd : GReg := 1
     let ra : GReg := 2
     let imm : BitVec 16 := 0
     let l : Nat := localOff s c ra imm;
     let rdy : BitVec 6 → Nat → Prop := fun (op : BitVec 6) (n : Nat) ↦
       readyFor s (↑c) (encI op rd ra imm) [rd, ra] = true ∧
         inDataMemory l n ∧
           storeOverlaps s (↑c) (5497826574336 + l) n = false ∧ loadPending s (↑c) (5497826574336 + l) (s.clu ↑c).loads = false ∧ s.upsets = [];
     rdy 16 1) ∧
    (let s : State := mm (atWord 3 (encI 0x11 1 2 0) kAddr)
     let c : ClusterId := 3
     let rd : GReg := 1
     let ra : GReg := 2
     let imm : BitVec 16 := 0
     let l : Nat := localOff s c ra imm;
     let rdy : BitVec 6 → Nat → Prop := fun (op : BitVec 6) (n : Nat) ↦
       readyFor s (↑c) (encI op rd ra imm) [rd, ra] = true ∧
         inDataMemory l n ∧
           storeOverlaps s (↑c) (5497826574336 + l) n = false ∧ loadPending s (↑c) (5497826574336 + l) (s.clu ↑c).loads = false ∧ s.upsets = [];
     rdy 17 1) ∧
    (let s : State := mm (atWord 3 (encI 0x12 1 2 0) kAddr)
     let c : ClusterId := 3
     let rd : GReg := 1
     let ra : GReg := 2
     let imm : BitVec 16 := 0
     let l : Nat := localOff s c ra imm;
     let rdy : BitVec 6 → Nat → Prop := fun (op : BitVec 6) (n : Nat) ↦
       readyFor s (↑c) (encI op rd ra imm) [rd, ra] = true ∧
         inDataMemory l n ∧
           storeOverlaps s (↑c) (5497826574336 + l) n = false ∧ loadPending s (↑c) (5497826574336 + l) (s.clu ↑c).loads = false ∧ s.upsets = [];
     rdy 18 2) ∧
    (let s : State := mm (atWord 3 (encI 0x13 1 2 0) kAddr)
     let c : ClusterId := 3
     let rd : GReg := 1
     let ra : GReg := 2
     let imm : BitVec 16 := 0
     let l : Nat := localOff s c ra imm;
     let rdy : BitVec 6 → Nat → Prop := fun (op : BitVec 6) (n : Nat) ↦
       readyFor s (↑c) (encI op rd ra imm) [rd, ra] = true ∧
         inDataMemory l n ∧
           storeOverlaps s (↑c) (5497826574336 + l) n = false ∧ loadPending s (↑c) (5497826574336 + l) (s.clu ↑c).loads = false ∧ s.upsets = [];
     rdy 19 2) ∧
    (let s : State := mm (atWord 3 (encI 0x14 1 2 0) kAddr)
     let c : ClusterId := 3
     let rd : GReg := 1
     let ra : GReg := 2
     let imm : BitVec 16 := 0
     let l : Nat := localOff s c ra imm;
     let rdy : BitVec 6 → Nat → Prop := fun (op : BitVec 6) (n : Nat) ↦
       readyFor s (↑c) (encI op rd ra imm) [rd, ra] = true ∧
         inDataMemory l n ∧
           storeOverlaps s (↑c) (5497826574336 + l) n = false ∧ loadPending s (↑c) (5497826574336 + l) (s.clu ↑c).loads = false ∧ s.upsets = [];
     rdy 20 4) := by
  refine ⟨?_, ?_, ?_, ?_, ?_⟩ <;> decide +kernel

theorem witness_local_stores :
    (let c : ClusterId := 3
     let d : Nat := 0;
     d ≠ ↑c) ∧
    (let s : State := mm (atWord 3 (encI 0x15 1 2 0) kAddr)
     let c : ClusterId := 3
     let rs : GReg := 1
     let ra : GReg := 2
     let imm : BitVec 16 := 0
     let l : Nat := localOff s c ra imm;
     let rdy : BitVec 6 → Nat → Prop := fun (op : BitVec 6) (n : Nat) ↦
       readyFor s (↑c) (encI op rs ra imm) [rs, ra] = true ∧ inDataMemory l n ∧ loadPending s (↑c) (5497826574336 + l) (s.clu ↑c).loads = false;
     rdy 21 1) ∧
    (let s : State := mm (atWord 3 (encI 0x16 1 2 0) kAddr)
     let c : ClusterId := 3
     let rs : GReg := 1
     let ra : GReg := 2
     let imm : BitVec 16 := 0
     let l : Nat := localOff s c ra imm;
     let rdy : BitVec 6 → Nat → Prop := fun (op : BitVec 6) (n : Nat) ↦
       readyFor s (↑c) (encI op rs ra imm) [rs, ra] = true ∧ inDataMemory l n ∧ loadPending s (↑c) (5497826574336 + l) (s.clu ↑c).loads = false;
     rdy 22 2) ∧
    (let s : State := mm (atWord 3 (encI 0x17 1 2 0) kAddr)
     let c : ClusterId := 3
     let rs : GReg := 1
     let ra : GReg := 2
     let imm : BitVec 16 := 0
     let l : Nat := localOff s c ra imm;
     let rdy : BitVec 6 → Nat → Prop := fun (op : BitVec 6) (n : Nat) ↦
       readyFor s (↑c) (encI op rs ra imm) [rs, ra] = true ∧ inDataMemory l n ∧ loadPending s (↑c) (5497826574336 + l) (s.clu ↑c).loads = false;
     rdy 23 4) := by
  refine ⟨?_, ?_, ?_, ?_⟩ <;> decide +kernel

theorem witness_far_loads_issue :
    (let s : State := mm (atWord 3 (encI 0x18 1 4 0) kAddr)
     let c : ClusterId := 3
     let rd : GReg := 1
     let ra : GReg := 4
     let imm : BitVec 16 := 0
     let a : Nat := farOff s c ra imm;
     let rdy : BitVec 6 → Nat → Prop := fun (op : BitVec 6) (n : Nat) ↦
       readyFor s (↑c) (encI op rd ra imm) [rd, ra, ra + 1] = true ∧ a % n = 0 ∧ storeOverlaps s (↑c) a n = false;
     rdy 24 1) ∧
    (let s : State := mm (atWord 3 (encI 0x19 1 4 0) kAddr)
     let c : ClusterId := 3
     let rd : GReg := 1
     let ra : GReg := 4
     let imm : BitVec 16 := 0
     let a : Nat := farOff s c ra imm;
     let rdy : BitVec 6 → Nat → Prop := fun (op : BitVec 6) (n : Nat) ↦
       readyFor s (↑c) (encI op rd ra imm) [rd, ra, ra + 1] = true ∧ a % n = 0 ∧ storeOverlaps s (↑c) a n = false;
     rdy 25 1) ∧
    (let s : State := mm (atWord 3 (encI 0x1a 1 4 0) kAddr)
     let c : ClusterId := 3
     let rd : GReg := 1
     let ra : GReg := 4
     let imm : BitVec 16 := 0
     let a : Nat := farOff s c ra imm;
     let rdy : BitVec 6 → Nat → Prop := fun (op : BitVec 6) (n : Nat) ↦
       readyFor s (↑c) (encI op rd ra imm) [rd, ra, ra + 1] = true ∧ a % n = 0 ∧ storeOverlaps s (↑c) a n = false;
     rdy 26 2) ∧
    (let s : State := mm (atWord 3 (encI 0x1b 1 4 0) kAddr)
     let c : ClusterId := 3
     let rd : GReg := 1
     let ra : GReg := 4
     let imm : BitVec 16 := 0
     let a : Nat := farOff s c ra imm;
     let rdy : BitVec 6 → Nat → Prop := fun (op : BitVec 6) (n : Nat) ↦
       readyFor s (↑c) (encI op rd ra imm) [rd, ra, ra + 1] = true ∧ a % n = 0 ∧ storeOverlaps s (↑c) a n = false;
     rdy 27 2) ∧
    (let s : State := mm (atWord 3 (encI 0x1c 1 4 0) kAddr)
     let c : ClusterId := 3
     let rd : GReg := 1
     let ra : GReg := 4
     let imm : BitVec 16 := 0
     let a : Nat := farOff s c ra imm;
     let rdy : BitVec 6 → Nat → Prop := fun (op : BitVec 6) (n : Nat) ↦
       readyFor s (↑c) (encI op rd ra imm) [rd, ra, ra + 1] = true ∧ a % n = 0 ∧ storeOverlaps s (↑c) a n = false;
     rdy 28 4) := by
  refine ⟨?_, ?_, ?_, ?_, ?_⟩ <;> decide +kernel

theorem witness_far_stores :
    (let s : State := mm (atWord 3 (encI 0x1d 1 4 0) {kAddr with stores := [(0,1)]})
     let c : ClusterId := 3
     let rs : GReg := 1
     let ra : GReg := 4
     let imm : BitVec 16 := 0
     let a : Nat := farOff s c ra imm;
     let k : Clu := s.clu ↑c;
     let rdy : BitVec 6 → Nat → Prop := fun (op : BitVec 6) (n : Nat) ↦
       readyFor s (↑c) (encI op rs ra imm) [rs, ra, ra + 1] = true ∧
         ownStride c a n ∧ k.stores.length < 8 ∧ loadPending s (↑c) a k.loads = false;
     rdy 29 1) ∧
    (let s : State := mm (atWord 3 (encI 0x1e 1 4 0) {kAddr with stores := [(0,1)]})
     let c : ClusterId := 3
     let rs : GReg := 1
     let ra : GReg := 4
     let imm : BitVec 16 := 0
     let a : Nat := farOff s c ra imm;
     let k : Clu := s.clu ↑c;
     let rdy : BitVec 6 → Nat → Prop := fun (op : BitVec 6) (n : Nat) ↦
       readyFor s (↑c) (encI op rs ra imm) [rs, ra, ra + 1] = true ∧
         ownStride c a n ∧ k.stores.length < 8 ∧ loadPending s (↑c) a k.loads = false;
     rdy 30 2) ∧
    (let s : State := mm (atWord 3 (encI 0x1f 1 4 0) {kAddr with stores := [(0,1)]})
     let c : ClusterId := 3
     let rs : GReg := 1
     let ra : GReg := 4
     let imm : BitVec 16 := 0
     let a : Nat := farOff s c ra imm;
     let k : Clu := s.clu ↑c;
     let rdy : BitVec 6 → Nat → Prop := fun (op : BitVec 6) (n : Nat) ↦
       readyFor s (↑c) (encI op rs ra imm) [rs, ra, ra + 1] = true ∧
         ownStride c a n ∧ k.stores.length < 8 ∧ loadPending s (↑c) a k.loads = false;
     rdy 31 4) := by
  refine ⟨?_, ?_, ?_⟩ <;> decide +kernel

theorem witness_branches :
    (let s : State := atWord 3 (encI 0x20 2 3 65534) k0
     let c : ClusterId := 3
     let ra : GReg := 2
     let rb : GReg := 3
     let off : BitVec 16 := 65534
     let rdy : BitVec 6 → Prop := fun (op : BitVec 6) ↦ readyFor s (↑c) (encI op ra rb off) [ra, rb] = true;
     rdy 32) ∧
    (let s : State := atWord 3 (encI 0x21 2 3 65534) k0
     let c : ClusterId := 3
     let ra : GReg := 2
     let rb : GReg := 3
     let off : BitVec 16 := 65534
     let rdy : BitVec 6 → Prop := fun (op : BitVec 6) ↦ readyFor s (↑c) (encI op ra rb off) [ra, rb] = true;
     rdy 33) ∧
    (let s : State := atWord 3 (encI 0x22 2 3 65534) k0
     let c : ClusterId := 3
     let ra : GReg := 2
     let rb : GReg := 3
     let off : BitVec 16 := 65534
     let rdy : BitVec 6 → Prop := fun (op : BitVec 6) ↦ readyFor s (↑c) (encI op ra rb off) [ra, rb] = true;
     rdy 34) ∧
    (let s : State := atWord 3 (encI 0x23 2 3 65534) k0
     let c : ClusterId := 3
     let ra : GReg := 2
     let rb : GReg := 3
     let off : BitVec 16 := 65534
     let rdy : BitVec 6 → Prop := fun (op : BitVec 6) ↦ readyFor s (↑c) (encI op ra rb off) [ra, rb] = true;
     rdy 35) ∧
    (let s : State := atWord 3 (encI 0x24 2 3 65534) k0
     let c : ClusterId := 3
     let ra : GReg := 2
     let rb : GReg := 3
     let off : BitVec 16 := 65534
     let rdy : BitVec 6 → Prop := fun (op : BitVec 6) ↦ readyFor s (↑c) (encI op ra rb off) [ra, rb] = true;
     rdy 36) ∧
    (let s : State := atWord 3 (encI 0x25 2 3 65534) k0
     let c : ClusterId := 3
     let ra : GReg := 2
     let rb : GReg := 3
     let off : BitVec 16 := 65534
     let rdy : BitVec 6 → Prop := fun (op : BitVec 6) ↦ readyFor s (↑c) (encI op ra rb off) [ra, rb] = true;
     rdy 37) := by
  refine ⟨?_, ?_, ?_, ?_, ?_, ?_⟩ <;> decide +kernel

theorem witness_jumps_and_links :
    (let s : State := atWord 3 (encI 0x26 3 0 0xFFFE) k0
     let c : ClusterId := 3
     let rd : GReg := 3
     let off : BitVec 16 := 0xFFFE
     readyFor s (↑c) (encI 38 rd 0 off) [rd] = true) ∧
    (let s : State := atWord 3 (encI 0x27 3 3 1) k0
     let c : ClusterId := 3
     let rd : GReg := 3
     let ra : GReg := 3
     let off : BitVec 16 := 1
     let k : Clu := s.clu ↑c;
     let a : Nat := BitVec.toNat (k.reg ra + BitVec.signExtend 32 off) % 65536;
     readyFor s (↑c) (encI 39 rd ra off) [rd, ra] = true ∧ a % 4 = 0) ∧
    (let s : State := atWord 3 (encI 0x27 3 3 2) k0
     let c : ClusterId := 3
     let rd : GReg := 3
     let ra : GReg := 3
     let off : BitVec 16 := 2
     let k : Clu := s.clu ↑c;
     let a : Nat := BitVec.toNat (k.reg ra + BitVec.signExtend 32 off) % 65536;
     readyFor s (↑c) (encI 39 rd ra off) [rd, ra] = true ∧ a % 4 ≠ 0) := by
  refine ⟨?_, ?_, ?_⟩ <;> decide +kernel

theorem witness_hardware_loops :
    (let s : State := atWord 3 (encL 0x28 true ((0:GReg)++0#4) 4) k0
     let c : ClusterId := 3
     let n : Bool := true
     let ra : GReg := 0
     let last : BitVec 16 := 4
     let k : Clu := s.clu ↑c;
     let other : LoopSt := k.loop !n;
     let free : Prop := (k.loop n).active = false ∧ (other.active = false ∨ 4 * last.toNat < (other.last + 65536 - k.pc) % 65536);
     let rdyL : Prop := readyFor s (↑c) (encL 40 n (ra ++ 0#4) last) [ra] = true;
     rdyL ∧ free) ∧
    (let s : State := atWord 3 (encL 0x28 true ((0:GReg)++0#4) 4) { k0 with loop1 := kLoop.loop1 }
     let c : ClusterId := 3
     let n : Bool := true
     let ra : GReg := 0
     let last : BitVec 16 := 4
     let k : Clu := s.clu ↑c;
     let rdyL : Prop := readyFor s (↑c) (encL 40 n (ra ++ 0#4) last) [ra] = true;
     rdyL ∧ (k.loop n).active = true) ∧
    (let s : State := atWord 3 (encL 0x29 true 0 4) k0
     let c : ClusterId := 3
     let n : Bool := true
     let count : BitVec 9 := 0
     let last : BitVec 16 := 4
     let k : Clu := s.clu ↑c;
     let other : LoopSt := k.loop !n;
     let free : Prop := (k.loop n).active = false ∧ (other.active = false ∨ 4 * last.toNat < (other.last + 65536 - k.pc) % 65536);
     let rdyI : Prop := readyFor s (↑c) (encL 41 n count last) [] = true;
     rdyI ∧ free) ∧
    (let s : State := atWord 3 (encL 0x29 true 0 4) { k0 with loop1 := kLoop.loop1 }
     let c : ClusterId := 3
     let n : Bool := true
     let count : BitVec 9 := 0
     let last : BitVec 16 := 4
     let k : Clu := s.clu ↑c;
     let rdyI : Prop := readyFor s (↑c) (encL 41 n count last) [] = true;
     rdyI ∧ (k.loop n).active = true) := by
  refine ⟨?_, ?_, ?_, ?_⟩ <;> decide +kernel

theorem witness_pending_load_stalls :
    let s : State := atWord 3 (encR 1 1 7 0 0) { k0 with loads := [⟨7, 4, false, 0, 0, 0⟩] }
    let c : ClusterId := 3
    let rd : GReg := 1
    let ra : GReg := 7
    let rb : GReg := 0
    readyFor s (↑c) (encR 1 rd ra rb 0) [] = true ∧ ((s.clu ↑c).pendingReg rd || (s.clu ↑c).pendingReg ra || (s.clu ↑c).pendingReg rb) = true := by
  decide +kernel

theorem witness_csr_and_time_1 :
    (let s : State := atWord 3 (encI 0x2A 2 0 0) k0
     let c : ClusterId := 3
     let rd : GReg := 2
     let n : BitVec 12 := 0
     let rdyR : Prop := readyFor s (↑c) (encI 42 rd 0 (BitVec.zeroExtend 16 n)) [rd] = true;
     rdyR ∧ n ≠ 48) ∧
    (let s : State := atWord 3 (encI 0x2A 2 0 48) k0
     let c : ClusterId := 3
     let rd : GReg := 2
     let n : BitVec 12 := 48
     let rdyR : Prop := readyFor s (↑c) (encI 42 rd 0 (BitVec.zeroExtend 16 n)) [rd] = true;
     rdyR ∧ n = 48) ∧
    (let s : State := atWord 3 (encI 0x2B 1 0 2) { k0 with lcwarn := true }
     let c : ClusterId := 3
     let rd : GReg := 1
     let n : BitVec 12 := 2
     let rdyW : Prop := readyFor s (↑c) (encI 43 rd 0 (BitVec.zeroExtend 16 n)) [rd] = true;
     rdyW ∧ n = 2) ∧
    (let s : State := atWord 3 (encI 0x2B 1 0 16) { k0 with lcwarn := true }
     let c : ClusterId := 3
     let rd : GReg := 1
     let n : BitVec 12 := 16
     let k : Clu := s.clu ↑c;
     let rdyW : Prop := readyFor s (↑c) (encI 43 rd 0 (BitVec.zeroExtend 16 n)) [rd] = true;
     rdyW ∧ n = 16 ∧ k.loop0.active = false) ∧
    (let s : State := atWord 3 (encI 0x2B 1 0 16) { kLoop with pc := 0 }
     let c : ClusterId := 3
     let rd : GReg := 1
     let n : BitVec 12 := 16
     let k : Clu := s.clu ↑c;
     let rdyW : Prop := readyFor s (↑c) (encI 43 rd 0 (BitVec.zeroExtend 16 n)) [rd] = true;
     rdyW ∧ n = 16 ∧ k.loop0.active = true) ∧
    (let s : State := atWord 3 (encI 0x2B 1 0 17) { k0 with lcwarn := true }
     let c : ClusterId := 3
     let rd : GReg := 1
     let n : BitVec 12 := 17
     let k : Clu := s.clu ↑c;
     let rdyW : Prop := readyFor s (↑c) (encI 43 rd 0 (BitVec.zeroExtend 16 n)) [rd] = true;
     rdyW ∧ n = 17 ∧ k.loop1.active = false) := by
  refine ⟨?_, ?_, ?_, ?_, ?_, ?_⟩ <;> decide +kernel

theorem witness_csr_and_time_2 :
    (let s : State := atWord 3 (encI 0x2B 1 0 17) { kLoop with pc := 0 }
     let c : ClusterId := 3
     let rd : GReg := 1
     let n : BitVec 12 := 17
     let k : Clu := s.clu ↑c;
     let rdyW : Prop := readyFor s (↑c) (encI 43 rd 0 (BitVec.zeroExtend 16 n)) [rd] = true;
     rdyW ∧ n = 17 ∧ k.loop1.active = true) ∧
    (let s : State := { atWord 3 (encI 0x35 2 0 0) k0 with fabTime := 0x123456789ABCDEF }
     let c : ClusterId := 3
     let rd : GReg := 2
     readyFor s (↑c) (encI 53 rd 0 0) [rd, rd + 1] = true) := by
  refine ⟨?_, ?_⟩ <;> decide +kernel

theorem witness_flag_instructions :
    (let s : State := atWord 3 (encF 0x30 ⟨0, 0, 0, false, false, 5⟩) k0
     let c : ClusterId := 3
     let x : FlagForm := ⟨0, 0, 0, false, false, 5⟩
     let k : Clu := s.clu ↑c;
     let f : Nat := namedFlag k x;
     readyFor s (↑c) (encF 48 x) [x.ra] = true ∧ k.stores = [] ∧ k.governor f = none ∧ k.flagWaits = []) ∧
    (let s : State := atWord 3 (encF 0x30 ⟨0, 0, 0, false, false, 5⟩) { k0 with stores := [(1, 1)] }
     let c : ClusterId := 3
     let x : FlagForm := ⟨0, 0, 0, false, false, 5⟩
     let k : Clu := s.clu ↑c;
     readyFor s (↑c) (encF 48 x) [x.ra] = true ∧ k.stores ≠ []) ∧
    (let s : State := atWord 3 (encF 0x31 ⟨0, 0, 0, false, false, 5⟩) k0
     let c : ClusterId := 3
     let x : FlagForm := ⟨0, 0, 0, false, false, 5⟩
     let k : Clu := s.clu ↑c;
     let f : Nat := namedFlag k x;
     readyFor s (↑c) (encF 49 x) [x.ra] = true ∧ k.governor f = none) ∧
    (let s : State := atWord 3 (encF 0x32 ⟨1, 0, 0, false, false, 5⟩) k0
     let c : ClusterId := 3
     let x : FlagForm := ⟨1, 0, 0, false, false, 5⟩
     readyFor s (↑c) (encF 50 x) [x.rd, x.ra] = true) := by
  refine ⟨?_, ?_, ?_, ?_⟩ <;> decide +kernel

theorem witness_prompter_waits :
    (let s : State := atWord 3 (encF 0x33 ⟨0, 0, 0, false, false, 5⟩) k0
     let c : ClusterId := 3
     let x : FlagForm := ⟨0, 0, 0, false, false, 5⟩
     let k : Clu := s.clu ↑c;
     let f : Nat := namedFlag k x;
     noMops (s.clu ↑c) ∧ readyFor s (↑c) (encF 51 x) [x.ra, x.rt] = true ∧ k.flag f = false) ∧
    (let s : State := atWord 3 (encF 0x33 ⟨0, 0, 0, false, false, 5⟩) { k0 with flags := 2 ^ 256 - 1, queues := List.replicate 4 { IssueQ.empty with seq := 20, retired := 20 } }
     let c : ClusterId := 3
     let x : FlagForm := ⟨0, 0, 0, false, false, 5⟩
     let k : Clu := s.clu ↑c;
     let f : Nat := namedFlag k x;
     noMops (s.clu ↑c) ∧ readyFor s (↑c) (encF 51 x) [x.ra, x.rt] = true ∧ k.flag f = true ∧ k.governor f = none) ∧
    (let s : State := atWord 3 (encF 0x3a ⟨0, 1, 0, false, false, 0⟩) k0
     let c : ClusterId := 3
     let x : FlagForm := ⟨0, 1, 0, false, false, 0⟩
     let k : Clu := s.clu ↑c;
     let ticket : Nat := BitVec.toNat (k.reg x.ra);
     let q : IssueQ := k.queues.getD (ticket % 4) IssueQ.empty;
     noMops (s.clu ↑c) ∧ readyFor s (↑c) (encF 58 x) [x.ra, x.rt] = true ∧ q.passed (fieldOf ticket 2 14) = true) ∧
    (let s : State := atWord 3 (encF 0x3a ⟨0, 3, 2, false, false, 0⟩) k0
     let c : ClusterId := 3
     let x : FlagForm := ⟨0, 3, 2, false, false, 0⟩
     let k : Clu := s.clu ↑c;
     let ticket : Nat := BitVec.toNat (k.reg x.ra);
     let q : IssueQ := k.queues.getD (ticket % 4) IssueQ.empty;
     noMops (s.clu ↑c) ∧ readyFor s (↑c) (encF 58 x) [x.ra, x.rt] = true ∧ q.passed (fieldOf ticket 2 14) = false) ∧
    (let s : State := atWord 3 (encI 0x36 0 0 0) k0
     let c : ClusterId := 3
     let ra : GReg := 0
     let k : Clu := s.clu ↑c;
     let ns : Nat := BitVec.toNat (k.reg ra) + BitVec.toNat (k.reg (ra + 1)) * 2 ^ 32;
     noMops (s.clu ↑c) ∧ readyFor s (↑c) (encI 54 ra 0 0) [ra, ra + 1] = true ∧ s.nowNs < ns) ∧
    (let s : State := { atWord 3 (encI 0x36 0 0 0) k0 with fabTime := 2 ^ 63 }
     let c : ClusterId := 3
     let ra : GReg := 0
     let k : Clu := s.clu ↑c;
     let ns : Nat := BitVec.toNat (k.reg ra) + BitVec.toNat (k.reg (ra + 1)) * 2 ^ 32;
     noMops (s.clu ↑c) ∧ readyFor s (↑c) (encI 54 ra 0 0) [ra, ra + 1] = true ∧ ns ≤ s.nowNs) := by
  refine ⟨?_, ?_, ?_, ?_, ?_, ?_⟩ <;> decide +kernel

theorem witness_traps :
    let s : State := running 3
    let c : ClusterId := 3
    let cause : Nat := 1
    let addr : Nat := 0
    let k : Clu := s.clu ↑c;
    cause < 256 ∧
      addr < 2 ^ 48 ∧
        cluState s ↑c = 5 ∧
          s.wf = true ∧ (s.clu ↑c).pc < 65536 ∧ (s.clu ↑c).startCmd = none ∧ canRun s ↑c = true ∧ legalWord (imemWord s (↑c) k.pc) = false := by
  decide +kernel

theorem witness_far_load_returns :
    let s : State := mm ((running 3).setClu 3 {kAddr with loads := [⟨7,2,true,0x050000340000,0,0⟩]})
    let c : ClusterId := 3
    let i : BitVec 8 := 0
    let l : FarLoad := ⟨7,2,true,0x050000340000,0,0⟩
    (s.clu ↑c).loads[i.toNat]? = some l ∧
      cluState s ↑c = 5 ∧
        ownStride c l.addr l.size ∧
          l.rd < 32 ∧
            (l.size = 1 ∨ l.size = 2 ∨ l.size = 4) ∧
              loadPending s (↑c) l.addr (List.take i.toNat (s.clu ↑c).loads) = false ∧ failing s ↑c = false ∧ s.upsets = [] := by
  decide +kernel

theorem witness_counter_clears :
    (let s : State := worn
     let c : ClusterId := 3
     let q : QueueId := 0
     Regs.wf s.regs = true ∧ present s ↑c = true ∧ portDefined s (↑q / 9) = true) ∧
    (let s : State := worn.set F.CLU_STATUS_STATE 11 3
     let c : ClusterId := 3
     let q : QueueId := 4607
     Regs.wf s.regs = true ∧ present s ↑c = false ∧ portDefined s (↑q / 9) = false) := by
  refine ⟨?_, ?_⟩ <;> decide +kernel

theorem witness_register_write_classes :
    (let s : State := State.reset
     let off : BitVec 24 := BitVec.ofNat 24 (2 ^ 24 - 1);
     Regs.wf s.regs = true ∧ findReg (4 * off.toNat) = none) ∧
    (let s : State := State.reset
     Regs.wf s.regs = true ∧ cluState s 0 ≠ 11 ∧ s.flag F.FWD_CTL_EN = false ∧ s.armed (CommitGroup.curt 0) = false) ∧
    (let s : State := worn.set F.FWD_CTL_EN 1
     let v : Word := 0xFFFFFFFF
     Regs.wf s.regs = true ∧ s.flag F.FWD_CTL_EN = true ∧ BitVec.toNat v % 2 ^ 20 ≠ s.get F.FWD_SELF_ID ∧ s.flag F.ERR_CFG_REJECT = false) := by
  refine ⟨?_, ?_, ?_⟩ <;> decide +kernel

theorem witness_commits_1 :
    (let s : State := (worn)
     let g : CommitGroup := .fwd
     let tag : Byte := 0
     let there : Prop := ∀ (c : ClusterId), g = CommitGroup.arr c → cluState s ↑c ≠ 11;
     Regs.wf s.regs = true ∧ rising none s.shadow = true ∧ there ∧ s.armed g = false ∧ BitVec.toNat tag = s.ctag g) ∧
    (let s : State := (worn)
     let g : CommitGroup := .fwd
     let tag : Byte := 7
     let there : Prop := ∀ (c : ClusterId), g = CommitGroup.arr c → cluState s ↑c ≠ 11;
     Regs.wf s.regs = true ∧ rising none s.shadow = true ∧ there ∧ s.armed g = false ∧ BitVec.toNat tag ≠ s.ctag g) ∧
    (let s : State := ((worn.wr R.CURT_COMMIT 31 0 256))
     let l : LineId := 31
     Regs.wf s.regs = true ∧
       rising none s.shadow = true ∧ s.armed (CommitGroup.curt l) = true ∧ ∀ (j : Nat), j < 3 → s.rdShadow R.CURT_MEM (↑l) j = 0) ∧
    (let s : State := ((worn.wr R.CURT_COMMIT 31 0 256))
     let g : CommitGroup := .curt 31
     Regs.wf s.regs = true ∧ rising none s.shadow = true ∧ s.armed g = true) ∧
    (let s : State := (worn.set F.CLU_STATUS_STATE 11 0)
     let c : ClusterId := 0;
     Regs.wf s.regs = true ∧ rising none s.shadow = true ∧ cluState s ↑c = 11) ∧
    (let s : State := { (worn.setPending .fmc true) with shadow := [(R.ACC_TBL_COMMIT.addr 3 0, 7#32), (R.ACC_FMC_LO.addr 0 0, 5#32), (R.ACC_FMC_HI.addr 0 0, 0x80000009#32), (R.ACC_FMC_LO.addr 0 63, 0xFFFFFFFF#32)] }
     Regs.wf s.regs = true ∧ rising none s.shadow = true ∧ s.armed CommitGroup.fmc = true) := by
  refine ⟨?_, ?_, ?_, ?_, ?_, ?_⟩ <;> decide +kernel

theorem witness_commits_2 :
    (let s : State := { (worn.setPending (.stk 3) true) with shadow := [(R.STK_CFG.addr 3 0, 0x00110251#32)] }
     let n : StackId := 3
     let w : Nat := s.rdShadow R.STK_CFG (↑n) 0;
     Regs.wf s.regs = true ∧ rising none s.shadow = true ∧ s.armed (CommitGroup.stk n) = true ∧ w / 2 ^ 8 % 256 ≠ 0 ∧ w / 2 ^ 16 % 256 ≠ 0) ∧
    (let s : State := { (worn.setPending (.stk 3) true) with shadow := [(R.STK_CFG.addr 3 0, 0x00000251#32)] }
     let n : StackId := 3
     let w : Nat := s.rdShadow R.STK_CFG (↑n) 0;
     Regs.wf s.regs = true ∧ rising none s.shadow = true ∧ s.armed (CommitGroup.stk n) = true ∧ (w / 2 ^ 8 % 256 = 0 ∨ w / 2 ^ 16 % 256 = 0)) := by
  refine ⟨?_, ?_⟩ <;> decide +kernel

theorem witness_access_block_guard :
    (let mid : Nat := 0
     let a : Nat := 139637978824704
     let len : Nat := 4
     (len = 4 ∨ len = 8) ∧ a % len = 0 ∧ mid ≤ 4 ∧ 139637978824704 ≤ a ∧ a < 139637979873280) ∧
    (let mid : Nat := 5
     let a : Nat := 139637978824704
     let len : Nat := 4
     (len = 4 ∨ len = 8) ∧ a % len = 0 ∧ 4 < mid ∧ 139637978824704 ≤ a ∧ a < 139637980135424) := by
  refine ⟨?_, ?_⟩ <;> decide +kernel

theorem witness_host_windows_1 :
    (let s : State := ready
     let off : BitVec 26 := 0x200000
     s.hif.linkUp = true ∧ 2097152 ≤ off.toNat ∧ off.toNat < 3145728 ∧ off.toNat % 4 = 0) ∧
    (let s : State := linked
     let off : BitVec 26 := 0x800000
     let len : BitVec 13 := 4
     let bs : List Byte := [255, 255, 255, 255]
     let ready : Prop := s.flag F.HIF_STATUS_READY = true;
     s.hif.linkUp = true ∧ ¬ready ∧ len.toNat = 4 ∧ off.toNat % 4 = 0 ∧ earlyRegister s false off.toNat = false ∧ bs.length = 4) ∧
    (let s : State := (ready.set F.HIF_WIN_HI_BASE 0x7F00).set F.HIF_WIN_LO_BASE 0
     let off2 : BitVec 33 := 0x2FFFFC
     let bs : List Byte := [1, 2, 3, 4]
     let o : Nat := 0x2FFFFC
     let n : Nat := 4
     let ready : Prop := s.flag F.HIF_STATUS_READY = true;
     let a2 : Nat := winBase s + off2.toNat;
     let fits : Prop := off2.toNat + n ≤ 2 ^ 33;
     s.hif.linkUp = true ∧ ready ∧ (n = 4 ∨ n = 8) ∧ bs.length = n ∧ (judge s 0 a2 n true = (100, Loc.reg o, Gate.free)) ∧ fits) ∧
    (let s : State := linked.set F.CAL_BOOT_STAGE 7
     let off : BitVec 26 := 0x0
     let off2 : BitVec 33 := 0x3FFFFE
     let len : BitVec 13 := 4
     let bs : List Byte := [1, 2]
     let ready : Prop := s.flag F.HIF_STATUS_READY = true;
     s.hif.linkUp = true ∧
       ¬ready ∧
         len.toNat = 4 ∧
           off.toNat % 4 = 0 ∧ earlyRegister s false off.toNat = true ∧ bootStage s = 7 ∧ bs ≠ [] ∧ off2.toNat + bs.length ≤ 4194304) ∧
    (let s : State := ((ready.set F.CLU_STATUS_STATE 5 0).set F.HIF_WIN_HI_BASE 0x400).set F.HIF_WIN_LO_BASE 0
     let off2 : BitVec 33 := 0x0
     let len : BitVec 13 := 4
     let o : Nat := 0
     let n : Nat := 4
     let ready : Prop := s.flag F.HIF_STATUS_READY = true;
     let a2 : Nat := winBase s + off2.toNat;
     let fits : Prop := off2.toNat + n ≤ 2 ^ 33;
     let c : ClusterId := 0;
     let t : Nat := 20;
     s.hif.linkUp = true ∧
       ready ∧ fits ∧ s.upsets = [] ∧ cluState s ↑c = 5 ∧ len.toNat = n ∧ n ≠ 0 ∧ judge s 0 a2 n false = (t, Loc.scratch (↑c) o, Gate.free)) ∧
    (let s : State := ((ready.set F.CLU_STATUS_STATE 5 0).set F.HIF_WIN_HI_BASE 0x400).set F.HIF_WIN_LO_BASE 0
     let off2 : BitVec 33 := 0x0
     let bs : List Byte := [1, 2, 3, 4]
     let o : Nat := 0
     let n : Nat := 4
     let ready : Prop := s.flag F.HIF_STATUS_READY = true;
     let a2 : Nat := winBase s + off2.toNat;
     let fits : Prop := off2.toNat + n ≤ 2 ^ 33;
     let c : ClusterId := 0;
     let t : Nat := 20;
     s.hif.linkUp = true ∧
       ready ∧ fits ∧ s.upsets = [] ∧ cluState s ↑c = 5 ∧ bs.length = n ∧ n ≠ 0 ∧ judge s 0 a2 n true = (t, Loc.scratch (↑c) o, Gate.free)) := by
  refine ⟨?_, ?_, ?_, ?_, ?_, ?_⟩ <;> decide +kernel

theorem witness_host_windows_2 :
    let s : State := (ready.set F.HIF_WIN_HI_BASE 0x7F00).set F.HIF_WIN_LO_BASE 0
    let off2 : BitVec 33 := 0x200000
    let len : BitVec 13 := 4
    let o : Nat := 0x200000
    let n : Nat := 4
    let ready : Prop := s.flag F.HIF_STATUS_READY = true;
    let a2 : Nat := winBase s + off2.toNat;
    let fits : Prop := off2.toNat + n ≤ 2 ^ 33;
    s.hif.linkUp = true ∧ ready ∧ (n = 4 ∨ n = 8) ∧ len.toNat = n ∧ (judge s 0 a2 n false = (100, Loc.reg o, Gate.free)) ∧ fits := by
  decide +kernel

theorem witness_host_windows_deep_1 :
    let s : State := ready
    let off : BitVec 26 := 0x200000
    let len : BitVec 13 := 4
    let bs : List Byte := [1, 2, 3, 4]
    let o : Nat := 0x200000
    let n : Nat := 4
    let ready : Prop := s.flag F.HIF_STATUS_READY = true;
    let a0 : Nat := 139637976727552 + off.toNat;
    s.hif.linkUp = true ∧
      ready ∧
        (n = 4 ∨ n = 8) ∧
          len.toNat = n ∧
            (judge s 0 a0 n false = (100, Loc.reg o, Gate.free)) ∧
              bs.length = n ∧ ∃ (t : Nat), judge s 0 a0 n true = (t, Loc.reg o, Gate.free) := by
  repeat' refine And.intro ?_ ?_
  all_goals first
    | decide +kernel
    | exact ⟨100, by decide +kernel⟩

theorem witness_scratch_counting :
    let s : State := (running 3).setClu 3 (kCount)
    let m : MasterId := 0x013
    let c : ClusterId := 3
    let off : BitVec 23 := 0
    let data : List Byte := [1, 2, 0]
    ownMaster s m c ∧ Memory.wf s.mem = true ∧ data ≠ [] ∧ off.toNat + data.length ≤ 2 ^ 23 ∧ (s.clu ↑c).counters.length = 16 := by
  decide +kernel

theorem witness_reject_and_refusal_records :
    (let s : State := State.reset
     let t : TargetId := 107
     let mid : Nat := 4095
     let off : Nat := 67108863
     let cause : Nat := 3
     let a : Nat := 281474976710655
     s.wf = true ∧
       mid < 2 ^ 12 ∧
         off < 2 ^ 26 ∧
           cause < 4 ∧
             a < 2 ^ 48 ∧
               s.flag F.ERR_CFG_REJECT = false ∧ s.flag F.ACC_TBL_STATUS_FIRSTEV ↑t = false ∧ s.hif.ev.mute = false ∧ s.events.items.length < 256) ∧
    (let s : State := State.reset
     let t : TargetId := 100
     let mid : Nat := 5
     let off : Nat := 4
     let cause : Nat := 1
     let a : Nat := 139637978824704
     let write : Bool := false
     let n : Nat := 4;
     let l : Loc := Loc.reg 2097152;
     s.wf = true ∧ mid < 2 ^ 12 ∧ off < 2 ^ 26 ∧ cause < 4 ∧ a < 2 ^ 48 ∧ judge s mid a n write = (↑t, l, Gate.refuse cause) ∧ write = false) ∧
    (let s : State := State.reset
     let t : TargetId := 100
     let mid : Nat := 5
     let off : Nat := 4
     let cause : Nat := 1
     let a : Nat := 139637978824704
     let write : Bool := true
     let n : Nat := 4;
     let l : Loc := Loc.reg 2097152;
     s.wf = true ∧ mid < 2 ^ 12 ∧ off < 2 ^ 26 ∧ cause < 4 ∧ a < 2 ^ 48 ∧ judge s mid a n write = (↑t, l, Gate.refuse cause) ∧ write = true) ∧
    (let s : State := (worn.set F.ACC_TBL_STATUS_FIRSTEV 1 107 |>.set F.ERR_CFG_REJECT 1)
     let t : TargetId := 107
     let mid : Nat := 4095
     let off : Nat := 67108863
     let cause : Nat := 3
     let a : Nat := 281474976710655
     s.wf = true ∧
       mid < 2 ^ 12 ∧ off < 2 ^ 26 ∧ cause < 4 ∧ a < 2 ^ 48 ∧ s.flag F.ERR_CFG_REJECT = true ∧ s.flag F.ACC_TBL_STATUS_FIRSTEV ↑t = true) := by
  refine ⟨?_, ?_, ?_, ?_⟩ <;> decide +kernel

theorem witness_flag_page_writes :
    let s : State := (running 3).setClu 3 (k0)
    let m : MasterId := 0x013
    let c : ClusterId := 3
    ownMaster s m c := by
  decide +kernel

theorem witness_mailboxes :
    (let s : State := (running 3).setClu 3 (kMail 0 0)
     let m : MasterId := 0x013
     let c : ClusterId := 3
     let box : Fin 8 := 0
     let k : Clu := s.clu ↑c;
     let b : Mailbox := k.box ↑box;
     ownMaster s m c ∧ s.upsets = [] ∧ b.fifo.items.length < 64 ∧ b.flagen = false ∧ b.fifo.items = []) ∧
    (let s : State := (running 3).setClu 3 (kMail 1 0)
     let m : MasterId := 0x013
     let c : ClusterId := 3
     let box : Fin 8 := 0
     let k : Clu := s.clu ↑c;
     let b : Mailbox := k.box ↑box;
     let x : Nat × Nat := (81985529216486895, 1);
     let rest : List (Nat × Nat) := [];
     ownMaster s m c ∧ s.upsets = [] ∧ b.fifo.items = x :: rest) ∧
    (let s : State := (running 3).setClu 3 (kMail 64 0)
     let m : MasterId := 0x013
     let c : ClusterId := 3
     let box : Fin 8 := 0
     let k : Clu := s.clu ↑c;
     let b : Mailbox := k.box ↑box;
     ownMaster s m c ∧ s.upsets = [] ∧ 64 ≤ b.fifo.items.length) ∧
    (let s : State := (running 3).setClu 3 ({ k0 with mail := [{ (kMail 1 0).box 0 with flagen := true, flag := 5 }] })
     let m : MasterId := 0x013
     let c : ClusterId := 3
     let box : Fin 8 := 0
     let k : Clu := s.clu ↑c;
     let b : Mailbox := k.box ↑box;
     ownMaster s m c ∧ s.upsets = [] ∧ b.fifo.items.length < 64 ∧ b.flagen = true) := by
  refine ⟨?_, ?_, ?_, ?_⟩ <;> decide +kernel

theorem witness_descriptor_checks :
    (let s : State := withDesc [0] State.reset
     let r : RingId := 5
     let i : BitVec 8 := 0
     let d : Desc := descOf [0]
     descReady s r i 0 d) ∧
    (let s : State := withDesc [0x0E, 1] State.reset
     let r : RingId := 5
     let i : BitVec 8 := 0
     let d : Desc := descOf [0x0E, 1]
     let w : Nat := 1
     let cmd : CmdRef := nthDesc s r i;
     s.desc cmd = some d ∧ d.word 0 % 256 = 14 ∧ mayStartDesc s cmd d = true ∧ badWord d = some w) ∧
    (let s : State := withDesc [0xFF] State.reset
     let r : RingId := 5
     let i : BitVec 8 := 0
     let d : Desc := descOf [0xFF]
     let cmd : CmdRef := nthDesc s r i;
     s.desc cmd = some d ∧ kindMasks (d.word 0 % 256) = none ∧ mayStartDesc s cmd d = true) := by
  refine ⟨?_, ?_, ?_⟩ <;> decide +kernel

theorem witness_program_loading :
    (let s : State := withDesc [1, 3 + 0x10900, 0x1000, 5] (inState 3 0 k0)
     let r : RingId := 5
     let i : BitVec 8 := 0
     let d : Desc := descOf [1, 3 + 0x10900, 0x1000, 5]
     let c : ClusterId := 3
     Regs.wf s.regs = true ∧ descReady s r i 1 d ∧ d.word 1 % 128 = ↑c ∧ cluState s ↑c = 0 ∧ (s.clu ↑c).load = none) ∧
    (let s : State := withDesc [1, 3 + 0x10900, 0x1000, 5] (inState 3 1 k0)
     let r : RingId := 5
     let i : BitVec 8 := 0
     let d : Desc := descOf [1, 3 + 0x10900, 0x1000, 5]
     let c : ClusterId := 3
     Regs.wf s.regs = true ∧ descReady s r i 1 d ∧ d.word 1 % 128 = ↑c ∧ cluState s ↑c = 1) ∧
    (let s : State := withDesc [1, 3 + 0x10900, 0x1000, 5] (inState 3 2 k0)
     let r : RingId := 5
     let i : BitVec 8 := 0
     let d : Desc := descOf [1, 3 + 0x10900, 0x1000, 5]
     let c : ClusterId := 3
     Regs.wf s.regs = true ∧ descReady s r i 1 d ∧ d.word 1 % 128 = ↑c ∧ (cluState s ↑c = 2 ∨ cluState s ↑c = 3 ∨ cluState s ↑c = 5)) ∧
    (let s : State := withDesc [1, 3 + 0x10900, 0x1000, 5] (inState 3 4 k0)
     let r : RingId := 5
     let i : BitVec 8 := 0
     let d : Desc := descOf [1, 3 + 0x10900, 0x1000, 5]
     let c : ClusterId := 3
     Regs.wf s.regs = true ∧ descReady s r i 1 d ∧ d.word 1 % 128 = ↑c ∧ (cluState s ↑c = 4 ∨ cluState s ↑c = 8)) ∧
    (let s : State := { inState 3 0 { k0 with load := some (loadOf 0 []) } with ticks := 0 }
     let c : ClusterId := 3
     let l : LoadSt := loadOf 0 []
     Regs.wf s.regs = true ∧ (s.clu ↑c).load = some l ∧ s.passedUs (s.clu ↑c).since 2 = false) ∧
    (let s : State := { inState 3 0 { k0 with load := some (loadOf 0 []) } with ticks := 200 }
     let c : ClusterId := 3
     let l : LoadSt := loadOf 0 []
     Regs.wf s.regs = true ∧ (s.clu ↑c).load = some l ∧ cluState s ↑c = 0 ∧ s.passedUs (s.clu ↑c).since 2 = true) := by
  refine ⟨?_, ?_, ?_, ?_, ?_, ?_⟩ <;> decide +kernel

theorem witness_image_and_rehearsal :
    let s : State := inState 3 3 { k0 with load := some (loadOf 0 []) }
    let s1 : State := State.reset
    let s2 : State := State.reset
    let c : ClusterId := 3
    let l : LoadSt := loadOf 0 []
    let code : Nat := 1
    let detail : Nat := 0
    (s.clu ↑c).load = some l ∧
      Regs.wf s.regs = true ∧
        Regs.wf s1.regs = true ∧ Regs.wf s2.regs = true ∧ cluState s ↑c = 3 ∧ rehearse s (↑c) l.job l.image = some (code, detail) := by
  decide +kernel

theorem witness_image_and_rehearsal_deep_1 :
    let s : State := inState 3 2 { k0 with load := some (loadOf 0x7F0000200000 []) }
    let s1 : State := (memRead 0 0x7F0000200000 64 0 (inState 3 2 { k0 with load := some (loadOf 0x7F0000200000 []) })).2
    let s2 : State := State.reset
    let c : ClusterId := 3
    let l : LoadSt := loadOf 0x7F0000200000 []
    let cause : Nat := 2
    (s.clu ↑c).load = some l ∧
      Regs.wf s.regs = true ∧
        Regs.wf s1.regs = true ∧ Regs.wf s2.regs = true ∧ cluState s ↑c = 2 ∧ memRead 0 l.addr 64 0 s = (AccRes.refused cause, s1) := by
  repeat' refine And.intro ?_ ?_
  all_goals first
    | decide +kernel
    | rfl

set_option maxRecDepth 20000 in
theorem witness_image_and_rehearsal_deep_2 :
    let s : State := imgAt
    let s1 : State := imgS1
    let s2 : State := imgS2
    let c : ClusterId := 3
    let l : LoadSt := loadOf 0 []
    let hdr : List Byte := bare.take 64
    let img : List Byte := bare
    (s.clu ↑c).load = some l ∧
      Regs.wf s.regs = true ∧
        Regs.wf s1.regs = true ∧
          Regs.wf s2.regs = true ∧
            cluState s ↑c = 2 ∧
              memRead 0 l.addr 64 0 s = (AccRes.data hdr, s1) ∧ memRead 0 l.addr (imageLength hdr) 0 s1 = (AccRes.data img, s2) := by
  repeat' refine And.intro ?_ ?_
  all_goals rfl

theorem witness_start_and_end :
    (let s : State := withDesc [2, 3, 0x10, 5] (inState 3 0 k0)
     let r : RingId := 5
     let i : BitVec 8 := 0
     let d : Desc := descOf [2, 3, 0x10, 5]
     let c : ClusterId := 3
     Regs.wf s.regs = true ∧ descReady s r i 2 d ∧ d.word 1 % 128 = ↑c ∧ cluState s ↑c ≠ 4) ∧
    (let s : State := withDesc [2, 3, 0x10, 5] (inState 3 4 k0)
     let r : RingId := 5
     let i : BitVec 8 := 0
     let d : Desc := descOf [2, 3, 0x10, 5]
     let c : ClusterId := 3
     Regs.wf s.regs = true ∧ descReady s r i 2 d ∧ d.word 1 % 128 = ↑c ∧ cluState s ↑c = 4 ∧ (s.clu ↑c).startCmd = none) ∧
    (let s : State := withDesc [2, 3, 0x10, 5] (inState 3 5 k0)
     let c : ClusterId := 3
     Regs.wf s.regs = true ∧ cluState s ↑c = 5 ∧ (s.clu ↑c).ended = false) ∧
    (let s : State := inState 3 4 { kLoop with startAt := some 0, startCmd := some ⟨5, 7⟩, prog := some ⟨0, 0, 8, 0, 0, 0, false, []⟩, mopcnt := 5 }
     let c : ClusterId := 3
     let t0 : Nat := 0
     let p : Prog := ⟨0, 0, 8, 0, 0, 0, false, []⟩
     Regs.wf s.regs = true ∧ (s.clu ↑c).startAt = some t0 ∧ (s.clu ↑c).prog = some p ∧ cluState s ↑c = 4 ∧ t0 ≤ s.fabTime / 65536) ∧
    (let s : State := inState 3 4 { kLoop with startAt := some 1, startCmd := some ⟨5, 7⟩, prog := some ⟨0, 0, 8, 0, 0, 0, false, []⟩, mopcnt := 5 }
     let c : ClusterId := 3
     let t0 : Nat := 1
     Regs.wf s.regs = true ∧ (s.clu ↑c).startAt = some t0 ∧ s.fabTime / 65536 < t0) ∧
    (let s : State := inState 3 5 { kLoop with ended := true, startCmd := some ⟨5, 7⟩, prog := some ⟨0, 0, 8, 0, 0, 0, false, []⟩ }
     let c : ClusterId := 3
     Regs.wf s.regs = true ∧ cluState s ↑c = 5 ∧ (s.clu ↑c).ended = true ∧ (s.clu ↑c).drained = true) := by
  refine ⟨?_, ?_, ?_, ?_, ?_, ?_⟩ <;> decide +kernel

theorem witness_clearing_ends :
    let s : State := privWrite 3 0x40000 [1, 2] (inState 3 9 { k0 with toOff := true, prog := some ⟨0, 0, 0, 0, 0, 0, false, []⟩, flags := 7 })
    let c : ClusterId := 3
    s.wf = true ∧
      cluState s ↑c = 9 ∧
        (s.clu ↑c).quiet = true ∧
          s.held = [] ∧
            (s.clu ↑c).late = [] ∧
              (s.clu ↑c).stops = [] ∧ (s.clu ↑c).reload = none ∧ ∀ (p : PoolSt), p ∈ s.pools → p.words = [] ∧ p.waiting = [] ∧ p.granted = [] := by
  decide +kernel

theorem witness_wait_watchdog :
    (let s : State := { inState 3 5 { k0 with pc := 8, wait := some (.flag 9 true 5 0) } with fabTime := 499 * 655360 }
     let c : ClusterId := 3
     let f : Nat := 9
     let us : Nat := 5
     let since : Nat := 0
     let clear : Bool := true
     Regs.wf s.regs = true ∧
       cluState s ↑c = 5 ∧ (s.clu ↑c).wait = some (PWait.flag f clear us since) ∧ s.passedFab since us = false ∧ noMops (s.clu ↑c)) ∧
    (let s : State := { inState 3 5 { k0 with pc := 8, wait := some (.flag 9 true 5 0) } with fabTime := 500 * 655360 }
     let c : ClusterId := 3
     let f : Nat := 9
     let us : Nat := 5
     let since : Nat := 0
     let clear : Bool := true
     Regs.wf s.regs = true ∧ cluState s ↑c = 5 ∧ (s.clu ↑c).wait = some (PWait.flag f clear us since) ∧ s.passedFab since us = true) ∧
    (let s : State := { inState 3 5 { k0 with pc := 8, wait := some (.ticket 3 16383 5 0) } with fabTime := 500 * 655360 }
     let c : ClusterId := 3
     let us : Nat := 5
     let since : Nat := 0
     let q : Nat := 3
     let n : Nat := 16383
     Regs.wf s.regs = true ∧ cluState s ↑c = 5 ∧ (s.clu ↑c).wait = some (PWait.ticket q n us since) ∧ s.passedFab since us = true) := by
  refine ⟨?_, ?_, ?_⟩ <;> decide +kernel

theorem witness_issues_macro_ops :
    (let s : State := atWord 3 (encR 0x38 1 0 0 0) kProg |> mopAt 3 1 [0x08]
     let c : ClusterId := 3
     let rd : GReg := 1
     let ra : GReg := 0
     let slot : BitVec 11 := 0
     let k : Clu := s.clu ↑c;
     let n : Nat := (Option.map Prog.mops k.prog).getD 0;
     let room : Nat → Prop := fun (m : Nat) ↦ (k.queues.getD (mopQueue (mopWord s (↑c) m)) IssueQ.empty).entries < 16;
     let rdyI : Prop := readyFor s (↑c) (encR 56 rd ra 0 slot) (rd :: paramRegs ra) = true ∧ k.stores = [];
     rdyI ∧ k.dbg = [] ∧ slot.toNat < n ∧ room slot.toNat) ∧
    (let s : State := atWord 3 (encR 0x38 1 0 0 0) { kProg with queues := [fullQ, fullQ, fullQ, fullQ] } |> mopAt 3 1 [0x08]
     let c : ClusterId := 3
     let rd : GReg := 1
     let ra : GReg := 0
     let slot : BitVec 11 := 0
     let k : Clu := s.clu ↑c;
     let n : Nat := (Option.map Prog.mops k.prog).getD 0;
     let room : Nat → Prop := fun (m : Nat) ↦ (k.queues.getD (mopQueue (mopWord s (↑c) m)) IssueQ.empty).entries < 16;
     let rdyI : Prop := readyFor s (↑c) (encR 56 rd ra 0 slot) (rd :: paramRegs ra) = true ∧ k.stores = [];
     rdyI ∧ slot.toNat < n ∧ ¬room slot.toNat) ∧
    (let s : State := atWord 3 (encR 0x38 1 0 0 1) { kProg with prog := some ⟨0, 0, 0, 1, 0, 0, false, []⟩ } |> mopAt 3 1 [0x08]
     let c : ClusterId := 3
     let rd : GReg := 1
     let ra : GReg := 0
     let slot : BitVec 11 := 1
     let k : Clu := s.clu ↑c;
     let n : Nat := (Option.map Prog.mops k.prog).getD 0;
     let rdyI : Prop := readyFor s (↑c) (encR 56 rd ra 0 slot) (rd :: paramRegs ra) = true ∧ k.stores = [];
     rdyI ∧ n ≤ slot.toNat) ∧
    (let s : State := atWord 3 (encR 0x3B 1 0 1 0) kProg |> mopAt 3 1 [0x08]
     let c : ClusterId := 3
     let rd : GReg := 1
     let ra : GReg := 0
     let rb : GReg := 1
     let k : Clu := s.clu ↑c;
     let n : Nat := (Option.map Prog.mops k.prog).getD 0;
     let room : Nat → Prop := fun (m : Nat) ↦ (k.queues.getD (mopQueue (mopWord s (↑c) m)) IssueQ.empty).entries < 16;
     let rdyR : Prop := readyFor s (↑c) (encR 59 rd ra rb 0) (rd :: rb :: paramRegs ra) = true ∧ k.stores = [];
     let m : Nat := BitVec.toNat (k.reg rb);
     rdyR ∧ k.dbg = [] ∧ m < 2048 ∧ m < n ∧ room m) ∧
    (let s : State := atWord 3 (encR 0x3B 1 0 1 0) { kProg with prog := some ⟨0, 0, 0, 1, 0, 0, false, []⟩ } |> mopAt 3 1 [0x08]
     let c : ClusterId := 3
     let rd : GReg := 1
     let ra : GReg := 0
     let rb : GReg := 1
     let k : Clu := s.clu ↑c;
     let n : Nat := (Option.map Prog.mops k.prog).getD 0;
     let rdyR : Prop := readyFor s (↑c) (encR 59 rd ra rb 0) (rd :: rb :: paramRegs ra) = true ∧ k.stores = [];
     let m : Nat := BitVec.toNat (k.reg rb);
     rdyR ∧ (2048 ≤ m ∨ n ≤ m)) := by
  refine ⟨?_, ?_, ?_, ?_, ?_⟩ <;> decide +kernel

theorem witness_query_and_end_1 :
    (let s : State := atWord 3 (encI 0x39 2 1 0) { k0 with mopcnt := 5, queues := [fullQ, {fullQ with err := some (0x1F, 2047), retired := 20000}, fullQ, fullQ] }
     let c : ClusterId := 3
     let rd : GReg := 2
     let ra : GReg := 1
     let rdy : BitVec 16 → Prop := fun (sel : BitVec 16) ↦ readyFor s (↑c) (encI 57 rd ra sel) [rd, ra] = true;
     rdy 0) ∧
    (let s : State := atWord 3 (encI 0x39 2 1 1) { k0 with mopcnt := 5, queues := [fullQ, {fullQ with err := some (0x1F, 2047), retired := 20000}, fullQ, fullQ] }
     let c : ClusterId := 3
     let rd : GReg := 2
     let ra : GReg := 1
     let rdy : BitVec 16 → Prop := fun (sel : BitVec 16) ↦ readyFor s (↑c) (encI 57 rd ra sel) [rd, ra] = true;
     rdy 1) ∧
    (let s : State := atWord 3 (encI 0x39 2 1 2) { k0 with mopcnt := 5, queues := [fullQ, {fullQ with err := some (0x1F, 2047), retired := 20000}, fullQ, fullQ] }
     let c : ClusterId := 3
     let rd : GReg := 2
     let ra : GReg := 1
     let rdy : BitVec 16 → Prop := fun (sel : BitVec 16) ↦ readyFor s (↑c) (encI 57 rd ra sel) [rd, ra] = true;
     rdy 2) ∧
    (let s : State := atWord 3 (encI 0x39 2 1 3) { k0 with mopcnt := 5, queues := [fullQ, {fullQ with err := some (0x1F, 2047), retired := 20000}, fullQ, fullQ] }
     let c : ClusterId := 3
     let rd : GReg := 2
     let ra : GReg := 1
     let rdy : BitVec 16 → Prop := fun (sel : BitVec 16) ↦ readyFor s (↑c) (encI 57 rd ra sel) [rd, ra] = true;
     rdy 3) ∧
    (let s : State := atWord 3 (encI 0x39 2 1 4) { k0 with mopcnt := 5, queues := [fullQ, {fullQ with err := some (0x1F, 2047), retired := 20000}, fullQ, fullQ] }
     let c : ClusterId := 3
     let rd : GReg := 2
     let ra : GReg := 1
     let rdy : BitVec 16 → Prop := fun (sel : BitVec 16) ↦ readyFor s (↑c) (encI 57 rd ra sel) [rd, ra] = true;
     rdy 4) ∧
    (let s : State := atWord 3 (encI 0x39 2 1 5) { k0 with mopcnt := 5, queues := [fullQ, {fullQ with err := some (0x1F, 2047), retired := 20000}, fullQ, fullQ] }
     let c : ClusterId := 3
     let rd : GReg := 2
     let ra : GReg := 1
     let rdy : BitVec 16 → Prop := fun (sel : BitVec 16) ↦ readyFor s (↑c) (encI 57 rd ra sel) [rd, ra] = true;
     rdy 5) := by
  refine ⟨?_, ?_, ?_, ?_, ?_, ?_⟩ <;> decide +kernel

theorem witness_query_and_end_2 :
    (let s : State := atWord 3 0x3F k0
     let c : ClusterId := 3
     let k : Clu := s.clu ↑c;
     readyFor s (↑c) (encR 63 0 0 0 0) [] = true ∧ k.stores = [] ∧ k.loads = []) ∧
    (let s : State := atWord 3 0x3F { k0 with stores := [(0, 1)] }
     let c : ClusterId := 3
     let k : Clu := s.clu ↑c;
     readyFor s (↑c) (encR 63 0 0 0 0) [] = true ∧ (k.stores ≠ [] ∨ k.loads ≠ [])) := by
  refine ⟨?_, ?_⟩ <;> decide +kernel

theorem witness_curtain_arrivals :
    (let s : State := curtain [] at31
     let c : ClusterId := 3
     let x : FlagForm := ⟨0, 0, 0, false, false, 31⟩
     let l : LineId := 31
     let rdy : Prop := readyFor s (↑c) (encF 52 x) [] = true ∧ (s.clu ↑c).stores = [];
     s.wf = true ∧
       x.f8.toNat = ↑l ∧
         rdy ∧
           curtMember s ↑l ↑c = true ∧
             curtArrived s ↑l ↑c = false ∧ ∃ (d : Nat), d < 80 ∧ d ≠ ↑c ∧ curtMember s (↑l) d = true ∧ curtArrived s (↑l) d = false) ∧
    (let s : State := curtain [40] (at31.set F.CLU_STATUS_STATE 5 40)
     let c : ClusterId := 3
     let x : FlagForm := ⟨0, 0, 0, false, false, 31⟩
     let l : LineId := 31
     let rdy : Prop := readyFor s (↑c) (encF 52 x) [] = true ∧ (s.clu ↑c).stores = [];
     s.wf = true ∧
       x.f8.toNat = ↑l ∧
         rdy ∧
           curtMember s ↑l ↑c = true ∧
             curtArrived s ↑l ↑c = false ∧
               (∀ (d : Nat), d < 80 → d ≠ ↑c → curtMember s (↑l) d = true → curtArrived s (↑l) d = true) ∧
                 ∀ (d : Nat), d < 80 → curtMember s (↑l) d = true → cluState s d = 5) ∧
    (let s : State := curtain [3] at31
     let c : ClusterId := 3
     let x : FlagForm := ⟨0, 0, 0, false, false, 31⟩
     let l : LineId := 31
     let rdy : Prop := readyFor s (↑c) (encF 52 x) [] = true ∧ (s.clu ↑c).stores = [];
     s.wf = true ∧ x.f8.toNat = ↑l ∧ rdy ∧ (curtMember s ↑l ↑c = false ∨ curtArrived s ↑l ↑c = true)) ∧
    (let s : State := { (curtain [3] at31) with ticks := 500, tm.firstArrival := [(31, 0, false)], regs := ((curtain [3] at31).set F.CURT_TMO_US 5 31).regs }
     let x : FlagForm := ⟨0, 0, 0, false, false, 31⟩
     let l : LineId := 31
     let t0 : Nat := 0;
     let told : Bool := false;
     s.wf = true ∧
       x.f8.toNat = ↑l ∧
         lookup s.tm.firstArrival ↑l = some (t0, told) ∧
           s.get F.CURT_TMO_US ↑l ≠ 0 ∧ s.passedUs t0 (s.get F.CURT_TMO_US ↑l) = true ∧ told = false) ∧
    (let s : State := { (curtain [3] at31) with ticks := 500, tm.firstArrival := [(31, 0, true)], regs := (((curtain [3] at31).set F.CURT_TMO_US 5 31).set F.CURT_STATUS_TIMEOUT 1 31).regs }
     let x : FlagForm := ⟨0, 0, 0, false, false, 31⟩
     let l : LineId := 31
     let t0 : Nat := 0;
     let told : Bool := true;
     s.wf = true ∧
       x.f8.toNat = ↑l ∧
         lookup s.tm.firstArrival ↑l = some (t0, told) ∧ s.get F.CURT_TMO_US ↑l ≠ 0 ∧ s.passedUs t0 (s.get F.CURT_TMO_US ↑l) = true ∧ told = true) := by
  refine ⟨?_, ?_, ?_, ?_, ?_⟩ <;> decide +kernel

theorem witness_completion_records :
    (let s : State := withDesc [0] (State.reset)
     let cmd : CmdRef := ⟨5, 7⟩
     let d : Desc := descOf [0]
     let x : RingSt := s.ring cmd.ring;
     s.desc cmd = some d ∧ cmd.ring < 64 ∧ x.mute = false ∧ (x.cqTail + 1) % cqSize s cmd.ring ≠ 0) ∧
    (let s : State := withDesc [0] ({ State.reset.set F.HIF_RCFG_CQLOG2 4 0 5 with hif.rings := [(5, { RingSt.initial with mute := true })] })
     let cmd : CmdRef := ⟨5, 7⟩
     let d : Desc := descOf [0]
     let x : RingSt := s.ring cmd.ring;
     s.desc cmd = some d ∧ cmd.ring < 64 ∧ x.mute = true) ∧
    (let s : State := withDesc [0] ({ State.reset.set F.HIF_RCFG_CQLOG2 4 0 5 with hif.rings := [(5, { RingSt.initial with cqTail := 15, phase := false })] })
     let cmd : CmdRef := ⟨5, 7⟩
     let d : Desc := descOf [0]
     let x : RingSt := s.ring cmd.ring;
     s.desc cmd = some d ∧ cmd.ring < 64 ∧ x.mute = false ∧ (x.cqTail + 1) % cqSize s cmd.ring = 0) ∧
    (let s : State := State.reset.setRing 5 { State.reset.ring 5 with out := [⟨0, 0, [], false, 0, 0, 0, []⟩, descOf [0]] }
     let cmd : CmdRef := ⟨5, 7⟩
     let d : Desc := descOf [0]
     let x : RingSt := s.ring cmd.ring;
     let e : Desc := { id := 0, idx := 0, words := [], started := false, since := 0, progress := 0, tally := 0, data := [] };
     s.desc cmd = some d ∧ cmd.ring < 64 ∧ e ∈ x.out ∧ e.id ≠ cmd.id) := by
  refine ⟨?_, ?_, ?_, ?_⟩ <;> decide +kernel

theorem witness_halt_resume_stop :
    (let s : State := withDesc [3, 3] (inState 3 0 { kLoop with wait := some (.time 5), startCmd := some ⟨6, 7⟩, queues := [IssueQ.empty, IssueQ.empty, { IssueQ.empty with mops := [mop0] }, IssueQ.empty] })
     let c : ClusterId := 3
     Regs.wf s.regs = true ∧
       cluState s ↑c < 5 ∧
         (cluState s ↑c ≠ 8 ∨ s.get F.CLU_STATUS_HALTCAUSE ↑c = 2 ∨ s.get F.CLU_STATUS_HALTCAUSE ↑c = 3 ∨ s.get F.CLU_STATUS_HALTCAUSE ↑c = 4)) ∧
    (let s : State := withDesc [3, 3] (inState 3 5 { kLoop with wait := some (.time 5), startCmd := some ⟨6, 7⟩, queues := [IssueQ.empty, IssueQ.empty, { IssueQ.empty with mops := [mop0] }, IssueQ.empty] })
     let r : RingId := 5
     let i : BitVec 8 := 0
     let d : Desc := descOf [3, 3]
     let c : ClusterId := 3
     Regs.wf s.regs = true ∧
       (cluState s ↑c = 5 ∨ cluState s ↑c = 6 ∨ cluState s ↑c = 7) ∧
         descReady s r i 3 d ∧ d.word 1 % 128 = ↑c ∧ cluState s ↑c = 5 ∧ (d.word 1).testBit 8 = false ∧ (d.word 1).testBit 9 = false) ∧
    (let s : State := withDesc [3, 0x103] (inState 3 5 { kLoop with wait := some (.time 5), startCmd := some ⟨6, 7⟩, queues := [IssueQ.empty, IssueQ.empty, { IssueQ.empty with mops := [mop0] }, IssueQ.empty] })
     let r : RingId := 5
     let i : BitVec 8 := 0
     let d : Desc := descOf [3, 0x103]
     let c : ClusterId := 3
     Regs.wf s.regs = true ∧ descReady s r i 3 d ∧ d.word 1 % 128 = ↑c ∧ (cluState s ↑c = 5 ∨ cluState s ↑c = 8) ∧ (d.word 1).testBit 8 = true) ∧
    (let s : State := halted 3 1
     let c : ClusterId := 3
     Regs.wf s.regs = true ∧ cluState s ↑c = 8 ∧ (s.get F.CLU_STATUS_HALTCAUSE ↑c = 1 ∨ s.get F.CLU_STATUS_HALTCAUSE ↑c = 5)) := by
  refine ⟨?_, ?_, ?_, ?_⟩ <;> decide +kernel

theorem witness_sleep_and_wake :
    (let s : State := { (inState 3 5 k0 ) with ticks := 100000 }
     let c : ClusterId := 3
     Regs.wf s.regs = true ∧ ((s.clu ↑c).idle = false ∨ idleCycles s ↑c < s.get F.CLU_SLEEP_DOZEDLY ↑c) ∧ cluState s ↑c = 5) ∧
    (let s : State := { (inState 3 5 k0 |>.set F.CLU_SLEEP_NORET 1 3) with ticks := 100000 }
     let c : ClusterId := 3
     Regs.wf s.regs = true ∧ s.get F.CLU_SLEEP_NORET ↑c = 1) ∧
    (let s : State := { (inState 3 6 k0 ) with ticks := 100000 }
     let c : ClusterId := 3
     Regs.wf s.regs = true ∧
       cluState s ↑c = 6 ∧
         s.get F.CLU_SLEEP_NORET ↑c = 0 ∧
           s.passedUs (s.clu ↑c).since (s.get F.CLU_SLEEP_RETDLY ↑c) = true ∧ (cluState s ↑c = 6 ∨ cluState s ↑c = 7)) ∧
    (let s : State := { (inState 3 5 waitsFor |>.set F.CLK_STG_STATUS_CUR 1800 0 0) with ticks := 100000 }
     let c : ClusterId := 3
     Regs.wf s.regs = true ∧ cluState s ↑c = 5 ∧ (s.clu ↑c).idle = true ∧ max 1 (s.get F.CLU_SLEEP_DOZEDLY ↑c) ≤ idleCycles s ↑c) ∧
    (let s : State := ((((inState 3 6 waitsFor).set F.CUE_CTL_EN 1 3).set F.CUE_ENT_ACT_WORD 2 3 0).set F.CUE_ENT_TIME_LO_WORD 5 3 0).set F.CLK_STG_STATUS_CUR 1800 0 0
     let c : ClusterId := 3
     let e : EngineId := 3
     Regs.wf s.regs = true ∧
       e.val = c.val ∧
         (cluState s ↑c = 6 ∨ cluState s ↑c = 7) ∧
           (s.cue ↑e).broken = false ∧
             s.flag F.CUE_CTL_EN ↑e = true ∧
               cueHas s (↑e) (s.cue ↑e).idx = true ∧
                 cueTime s (↑e) (s.cue ↑e).idx (s.cue ↑e).rep ≤ s.nowNs + if cluState s ↑c = 7 then 400 else ceilDiv 8000 (curMhz s (dieOf ↑c))) := by
  refine ⟨?_, ?_, ?_, ?_, ?_⟩ <;> decide +kernel

theorem witness_vector_row :
    let s : State := withMop 1 (mopW 8 0 0 (opdW 0 8 1 3 ++ opdW 16 8 1 3 ++ opdW 48 8 1 3))
    let c : ClusterId := 3
    let i : Instr := .vecAdd 3
    let sub : Nat := 0
    let m : Mop := mop0
    let m' : Mop := mopRunning s c m 8;
    let a : Opd := opdOf m'.copy 0;
    let b : Opd := opdOf m'.copy 1;
    let o : Opd := opdOf m'.copy 2;
    (i, sub) ∈ vectorRows c ∧ mopReady s c 1 m 8 sub ∧ a.rows = 1 ∧ inScratch a ∧ inScratch o ∧ (vecTwo sub = true → inScratch b) := by
  decide +kernel

theorem witness_move_mops :
    (let s : State := withMop 2 (mopW 0x10 0 0 (opdW 0 0 1 4 ++ opdW 48 1 1 4))
     let c : ClusterId := 3
     let m : Mop := mop0
     let m' : Mop := mopRunning s c m 16;
     let a : Opd := opdOf m'.copy 0;
     let b : Opd := opdOf m'.copy 1;
     mopReady s c 2 m 16 0 ∧ b.rows = 1 ∧ a.cols = b.cols ∧ inScratch b ∧ inScratch a) ∧
    (let s : State := mopMem 2 (mopW 0x10 0 0 (opdF 0 0 (2^22+2^25) 4 4 ++ opdW 128 1 1 4 ++ opdW 64 8 1 1)) 64 (words [2])
     let c : ClusterId := 3
     let m : Mop := mop0
     let m' : Mop := mopRunning s c m 16;
     let a : Opd := opdOf m'.copy 0;
     let b : Opd := opdOf m'.copy 1;
     let x : Opd := opdOf m'.copy 2;
     let r : Nat := 2;
     mopReady s c 2 m 16 0 ∧
       b.rows = 1 ∧
         a.cols = b.cols ∧
           inScratch b ∧
             a.idx = true ∧
               inScratch
                   { base := a.base, fmt := a.fmt, hint := a.hint, idx := false, hold := a.hold, bitmap := a.bitmap, loc := a.loc, rsv := a.rsv,
                     rows := a.rows, cols := a.cols, stride := a.stride, absent := a.absent } ∧
                 inScratch x ∧ intOf x.fmt (ofBytes (rowOf s c x 0)) = ↑r ∧ r < a.rows) ∧
    (let s : State := withMop 2 (mopW 0x11 0 (77 + 2 * 2 ^ 20 + 2 ^ 23) (opdW 0 0 1 4 ++ opdF 0x8000 1 0 1 4))
     let c : ClusterId := 3
     let m : Mop := mop0
     let m' : Mop := mopRunning s c m 17;
     let a : Opd := opdOf m'.copy 0;
     let b : Opd := opdOf m'.copy 1;
     let n : Nat := rowBytes b.fmt b.cols;
     mopReady s c 2 m 17 0 ∧ a.rows = 1 ∧ b.rows = 1 ∧ a.cols = b.cols ∧ inScratch a ∧ n ≤ 4096 ∧ b.base + n ≤ 2 ^ 48) ∧
    (let s : State := withColl 5 (withMop 2 (mopW 0x11 1 (5 + 9 * 2 ^ 12) (opdW 0 1 1 2 ++ opdF 0 0 0 1 2)))
     let c : ClusterId := 3
     let m : Mop := mop0
     let m' : Mop := mopRunning s c m 17;
     let a : Opd := opdOf m'.copy 0;
     let b : Opd := opdOf m'.copy 1;
     let x : Nat := mopFspec m'.copy % 2 ^ 12;
     let g : Coll := s.coll x;
     let fmt : Nat := typeFmt g.hdr.type;
     let st : Nat := collState s x;
     let rank : Nat := 0;
     mopReady s c 2 m 17 1 ∧
       a.rows = 1 ∧
         inScratch a ∧
           st ≠ 0 ∧
             st ≠ 1 ∧ st ≠ 6 ∧ pairListed a.fmt fmt = true ∧ b.base % g.hdr.esize = 0 ∧ clusterRank g ↑c = some rank ∧ g.hdr.oper = opBarrier) ∧
    (let s : State := withColl 0 (withMop 2 (mopW 0x11 1 (5 + 9 * 2 ^ 12) (opdW 0 1 1 2 ++ opdF 0 0 0 1 2)))
     let c : ClusterId := 3
     let m : Mop := mop0
     let m' : Mop := mopRunning s c m 17;
     let a : Opd := opdOf m'.copy 0;
     let b : Opd := opdOf m'.copy 1;
     let x : Nat := mopFspec m'.copy % 2 ^ 12;
     let g : Coll := s.coll x;
     let fmt : Nat := typeFmt g.hdr.type;
     let n : Nat := rowBytes fmt a.cols;
     let chunk : Nat := if g.express = true then 2 ^ 48 else g.hdr.dchunk false;
     let st : Nat := collState s x;
     let rank : Nat := 0;
     mopReady s c 2 m 17 1 ∧
       a.rows = 1 ∧
         inScratch a ∧
           st ≠ 0 ∧
             st ≠ 1 ∧
               st ≠ 6 ∧
                 pairListed a.fmt fmt = true ∧
                   b.base % g.hdr.esize = 0 ∧
                     clusterRank g ↑c = some rank ∧
                       g.hdr.oper ≠ opBarrier ∧
                         n % g.hdr.esize = 0 ∧
                           (n ≤ if g.express = true then 240 else 4080) ∧ b.base + n ≤ 2 ^ 48 ∧ b.base / chunk = (b.base + n - 1) / chunk) ∧
    (let s : State := withMop 2 (mopW 0x12 0 (77 + 2 * 2 ^ 20) (opdF 0x8000 0 0 1 4 ++ opdW 64 1 1 4))
     let c : ClusterId := 3
     let m : Mop := mop0
     let m' : Mop := mopRunning s c m 18;
     let a : Opd := opdOf m'.copy 0;
     let b : Opd := opdOf m'.copy 1;
     let n : Nat := rowBytes a.fmt a.cols;
     mopReady s c 2 m 18 0 ∧ a.rows = 1 ∧ b.rows = 1 ∧ inScratch b ∧ n ≤ 4096 ∧ a.base + n ≤ 2 ^ 48) := by
  refine ⟨?_, ?_, ?_, ?_, ?_, ?_⟩ <;> decide +kernel

theorem witness_vector_reductions :
    (let s : State := withMop 1 (mopW 9 0 0 (opdW 0 0 1 4 ++ opdW 48 0 1 4))
     let c : ClusterId := 3
     let i : Instr := .reduceSum 3
     let sub : Nat := 0
     let m : Mop := mop0
     let m' : Mop := mopRunning s c m 9;
     let a : Opd := opdOf m'.copy 0;
     let b : Opd := opdOf m'.copy 1;
     (i, sub) ∈ [(Instr.reduceSum c, 0), (Instr.reduceMax c, 1), (Instr.reduceMin c, 2), (Instr.reduceSumsq c, 3)] ∧
       mopReady s c 1 m 9 sub ∧ a.rows = 1 ∧ inScratch a ∧ inScratch b) ∧
    (let s : State := withMop 1 (mopW 10 0 0 (opdW 0 0 1 4 ++ opdW 48 1 1 4))
     let c : ClusterId := 3
     let m : Mop := mop0
     let m' : Mop := mopRunning s c m 10;
     let a : Opd := opdOf m'.copy 0;
     let b : Opd := opdOf m'.copy 1;
     mopReady s c 1 m 10 0 ∧ a.rows = 1 ∧ inScratch a ∧ inScratch b) ∧
    (let s : State := mopMem 1 (mopW 11 0 0 (opdW 0 0 6 2 ++ opdW 64 0 1 2 ++ opdW 128 11 1 152)) 128 (words ([2, 3] ++ List.replicate 30 0 ++ [1 + 1 * 4096, 0x3F800001, 0 + 2 * 4096, 0x40000000, 1 + 0xFFF * 0, 0x3F800000]))
     let c : ClusterId := 3
     let m : Mop := mop0
     let m' : Mop := mopRunning s c m 11;
     let a : Opd := opdOf m'.copy 0;
     let b : Opd := opdOf m'.copy 1;
     let o : Opd := opdOf m'.copy 2;
     let word : Nat → Nat := fun (n : Nat) ↦ ofBytes (scratchRead s (↑c) (o.base + n) 4);
     let e : Nat := word 0;
     let cap : Nat := word 4;
     let kk : Nat := choices m' e;
     let kept : List (Nat × Nat × Nat) :=
       keptRecords (List.map (fun (n : Nat) ↦ (word (recordBase e + 8 * n), word (recordBase e + 8 * n + 4))) (List.range kk));
     mopReady s c 1 m 11 0 ∧
       b.rows = 1 ∧
         o.rows = 1 ∧
           inScratch a ∧
             inScratch b ∧
               inScratch o ∧
                 64 ≤ o.cols ∧
                   1 ≤ e ∧
                     e ≤ 4095 ∧
                       1 ≤ cap ∧
                         cap ≤ 1048575 ∧
                           (∀ (n : Nat), n < 16 → 2 ≤ n → word (4 * n) = 0) ∧
                             1 ≤ kk ∧ kk ≤ 8 ∧ ∀ (r : Nat × Nat × Nat), r ∈ kept → r.fst * cap + r.snd.fst < a.rows) := by
  refine ⟨?_, ?_, ?_⟩ <;> decide +kernel

theorem witness_array_mops :
    (let s : State := withMop 0 (mopW 1 0 0 (opdW 0 1 2 3))
     let c : ClusterId := 3
     let m : Mop := mop0
     let m' : Mop := mopRunning s c m 1;
     let a : Opd := opdOf m'.copy 0;
     let fs : Nat := mopFspec m'.copy;
     mopReady s c 0 m 1 0 ∧ inScratch a ∧ (fs / 2 % 4 = 0 ∨ mopStrict m'.copy = false)) ∧
    (let s : State := let s := withMop 0 (mopW 2 0 0 (opdW 0 1 1 2 ++ opdW 48 0 1 3)); s.setClu 3 { s.clu 3 with next := some panel0 }
     let c : ClusterId := 3
     let m : Mop := mop0
     let m' : Mop := mopRunning s c m 2;
     let a : Opd := opdOf m'.copy 0;
     let b : Opd := opdOf m'.copy 1;
     let x : Opd := opdOf m'.copy 2;
     let acc : Bool := (mopFspec m'.copy).testBit 2;
     let p : Panel := panel0;
     mopReady s c 0 m 2 0 ∧
       a.rows = 1 ∧
         inScratch a ∧
           inScratch b ∧
             (acc = true → inScratch x ∧ x.rows = b.rows ∧ x.cols = b.cols) ∧
               m.panel = none ∧ ((s.clu ↑c).next <|> (s.clu ↑c).active) = some p ∧ a.cols = p.w.length ∧ b.cols = p.width) := by
  refine ⟨?_, ?_⟩ <;> decide +kernel

theorem witness_sort_mops :
    (let s : State := mopMem 3 (mopW 0x18 0 0 (opdW 0 8 3 2 ++ opdW 128 8 6 2 ++ [0,0,0,0])) 0 (words [3, 7, 0xFFFFFFFF, 9, 3, 1])
     let c : ClusterId := 3
     let m : Mop := mop0
     let m' : Mop := mopRunning s c m 24;
     let a : Opd := opdOf m'.copy 0;
     let b : Opd := opdOf m'.copy 1;
     let o : Opd := opdOf m'.copy 2;
     let fs : Nat := mopFspec m'.copy;
     mopReady s c 3 m 24 0 ∧ inScratch a ∧ inScratch b ∧ (fs.testBit 9 = true → inScratch o)) ∧
    (let s : State := mopMem 3 (mopW 0x19 0 2 (opdW 0 8 1 4 ++ opdW 128 8 1 2 ++ opdW 256 8 1 2)) 0 (words [3, 7, 0xFFFFFFFF, 7])
     let c : ClusterId := 3
     let m : Mop := mop0
     let m' : Mop := mopRunning s c m 25;
     let a : Opd := opdOf m'.copy 0;
     let b : Opd := opdOf m'.copy 1;
     let o : Opd := opdOf m'.copy 2;
     mopReady s c 3 m 25 0 ∧ a.rows = 1 ∧ inScratch a ∧ inScratch b ∧ inScratch o) ∧
    (let s : State := mopMem 3 (mopW 0x1A 0 0 (opdW 0 8 3 2 ++ opdW 128 8 3 2 ++ opdW 64 10 1 2)) 0 (words [3, 7, 0xFFFFFFFF, 9, 3, 1, 0,0,0,0,0,0,0,0,0,0,3])
     let c : ClusterId := 3
     let m : Mop := mop0
     let m' : Mop := mopRunning s c m 26;
     let a : Opd := opdOf m'.copy 0;
     let b : Opd := opdOf m'.copy 1;
     let o : Opd := opdOf m'.copy 2;
     mopReady s c 3 m 26 0 ∧ inScratch a ∧ inScratch b ∧ inScratch o) ∧
    (let s : State := mopMem 3 (mopW 0x1B 0 0 (opdW 0 8 1 4 ++ opdF 128 8 (2^24+2^25) 1 (4+2^17) ++ opdW 64 10 1 1)) 0 (words [3, 0, 0, 9])
     let c : ClusterId := 3
     let m : Mop := mop0
     let m' : Mop := mopRunning s c m 27;
     let a : Opd := opdOf m'.copy 0;
     let b : Opd := opdOf m'.copy 1;
     let o : Opd := opdOf m'.copy 2;
     mopReady s c 3 m 27 0 ∧ a.rows = 1 ∧ inScratch a ∧ inScratch o ∧ b.loc = true ∧ b.base % 4096 + densestRow b.fmt b.cols ≤ 4096) := by
  refine ⟨?_, ?_, ?_, ?_⟩ <;> decide +kernel

theorem witness_hash_mops :
    (let s : State := let s := mopMem 3 (mopW 0x1C 0 0 (opdW 0 8 1 2 ++ [0,0,0,0] ++ opdW 64 10 1 1)) 0 (words [5, 7]); s.setClu 3 { (s.clu 3) with hash := ⟨[], none, [], 0⟩ }
     let c : ClusterId := 3
     let m : Mop := mop0
     let h : HashAcc := (s.clu ↑c).hash;
     let m' : Mop := mopRunning s c m 28;
     let a : Opd := opdOf m'.copy 0;
     let o : Opd := opdOf m'.copy 2;
     let fs : Nat := mopFspec m'.copy;
     let type : Nat := hashType a.fmt;
     let want : Nat × Nat × Nat := (fs % 4, fs / 4 % 16, type);
     let key : Nat := ofBytes (rowOf s c o 0);
     let kvs : List (Nat × Nat) :=
       List.map (fun (x : Nat × Nat) ↦ ((key * a.cols + x.snd) % 2 ^ 32, x.fst)) (hashValue a (rowOf s c a 0)).zipIdx;
     let h' : HashAcc := hashA;
     mopReady s c 3 m 28 0 ∧
       a.rows = 1 ∧
         inScratch a ∧
           inScratch o ∧
             m.done = 0 ∧
               h.chunks = [] ∧
                 h.merged = 0 ∧
                   (h.ways = [] ∨ h.settings = some want) ∧
                     applyAll type (fs % 4) kvs { ways := h.ways, settings := some want, chunks := h.chunks, merged := h.merged } = some h') ∧
    (let s : State := let s := mopMem 3 (mopW 0x1C 1 0 (opdW 0 8 1 2 ++ opdW 128 8 3 2 ++ opdW 64 10 1 1)) 64 (words [2]); s.setClu 3 { (s.clu 3) with hash := ⟨[], none, [], 0⟩ }
     let c : ClusterId := 3
     let m : Mop := mop0
     let m' : Mop := mopRunning s c m 28;
     let a : Opd := opdOf m'.copy 0;
     let b : Opd := opdOf m'.copy 1;
     let o : Opd := opdOf m'.copy 2;
     let r : Nat := 2;
     mopReady s c 3 m 28 1 ∧
       a.rows = 1 ∧ inScratch a ∧ inScratch b ∧ inScratch o ∧ intOf o.fmt (ofBytes (rowOf s c o 0)) = ↑r ∧ r < b.rows) ∧
    (let s : State := let s := mopMem 3 (mopW 0x1C 2 0 ([0,0,0,0,0,0,0,0] ++ opdW 64 10 1 4)) 0 (words [5, 7]); s.setClu 3 { (s.clu 3) with hash := ⟨[], some (0, 0, 8), [⟨none, 0, 0, some (3, 4)⟩, ⟨none, 0, 0, some (3, 9)⟩], 0⟩ }
     let c : ClusterId := 3
     let m : Mop := mop0
     let h : HashAcc := (s.clu ↑c).hash;
     let m' : Mop := mopRunning s c m 28;
     let o : Opd := opdOf m'.copy 2;
     let fs : Nat := mopFspec m'.copy;
     let kvs : List (Nat × Nat) := [(3, 4), (3, 9)];
     let type : Nat := 8;
     let h' : HashAcc := hashM;
     mopReady s c 3 m 28 2 ∧
       inScratch o ∧
         m.done = 0 ∧
           h.merged = 0 ∧
             h.chunks = List.map (fun (x : Nat × Nat) ↦ { buf := none, first := 0, last := 0, kept := some x }) kvs ∧
               h.settings = some (fs % 4, fs / 4 % 16, type) ∧
                 applyAll type (fs % 4) kvs { ways := h.ways, settings := h.settings, chunks := [], merged := h.merged } = some h') ∧
    (let s : State := let s := mopMem 3 (mopW 0x1C 3 0 ([0,0,0,0] ++ opdW 128 10 2 2 ++ opdW 64 10 1 4)) 0 (words [5, 7]); s.setClu 3 { (s.clu 3) with hash := ⟨[(0, (3, 4)), (8, (7, 1)), (16, (9, 9))], some (0, 0, 8), [], 0⟩ }
     let c : ClusterId := 3
     let m : Mop := mop0
     let h : HashAcc := (s.clu ↑c).hash;
     let m' : Mop := mopRunning s c m 28;
     let b : Opd := opdOf m'.copy 1;
     let o : Opd := opdOf m'.copy 2;
     mopReady s c 3 m 28 3 ∧ inScratch b ∧ inScratch o ∧ rising none h.ways = true ∧ h.chunks = [] ∧ h.merged = 0) ∧
    (let s : State := let s := mopMem 3 (mopW 0x1D 0 1 (opdW 0 0 1 2 ++ opdW 16 1 1 4 ++ opdW 128 11 1 136)) 0 (words ([0x3F800000, 0x40000000] ++ List.replicate 30 0 ++ [2, 4] ++ List.replicate 14 0 ++ [77, 0x1000, 0, 64, 78 + 2^20 + 2^23, 0x2000, 1, 64, 1, 2])); s.setClu 3 { (s.clu 3) with hash := ⟨[], none, [], 0⟩ }
     let c : ClusterId := 3
     let m : Mop := mop0
     let m' : Mop := mopRunning s c m 29;
     let a : Opd := opdOf m'.copy 0;
     let b : Opd := opdOf m'.copy 1;
     let o : Opd := opdOf m'.copy 2;
     let word : Nat → Nat := fun (n : Nat) ↦ ofBytes (scratchRead s (↑c) (o.base + n) 4);
     let e : Nat := a.cols;
     let scores : List Nat := rowFp32 a (rowOf s c a 0);
     let x : Nat := (routeOrder scores).headD 0;
     let slot : Nat := word (64 + 16 * e + 4 * x);
     let addr : Nat := (word (68 + 16 * x) + word (72 + 16 * x) % 65536 * 2 ^ 32 + slot * word (76 + 16 * x)) % 2 ^ 48;
     let n : Nat := rowBytes b.fmt b.cols;
     mopReady s c 3 m 29 0 ∧
       a.rows = 1 ∧
         o.rows = 1 ∧
           inScratch a ∧
             inScratch b ∧
               inScratch o ∧
                 mopFspec m'.copy % 16 = 1 ∧
                   (mopFspec m'.copy).testBit 6 = false ∧
                     m.done = 0 ∧
                       (s.clu ↑c).outstanding < 64 ∧
                         word 0 = e ∧
                           e ≤ 4095 ∧
                             slot < word 4 ∧
                               word 4 ≤ 1048575 ∧
                                 (∀ (j : Nat), j < 16 → 2 ≤ j → word (4 * j) = 0) ∧
                                   recordBase e + 8 ≤ o.cols ∧ addr + n ≤ 2 ^ 48 ∧ (b.base + n ≤ o.base ∨ o.base + o.cols ≤ b.base)) := by
  refine ⟨?_, ?_, ?_, ?_, ?_⟩ <;> decide +kernel

theorem witness_diagnosis_and_no_response :
    (let s : State := let s := withMop 2 []; { (s.setClu 3 { s.clu 3 with diag := some (1, 4) }).set F.ARR_CFG_MAXBYP 8 3 with ticks := 100000000 }
     let c : ClusterId := 3
     let cols : BitVec 64 := 0x8000000000000001
     let slot : Nat := 1
     let n : Nat := 4
     Regs.wf s.regs = true ∧
       cluState s ↑c = 5 ∧
         (s.clu ↑c).diag = some (slot, n) ∧ cols ≠ 0 ∧ popcount 64 (bypassMask s ↑c ||| cols.toNat) ≤ maxBypass (s.get F.ARR_CFG_MAXBYP ↑c)) ∧
    (let s : State := let s := withMop 2 []; { (s.setClu 3 { s.clu 3 with xfers := [⟨1, 1, 0, 7, 0, [⟨0, 0, 1, 0⟩], []⟩], queues := [0, 1, 2, 3].map fun _ => { IssueQ.empty with mops := [mop0] } }).set F.ARR_CFG_MAXBYP 8 3 with ticks := 100000000 }
     let c : ClusterId := 3
     let x : Xfer := ⟨1, 1, 0, 7, 0, [⟨0, 0, 1, 0⟩], []⟩
     let r : RemoteReq := ⟨0, 0, 1, 0⟩
     let m : Mop := mop0
     Regs.wf s.regs = true ∧
       cluState s ↑c = 5 ∧
         (s.clu ↑c).diag = none ∧
           (s.clu ↑c).xfers = [x] ∧
             x.reqs = [r] ∧
               x.kind < 2 ∧
                 s.passedUs r.sentAt (max 1 (s.get F.CLU_WDOG_WAITUS ↑c)) = true ∧
                   x.q < (s.clu ↑c).queues.length ∧ (s.clu ↑c).mopOf x.q x.seq = some m ∧ m.status = 0) := by
  refine ⟨?_, ?_⟩ <;> decide +kernel

theorem witness_flag_macro_ops_1 :
    (let s : State := let s := withMop 0 (mopW (33 + 4096 * 0) 0 0 ([0,0,0,0,0,0,0,0,0,0,0,0])); s
     let c : ClusterId := 3
     let q : Fin 4 := 0
     let m : Mop := mop0
     let copy : List Word := mopCopy (mopWord s (↑c) m.slot) m.params;
     let f : Nat := mopField copy 3 0 8;
     let good : Prop := mopOk copy ((Option.map Prog.minwidth (s.clu ↑c).prog).getD 0) 8388608 = true;
     (s.clu ↑c).queues.length = 4 ∧ noWaits (s.clu ↑c) ∧ good ∧ mopRepeat copy = 1 ∧ mopDue s c (↑q) m 33 0 ∧ (s.clu ↑c).governor f = none) ∧
    (let s : State := let s := withMop 0 (mopW (33 + 4096 * 0) 1 0 ([0,0,0,0,0,0,0,0,0,0,0,0])); s
     let c : ClusterId := 3
     let q : Fin 4 := 0
     let m : Mop := mop0
     let copy : List Word := mopCopy (mopWord s (↑c) m.slot) m.params;
     let f : Nat := mopField copy 3 0 8;
     let good : Prop := mopOk copy ((Option.map Prog.minwidth (s.clu ↑c).prog).getD 0) 8388608 = true;
     (s.clu ↑c).queues.length = 4 ∧ noWaits (s.clu ↑c) ∧ good ∧ mopRepeat copy = 1 ∧ mopDue s c (↑q) m 33 1 ∧ (s.clu ↑c).governor f = none) ∧
    (let s : State := let s := withMop 0 (mopW (33 + 4096 * 0) 3 1 ([0,0,0,0,0,0,0,0,0,0,0,0])); ((s.wr R.CURT_MEM 1 0 0xF8).wr R.CURT_ARR 1 0 0x40)
     let c : ClusterId := 3
     let q : Fin 4 := 0
     let m : Mop := mop0
     let copy : List Word := mopCopy (mopWord s (↑c) m.slot) m.params;
     let f : Nat := mopField copy 3 0 8;
     let good : Prop := mopOk copy ((Option.map Prog.minwidth (s.clu ↑c).prog).getD 0) 8388608 = true;
     let l : LineId := Fin.ofNat 32 1;
     (s.clu ↑c).queues.length = 4 ∧
       noWaits (s.clu ↑c) ∧
         good ∧
           mopRepeat copy = 1 ∧
             mopReady s c (↑q) m 33 3 ∧
               ↑l = f % 32 ∧
                 curtMember s ↑l ↑c = true ∧
                   curtArrived s ↑l ↑c = false ∧
                     (∃ (d : Nat), d < 80 ∧ d ≠ ↑c ∧ curtMember s (↑l) d = true ∧ curtArrived s (↑l) d = false) ∧ Regs.wf s.regs = true) ∧
    (let s : State := let s := withMop 0 (mopW (32 + 4096 * 0) 0 5 ([0,0,0,0,0,0,0,0,0,0,0,0])); s
     let c : ClusterId := 3
     let q : Fin 4 := 0
     let m : Mop := mop0
     let copy : List Word := mopCopy (mopWord s (↑c) m.slot) m.params;
     let f : Nat := mopField copy 3 0 8;
     let good : Prop := mopOk copy ((Option.map Prog.minwidth (s.clu ↑c).prog).getD 0) 8388608 = true;
     (s.clu ↑c).queues.length = 4 ∧
       noWaits (s.clu ↑c) ∧ good ∧ mopRepeat copy = 1 ∧ mopDue s c (↑q) m 32 0 ∧ mopFamily copy = 32 ∧ (s.clu ↑c).flag f = false) ∧
    (let s : State := let s := withMop 0 (mopW (34 + 4096 * 0) 0 0 ([0,0,0,0,0,0,0,0,0,0,0,0])); s
     let c : ClusterId := 3
     let q : Fin 4 := 0
     let m : Mop := mop0
     let copy : List Word := mopCopy (mopWord s (↑c) m.slot) m.params;
     let good : Prop := mopOk copy ((Option.map Prog.minwidth (s.clu ↑c).prog).getD 0) 8388608 = true;
     (s.clu ↑c).queues.length = 4 ∧
       noWaits (s.clu ↑c) ∧ good ∧ mopRepeat copy = 1 ∧ mopDue s c (↑q) m 34 0 ∧ ((s.clu ↑c).queues.getD (↑q) IssueQ.empty).startPending = false) ∧
    (let s : State := let s := withMop 0 (mopW (34 + 4096 * 0) 0 0 ([0,0,0,0,0,0,0,0,0,0,0,0])); s.setClu 3 { s.clu 3 with queues := (s.clu 3).queues.map fun x => { x with startPending := true } }
     let c : ClusterId := 3
     let q : Fin 4 := 0
     let m : Mop := mop0
     let copy : List Word := mopCopy (mopWord s (↑c) m.slot) m.params;
     let good : Prop := mopOk copy ((Option.map Prog.minwidth (s.clu ↑c).prog).getD 0) 8388608 = true;
     (s.clu ↑c).queues.length = 4 ∧
       noWaits (s.clu ↑c) ∧ good ∧ mopRepeat copy = 1 ∧ mopDue s c (↑q) m 34 0 ∧ ((s.clu ↑c).queues.getD (↑q) IssueQ.empty).startPending = true) := by
  refine ⟨?_, ?_, ?_, ?_, ?_, ?_⟩ <;> decide +kernel

theorem witness_flag_macro_ops_2 :
    let s : State := let s := withMop 0 (mopW (34 + 4096 * 0) 1 0 ([100000, 0] ++ List.replicate 10 0)); s
    let c : ClusterId := 3
    let q : Fin 4 := 0
    let m : Mop := mop0
    let copy : List Word := mopCopy (mopWord s (↑c) m.slot) m.params;
    let good : Prop := mopOk copy ((Option.map Prog.minwidth (s.clu ↑c).prog).getD 0) 8388608 = true;
    (s.clu ↑c).queues.length = 4 ∧
      noWaits (s.clu ↑c) ∧
        good ∧ mopRepeat copy = 1 ∧ mopDue s c (↑q) m 34 1 ∧ s.nowNs < BitVec.toNat (copy.getD 4 0) + BitVec.toNat (copy.getD 5 0) * 2 ^ 32 := by
  decide +kernel

theorem witness_flag_macro_ops_deep_1 :
    let s : State := let s := withMop 0 (mopW (33 + 4096 * 0) 2 (5 + 7 * 2 ^ 16) ([0,0,0,0,0,0,0,0,0,0,0,0])); setLocked 1 true (admitAll 27 0x50000700 0x500007FF ((s.set F.CLU_STATUS_STATE 5 7).setClu 7 k0))
    let c : ClusterId := 3
    let q : Fin 4 := 0
    let m : Mop := mop0
    let copy : List Word := mopCopy (mopWord s (↑c) m.slot) m.params;
    let f : Nat := mopField copy 3 0 8;
    let good : Prop := mopOk copy ((Option.map Prog.minwidth (s.clu ↑c).prog).getD 0) 8388608 = true;
    let d : Nat := BitVec.toNat (copy.getD 3 0) / 2 ^ 16 % 2 ^ 7;
    (s.clu ↑c).queues.length = 4 ∧
      noWaits (s.clu ↑c) ∧
        good ∧
          mopRepeat copy = 1 ∧
            mopReady s c (↑q) m 33 2 ∧
              (∃ (n : Nat),
                  ∃ (l : Loc),
                    judge (mopBegun s c (↑q) m 33) (96 + ↑c) (5497558138880 + d * 1048576 + 786432 + 4 * f) 4 true = (n, l, Gate.free)) ∧
                cluState s d = 5 ∧ (s.clu d).governor f = none ∧ noWaits (s.clu d) := by
  repeat' refine And.intro ?_ ?_
  all_goals first
    | decide +kernel
    | exact ⟨27, .priv 7 0xC0014, by decide +kernel⟩

theorem witness_macro_op_completion :
    (let s : State := let s := withMop 2 (mopW 0x10 0 0 (opdW 0 0 1 4 ++ opdW 48 1 1 4)); s.setClu 3 { s.clu 3 with nextXfer := 9, xfers := [], queues := (s.clu 3).queues.map fun x => { x with mops := [{ mop0 with phase := .running 0, status := 0, copy := (mopW 0x10 0 0 (opdW 0 0 1 4 ++ opdW 48 1 1 4)).zipIdx.map fun x => BitVec.ofNat 32 (x.1 + (if x.2 = 1 then 0 else 0) + (if x.2 = 0 then 0 else 0)) }, { mop0 with seq := 1 }] } }
     let c : ClusterId := 3
     let q : Fin 4 := 1
     let i : BitVec 6 := 0
     let m : Mop := { mop0 with phase := .running 0, status := 0, copy := (mopW 0x10 0 0 (opdW 0 0 1 4 ++ opdW 48 1 1 4)).zipIdx.map fun x => BitVec.ofNat 32 (x.1 + (if x.2 = 1 then 0 else 0) + (if x.2 = 0 then 0 else 0)) }
     let k : Clu := s.clu ↑c;
     let iq : IssueQ := k.queues.getD (↑q) IssueQ.empty;
     Regs.wf s.regs = true ∧
       cluState s ↑c = 5 ∧
         failing s ↑c = false ∧
           (s.clu ↑c).queues.length = 4 ∧
             iq.mops[i.toNat]? = some m ∧ mopFamily m.copy ≠ 1 ∧ mopFamily m.copy ≠ 2 ∧ mayComplete k (↑q) m = true ∧ m.status = 0 ∧ noWaits k) ∧
    (let s : State := let s := withMop 2 (mopW 0x10 0 0 (opdW 0 0 1 4 ++ opdW 48 1 1 4)); s.setClu 3 { s.clu 3 with nextXfer := 9, xfers := [], queues := (s.clu 3).queues.map fun x => { x with mops := [{ mop0 with phase := .running 0, status := 2, copy := (mopW 0x10 0 0 (opdW 0 0 1 4 ++ opdW 48 1 1 4)).zipIdx.map fun x => BitVec.ofNat 32 (x.1 + (if x.2 = 1 then 17235968 else 0) + (if x.2 = 0 then 16384 else 0)) }, { mop0 with seq := 1 }] } }
     let c : ClusterId := 3
     let q : Fin 4 := 1
     let i : BitVec 6 := 0
     let m : Mop := { mop0 with phase := .running 0, status := 2, copy := (mopW 0x10 0 0 (opdW 0 0 1 4 ++ opdW 48 1 1 4)).zipIdx.map fun x => BitVec.ofNat 32 (x.1 + (if x.2 = 1 then 17235968 else 0) + (if x.2 = 0 then 16384 else 0)) }
     let k : Clu := s.clu ↑c;
     let iq : IssueQ := k.queues.getD (↑q) IssueQ.empty;
     Regs.wf s.regs = true ∧
       cluState s ↑c = 5 ∧
         failing s ↑c = false ∧
           (s.clu ↑c).queues.length = 4 ∧
             iq.mops[i.toNat]? = some m ∧
               mopFamily m.copy ≠ 1 ∧ mopFamily m.copy ≠ 2 ∧ mayComplete k (↑q) m = true ∧ m.status ≠ 0 ∧ mopHaltErr m.copy = true) ∧
    (let s : State := let s := withMop 2 (mopW 0x10 0 0 (opdW 0 0 1 4 ++ opdW 48 1 1 4)); s.setClu 3 { s.clu 3 with nextXfer := 9, xfers := [⟨1, 2, 0, 0, 0, [⟨0, 0, 1, 0⟩], []⟩], queues := (s.clu 3).queues.map fun x => { x with mops := [{ mop0 with phase := .running 0, status := 0, copy := (mopW 0x10 0 0 (opdW 0 0 1 4 ++ opdW 48 1 1 4)).zipIdx.map fun x => BitVec.ofNat 32 (x.1 + (if x.2 = 1 then 0 else 0) + (if x.2 = 0 then 0 else 0)) }, { mop0 with seq := 1 }] } }
     let c : ClusterId := 3
     let q : Fin 4 := 2
     let i : BitVec 6 := 0
     let m : Mop := { mop0 with phase := .running 0, status := 0, copy := (mopW 0x10 0 0 (opdW 0 0 1 4 ++ opdW 48 1 1 4)).zipIdx.map fun x => BitVec.ofNat 32 (x.1 + (if x.2 = 1 then 0 else 0) + (if x.2 = 0 then 0 else 0)) }
     let k : Clu := s.clu ↑c;
     let iq : IssueQ := k.queues.getD (↑q) IssueQ.empty;
     Regs.wf s.regs = true ∧
       cluState s ↑c = 5 ∧
         failing s ↑c = false ∧
           (s.clu ↑c).queues.length = 4 ∧ iq.mops[i.toNat]? = some m ∧ mopFamily m.copy ≠ 1 ∧ mopFamily m.copy ≠ 2 ∧ mayComplete k (↑q) m = false) := by
  refine ⟨?_, ?_, ?_⟩ <;> decide +kernel

theorem witness_port_bring_up_1 :
    (let s : State := portAt 0 0
     let p : PortId := 0
     let lane : LaneId := 1
     Regs.wf s.regs = true ∧
       linkQuiet s ↑p ∧ portDefined s ↑p = true ∧ portState s ↑p = 0 ∧ portOfLane s ↑lane = some ↑p ∧ (portState s ↑p = 0 ∨ portState s ↑p = 7)) ∧
    (let s : State := portAt 0 1
     let p : PortId := 0
     let since : Nat := (s.link ↑p).since;
     Regs.wf s.regs = true ∧
       linkQuiet s ↑p ∧ portState s ↑p ≠ 0 ∧ portState s ↑p = 1 ∧ s.net.groupBad.testBit (laneGroup s ↑p) = false ∧ s.passedUs since 1000 = true) ∧
    (let s : State := portAt 0 2
     let p : PortId := 0
     let since : Nat := (s.link ↑p).since;
     Regs.wf s.regs = true ∧
       linkQuiet s ↑p ∧ portState s ↑p = 2 ∧ s.passedUs since (if s.get F.LINK_CFG_FORM (portLane s ↑p) = 0 then 500000 else 50000) = true) ∧
    (let s : State := portAt 0 3
     let p : PortId := 0
     let since : Nat := (s.link ↑p).since;
     Regs.wf s.regs = true ∧ linkQuiet s ↑p ∧ portState s ↑p = 3 ∧ s.passedUs since 1000 = true) ∧
    (let s : State := portAt 0 4
     let p : PortId := 0
     let since : Nat := (s.link ↑p).since;
     Regs.wf s.regs = true ∧ linkQuiet s ↑p ∧ portState s ↑p = 4 ∧ s.passedUs since 10000 = true) ∧
    (let s : State := portAt 0 5
     let p : PortId := 0
     let lane : LaneId := 1
     let sig : Bool := false
     let cdr : Bool := true
     let align : Bool := true
     Regs.wf s.regs = true ∧ linkQuiet s ↑p ∧ portState s ↑p = 5 ∧ portOfLane s ↑lane = some ↑p ∧ (sig && cdr && align) = false) := by
  refine ⟨?_, ?_, ?_, ?_, ?_, ?_⟩ <;> decide +kernel

theorem witness_port_bring_up_2 :
    (let s : State := portAt 0 6
     let p : PortId := 0
     let since : Nat := (s.link ↑p).since;
     Regs.wf s.regs = true ∧ linkQuiet s ↑p ∧ portState s ↑p = 6 ∧ s.passedUs since 10000 = true) ∧
    (let s : State := portAt 0 0
     let p : PortId := 300
     Regs.wf s.regs = true ∧ linkQuiet s ↑p ∧ portDefined s ↑p = false) := by
  refine ⟨?_, ?_⟩ <;> decide +kernel

theorem witness_forms_and_layout :
    (let s : State := let s := (State.reset.set F.PORT_CTL_EN 0 0).setPending (.layout 0) true; { s with shadow := [(R.LINK_QMODE.addr 0 0, 2#32)] }
     let lane : LaneId := 1
     let form : BitVec 1 := 1
     let b : BerthId := 0
     let w : Word := 2
     Regs.wf s.regs = true ∧
       form.toNat ≠ s.get F.LINK_CFG_FORM ↑lane ∧
         (∀ (p : Nat), portOfLane s ↑lane = some p → s.flag F.PORT_CTL_EN p = false) ∧
           s.armed (CommitGroup.layout b) = true ∧
             s.shadow = [(R.LINK_QMODE.addr (64 * ↑b) 0, w)] ∧
               ∀ (p : Nat), p ∈ layoutChanges b s → portDefined s p = true → s.flag F.PORT_CTL_EN p = false ∧ portState s p = 0) ∧
    (let s : State := let s := (State.reset.set F.PORT_CTL_EN 1 0).setPending (.layout 0) true; { s with shadow := [(R.LINK_QMODE.addr 0 0, 2#32)] }
     let lane : LaneId := 1
     let form : BitVec 1 := 1
     let p : Nat := 0;
     Regs.wf s.regs = true ∧ form.toNat ≠ s.get F.LINK_CFG_FORM ↑lane ∧ portOfLane s ↑lane = some p ∧ s.flag F.PORT_CTL_EN p = true) ∧
    (let s : State := let s := (State.reset.set F.PORT_CTL_EN 1 0).setPending (.layout 0) true; { s with shadow := [(R.LINK_QMODE.addr 0 0, 2#32)] }
     let lane : LaneId := 1
     let form : BitVec 1 := 1
     let b : BerthId := 0
     let w : Word := 2
     let p : Nat := 0;
     Regs.wf s.regs = true ∧
       form.toNat ≠ s.get F.LINK_CFG_FORM ↑lane ∧
         s.armed (CommitGroup.layout b) = true ∧
           s.shadow = [(R.LINK_QMODE.addr (64 * ↑b) 0, w)] ∧ p ∈ layoutChanges b s ∧ portDefined s p = true ∧ s.flag F.PORT_CTL_EN p = true) := by
  refine ⟨?_, ?_, ?_⟩ <;> decide +kernel

theorem witness_init_exchange :
    (let s : State := let s := portAt 0 4; s.setLink 0 { LinkSt.initial with peerDone := false, sentDone := false, peerInit := List.replicate 11 none }
     let p : PortId := 0
     let index : BitVec 4 := 3
     let l : LinkSt := s.link ↑p;
     Regs.wf s.regs = true ∧
       linkQuiet s ↑p ∧ portState s ↑p = 4 ∧ l.peerDone = false ∧ index.toNat ≤ 10 ∧ index ≠ 9 ∧ l.sentDone = false ∧ l.peerInit.length = 11) ∧
    (let s : State := let s := portAt 0 4; s.setLink 0 { LinkSt.initial with peerDone := false, sentDone := false, peerInit := List.replicate 11 none }
     let p : PortId := 0
     let index : BitVec 4 := 9
     let value : BitVec 16 := 2063
     Regs.wf s.regs = true ∧ linkQuiet s ↑p ∧ portState s ↑p = 4 ∧ index = 9 ∧ fieldOf value.toNat 8 4 ≠ portWidth s ↑p) ∧
    (let s : State := let s := portAt 0 4; s.setLink 0 { LinkSt.initial with peerDone := false, sentDone := true, peerInit := List.replicate 9 (some 64) ++ [some 0x40F, none] }
     let p : PortId := 0
     let index : BitVec 4 := 10
     let value : BitVec 16 := 5
     let b : Nat := 0
     let w : Nat := 4
     let l : LinkSt := s.link ↑p;
     let got : List (Option Nat) := l.peerInit.set 10 (some value.toNat);
     let peer : Nat → Nat := fun (i : Nat) ↦ (got.getD i none).getD 0;
     Regs.wf s.regs = true ∧
       linkQuiet s ↑p ∧
         portState s ↑p = 4 ∧
           index = 10 ∧ l.sentDone = true ∧ l.peerInit.length = 11 ∧ usableBlock s (↑p) (healthyMask s ↑p &&& peer 9 % 256) = some (b, w)) := by
  refine ⟨?_, ?_, ?_⟩ <;> decide +kernel

theorem witness_credit_and_retry :
    (let s : State := let s := ((portAt 0 5).set F.PORT_TXCRED_PEER 100 0 2).set F.PORT_TXCRED_AVAIL 4 0 2; s.setLink 0 { LinkSt.initial with stored := [], noProgress := 0, unacked := 0 }
     let p : PortId := 0
     let c : ClassId := 2
     let count : BitVec 16 := 10
     let q : BitVec 8 := 1
     let word : BitVec 64 := 0x108
     let l : LinkSt := s.link ↑p;
     let delta : Nat := (count.toNat + 65536 - l.lastCount.getD (↑c) 0 % 65536) % 65536;
     let avail : Nat := s.get F.PORT_TXCRED_AVAIL ↑p ↑c + delta;
     Regs.wf s.regs = true ∧
       portState s ↑p = 5 ∧
         (s.link ↑p).tx = none ∧
           s.upsets = [] ∧ avail ≤ s.get F.PORT_TXCRED_PEER ↑p ↑c ∧ storedFrom q.toNat l.stored = [] ∧ l.unacked = 0 ∧ 7 < word.toNat % 256) ∧
    (let s : State := let s := ((portAt 0 5).set F.PORT_TXCRED_PEER 100 0 2).set F.PORT_TXCRED_AVAIL 4 0 2; s.setLink 0 { LinkSt.initial with stored := [], noProgress := 0, unacked := 3 }
     let p : PortId := 0
     let l : LinkSt := s.link ↑p;
     Regs.wf s.regs = true ∧ portState s ↑p = 5 ∧ (s.link ↑p).tx = none ∧ s.upsets = [] ∧ 0 < l.unacked ∧ 20 ≤ s.elapsed l.unackedAt) ∧
    (let s : State := let s := ((portAt 0 5).set F.PORT_TXCRED_PEER 100 0 2).set F.PORT_TXCRED_AVAIL 4 0 2; s.setLink 0 { LinkSt.initial with stored := [stored0], noProgress := 0, unacked := 0 }
     let p : PortId := 0
     let q : BitVec 8 := 1
     let f : Stored := stored0
     let rest : List Stored := []
     let l : LinkSt := s.link ↑p;
     Regs.wf s.regs = true ∧
       portState s ↑p = 5 ∧
         (s.link ↑p).tx = none ∧
           s.upsets = [] ∧
             storedFrom q.toNat l.stored = f :: rest ∧
               l.stored = [f] ∧
                 f.lseq = q.toNat ∧
                   l.noProgress < max 1 (s.get F.PORT_RETRY_MAX ↑p) ∧ f.done = true ∧ s.get F.PORT_RETRY_ACKTMO ↑p ≤ s.elapsed f.sentAt) ∧
    (let s : State := let s := ((portAt 0 5).set F.PORT_TXCRED_PEER 100 0 2).set F.PORT_TXCRED_AVAIL 4 0 2; s.setLink 0 { LinkSt.initial with stored := [stored0], noProgress := 99, unacked := 1 }
     let p : PortId := 0
     let q : BitVec 8 := 1
     let f : Stored := stored0
     let l : LinkSt := s.link ↑p;
     Regs.wf s.regs = true ∧
       portState s ↑p = 5 ∧
         (s.link ↑p).tx = none ∧
           s.upsets = [] ∧ l.rx = RxCur.idle ∧ l.stored = [f] ∧ f.lseq = q.toNat ∧ max 1 (s.get F.PORT_RETRY_MAX ↑p) ≤ l.noProgress) ∧
    (let s : State := let s := ((portAt 0 5).set F.PORT_TXCRED_PEER 5 0 2).set F.PORT_TXCRED_AVAIL 4 0 2; s.setLink 0 { LinkSt.initial with stored := [], noProgress := 0, unacked := 0 }
     let p : PortId := 0
     let c : ClassId := 2
     let count : BitVec 16 := 10
     let l : LinkSt := s.link ↑p;
     let delta : Nat := (count.toNat + 65536 - l.lastCount.getD (↑c) 0 % 65536) % 65536;
     let avail : Nat := s.get F.PORT_TXCRED_AVAIL ↑p ↑c + delta;
     Regs.wf s.regs = true ∧
       portState s ↑p = 5 ∧ (s.link ↑p).tx = none ∧ s.upsets = [] ∧ l.rx = RxCur.idle ∧ s.get F.PORT_TXCRED_PEER ↑p ↑c < avail) := by
  refine ⟨?_, ?_, ?_, ?_, ?_⟩ <;> decide +kernel

theorem witness_frames_in :
    (let s : State := let s := withPkt pin (portAt 0 5); s.setLink 0 { LinkSt.initial with rxExp := 9, rx := .packet 1, nakHeld := false }
     let p : PortId := 0
     let f : RxFrame := goodFrame 9
     let id : Nat := 1
     let k : Pkt := pin
     let l : LinkSt := s.link ↑p;
     Regs.wf s.regs = true ∧
       portState s ↑p = 5 ∧
         f.abt = false ∧
           frameBad f = false ∧
             f.lseq.toNat = l.rxExp ∧
               l.rxExp < 256 ∧
                 l.rx = RxCur.packet id ∧
                   s.pkt id = some k ∧
                     k.src = PktSrc.port ↑p ∧
                       k.refs ≠ 0 ∧
                         f.symErr = [] ∧
                           packetCrc f.hdr f.payload = f.trailer.toNat ∧ k.hdr.cm = false ∧ s.get F.FWD_CMTHR_MARK 0 k.hdr.cls.toNat = 0) ∧
    (let s : State := let s := withPkt pin (portAt 0 5); s.setLink 0 { LinkSt.initial with rxExp := 9, rx := .idle, nakHeld := false }
     let p : PortId := 0
     let h : Header := hdr0
     let l : LinkSt := s.link ↑p;
     Regs.wf s.regs = true ∧
       portState s ↑p = 5 ∧
         l.rx = RxCur.idle ∧
           kindOf h ≠ Kind.tide ∧ h.len.toNat ≤ 4096 ∧ h.cls.toNat < 8 ∧ s.get F.SCHED_MRATE_RATE (↑p) h.cls.toNat = 0 ∧ l.rxExp < 256) ∧
    (let s : State := let s := withPkt pin (portAt 0 5); s.setLink 0 { LinkSt.initial with rxExp := 9, rx := .idle, nakHeld := false }
     let p : PortId := 0
     let f : RxFrame := { goodFrame 9 with lcrc := 1 }
     let l : LinkSt := s.link ↑p;
     let behind : Nat := (l.rxExp + 256 - f.lseq.toNat) % 256;
     Regs.wf s.regs = true ∧ portState s ↑p = 5 ∧ (frameBad f = true ∨ 64 < behind) ∧ f.abt = false ∧ l.rx = RxCur.idle ∧ l.nakHeld = false) ∧
    (let s : State := let s := withPkt pin (portAt 0 5); s.setLink 0 { LinkSt.initial with rxExp := 10, rx := .packet 1, nakHeld := false }
     let p : PortId := 0
     let f : RxFrame := goodFrame 9
     let l : LinkSt := s.link ↑p;
     let behind : Nat := (l.rxExp + 256 - f.lseq.toNat) % 256;
     Regs.wf s.regs = true ∧ portState s ↑p = 5 ∧ frameBad f = false ∧ f.abt = false ∧ 0 < behind ∧ behind ≤ 64) ∧
    (let s : State := portAt 0 5
     let p : PortId := 0
     let h : Header := { hdr0 with cls := 9 }
     let l : LinkSt := s.link ↑p;
     Regs.wf s.regs = true ∧ portState s ↑p = 5 ∧ l.rx = RxCur.idle ∧ kindOf h ≠ Kind.tide ∧ h.len.toNat ≤ 4096 ∧ 8 < h.cls.toNat ∧ l.rxExp < 256) ∧
    (let s : State := let s := routed (withPkt { pkt0 with hdr := { hdr0 with cls := 2 }, cells := [], inRx := true } (portAt 0 5)); { (s.set F.FWD_SELF_ID 0x04E) with net.ingress := [(0, [1, 4])] }
     let p : PortId := 0
     let id : Nat := 1
     let k : Pkt := { pkt0 with hdr := { hdr0 with cls := 2 }, cells := [], inRx := true }
     let rest : List Nat := [4]
     let o : Nat := 1
     Regs.wf s.regs = true ∧
       lookup s.net.ingress ↑p = some (id :: rest) ∧
         s.pkt id = some k ∧
           s.upsets = [] ∧
             s.flag F.FWD_CTL_EN = true ∧
               epFenced s k.hdr.dst.toNat = false ∧
                 o < 512 ∧
                   portDefined s o = true ∧ portFenced s o = false ∧ lookup s.net.fwdTab k.hdr.dst.toNat = some (BitVec.ofNat 32 (2 ^ 30 + o))) := by
  refine ⟨?_, ?_, ?_, ?_, ?_, ?_⟩ <;> decide +kernel

theorem witness_frames_in_deep_1 :
    let s : State := let s := routed (withPkt { pkt0 with hdr := { hdr0 with cls := 8 }, cells := [], inRx := true } (portAt 0 5)); { (s.set F.FWD_SELF_ID 0x04E) with net.ingress := [(0, [1, 4])] }
    let s1 : State := (at8 (takePktCells ({ pkt0 with hdr := { hdr0 with cls := 8 }, cells := [], inRx := true }) ownerIngress ownerEgress 1 (popIngress 0 (let s := routed (withPkt { pkt0 with hdr := { hdr0 with cls := 8 }, cells := [], inRx := true } (portAt 0 5)); { (s.set F.FWD_SELF_ID 0x04E) with net.ingress := [(0, [1, 4])] })))).2
    let p : PortId := 0
    let id : Nat := 1
    let k : Pkt := { pkt0 with hdr := { hdr0 with cls := 8 }, cells := [], inRx := true }
    let cells : List Nat := (at8 (takePktCells ({ pkt0 with hdr := { hdr0 with cls := 8 }, cells := [], inRx := true }) ownerIngress ownerEgress 1 (popIngress 0 (let s := routed (withPkt { pkt0 with hdr := { hdr0 with cls := 8 }, cells := [], inRx := true } (portAt 0 5)); { (s.set F.FWD_SELF_ID 0x04E) with net.ingress := [(0, [1, 4])] })))).1
    let rest : List Nat := [4]
    let o : Nat := 1
    Regs.wf s.regs = true ∧
      lookup s.net.ingress ↑p = some (id :: rest) ∧
        s.pkt id = some k ∧
          forDevice s k.hdr = false ∧
            lookupRoute k.hdr k.job (portEngine s ↑p) (some ↑p) (popIngress (↑p) s) = (Route.ports [o] false, popIngress (↑p) s) ∧
              takePktCells k ownerIngress ownerEgress 1 (popIngress (↑p) s) = some (cells, s1) := by
  repeat' refine And.intro ?_ ?_
  all_goals rfl

theorem witness_frames_in_deep_2 :
    let s : State := let s := routed (withPkt { pkt0 with hdr := { hdr0 with cls := 8 }, cells := [], inRx := true } (portAt 0 5)); { (s.set F.FWD_SELF_ID 0x04D) with net.ingress := [(0, [1, 4])] }
    let s1 : State := (at8 (takePktCells ({ pkt0 with hdr := { hdr0 with cls := 8 }, cells := [], inRx := true }) ownerIngress ownerDevRx 1 (popIngress 0 (let s := routed (withPkt { pkt0 with hdr := { hdr0 with cls := 8 }, cells := [], inRx := true } (portAt 0 5)); { (s.set F.FWD_SELF_ID 0x04D) with net.ingress := [(0, [1, 4])] })))).2
    let p : PortId := 0
    let id : Nat := 1
    let k : Pkt := { pkt0 with hdr := { hdr0 with cls := 8 }, cells := [], inRx := true }
    let cells : List Nat := (at8 (takePktCells ({ pkt0 with hdr := { hdr0 with cls := 8 }, cells := [], inRx := true }) ownerIngress ownerDevRx 1 (popIngress 0 (let s := routed (withPkt { pkt0 with hdr := { hdr0 with cls := 8 }, cells := [], inRx := true } (portAt 0 5)); { (s.set F.FWD_SELF_ID 0x04D) with net.ingress := [(0, [1, 4])] })))).1
    let rest : List Nat := [4]
    Regs.wf s.regs = true ∧
      lookup s.net.ingress ↑p = some (id :: rest) ∧
        s.pkt id = some k ∧
          forDevice s k.hdr = true ∧
            kindOf k.hdr ≠ Kind.other ∧
              k.hdr.cm = false ∧ k.owes = false ∧ takePktCells k ownerIngress ownerDevRx 1 (popIngress (↑p) s) = some (cells, s1) := by
  repeat' refine And.intro ?_ ?_
  all_goals first
    | decide +kernel
    | rfl

theorem witness_injection_and_staging :
    (let s : State := let s := routed (portAt 1 5); let s := { (s.set F.FWD_SELF_ID 0x04E) with net.injq := [(4, [(⟨3, { hdr0 with cls := 2 }, [1, 2, 3, 4], 0, false, false, false, none, none⟩ : InjPkt)])] }; s
     s.get F.FWD_IND_SEL_TABLE < 3 ∧ s.armed CommitGroup.fwd = false ∧ s.net.staging.length < 1024) ∧
    (let s : State := let s := routed (portAt 1 5); let s := { (s.set F.FWD_SELF_ID 0x04E) with net.injq := [(4, [(⟨3, { hdr0 with cls := 2 }, [1, 2, 3, 4], 0, false, false, false, none, none⟩ : InjPkt), (⟨3, { hdr0 with cls := 2 }, [1, 2, 3, 4], 0, false, false, false, none, none⟩ : InjPkt)])] }; s
     let m : MasterId := 4
     let i : BitVec 12 := 1
     let k : InjPkt := (⟨3, { hdr0 with cls := 2 }, [1, 2, 3, 4], 0, false, false, false, none, none⟩ : InjPkt)
     let mid : Nat := BitVec.toNat m;
     let held : List InjPkt := (lookup s.net.injq mid).getD [];
     let first : Prop := ((List.take i.toNat held).any fun (x : InjPkt) ↦ x.xfer == k.xfer) = false;
     held[i.toNat]? = some k ∧ ¬first) ∧
    (let s : State := let s := routed (portAt 1 5); let s := { (s.set F.FWD_SELF_ID 0x04E) with net.injq := [(4, [(⟨3, hdr0, [1, 2, 3, 4], 0, false, false, false, none, some (5, 0)⟩ : InjPkt)])] }; s.setColl 5 { Coll.initial with fenced := [0] }
     let m : MasterId := 4
     let i : BitVec 12 := 0
     let k : InjPkt := (⟨3, hdr0, [1, 2, 3, 4], 0, false, false, false, none, some (5, 0)⟩ : InjPkt)
     let mid : Nat := BitVec.toNat m;
     let held : List InjPkt := (lookup s.net.injq mid).getD [];
     let first : Prop := ((List.take i.toNat held).any fun (x : InjPkt) ↦ x.xfer == k.xfer) = false;
     held[i.toNat]? = some k ∧ first ∧ rankFenced s k.coll = true) := by
  refine ⟨?_, ?_, ?_⟩ <;> decide +kernel

theorem witness_injection_and_staging_deep_1 :
    let s : State := let s := routed (portAt 1 5); let s := { (s.set F.FWD_SELF_ID 0x04E) with net.injq := [(4, [(⟨3, { hdr0 with cls := 8 }, [1, 2, 3, 4], 0, false, false, false, none, none⟩ : InjPkt)])] }; s
    let s1 : State := (at8 (takePktCells ⟨((⟨3, { hdr0 with cls := 8 }, [1, 2, 3, 4], 0, false, false, false, none, none⟩ : InjPkt)).hdr, ((⟨3, { hdr0 with cls := 8 }, [1, 2, 3, 4], 0, false, false, false, none, none⟩ : InjPkt)).payload, BitVec.ofNat 32 (packetCrc ((⟨3, { hdr0 with cls := 8 }, [1, 2, 3, 4], 0, false, false, false, none, none⟩ : InjPkt)).hdr ((⟨3, { hdr0 with cls := 8 }, [1, 2, 3, 4], 0, false, false, false, none, none⟩ : InjPkt)).payload), true, ((⟨3, { hdr0 with cls := 8 }, [1, 2, 3, 4], 0, false, false, false, none, none⟩ : InjPkt)).bad, .injector 4, [], ((⟨3, { hdr0 with cls := 8 }, [1, 2, 3, 4], 0, false, false, false, none, none⟩ : InjPkt)).job, 0, false, false, false, (let s := routed (portAt 1 5); let s := { (s.set F.FWD_SELF_ID 0x04E) with net.injq := [(4, [(⟨3, { hdr0 with cls := 8 }, [1, 2, 3, 4], 0, false, false, false, none, none⟩ : InjPkt)])] }; s).fabTime, none, false⟩ 4 ownerEgress 1 s)).2
    let s2 : State := s
    let m : MasterId := 4
    let i : BitVec 12 := 0
    let k : InjPkt := (⟨3, { hdr0 with cls := 8 }, [1, 2, 3, 4], 0, false, false, false, none, none⟩ : InjPkt)
    let cells : List Nat := (at8 (takePktCells ⟨((⟨3, { hdr0 with cls := 8 }, [1, 2, 3, 4], 0, false, false, false, none, none⟩ : InjPkt)).hdr, ((⟨3, { hdr0 with cls := 8 }, [1, 2, 3, 4], 0, false, false, false, none, none⟩ : InjPkt)).payload, BitVec.ofNat 32 (packetCrc ((⟨3, { hdr0 with cls := 8 }, [1, 2, 3, 4], 0, false, false, false, none, none⟩ : InjPkt)).hdr ((⟨3, { hdr0 with cls := 8 }, [1, 2, 3, 4], 0, false, false, false, none, none⟩ : InjPkt)).payload), true, ((⟨3, { hdr0 with cls := 8 }, [1, 2, 3, 4], 0, false, false, false, none, none⟩ : InjPkt)).bad, .injector 4, [], ((⟨3, { hdr0 with cls := 8 }, [1, 2, 3, 4], 0, false, false, false, none, none⟩ : InjPkt)).job, 0, false, false, false, (let s := routed (portAt 1 5); let s := { (s.set F.FWD_SELF_ID 0x04E) with net.injq := [(4, [(⟨3, { hdr0 with cls := 8 }, [1, 2, 3, 4], 0, false, false, false, none, none⟩ : InjPkt)])] }; s).fabTime, none, false⟩ 4 ownerEgress 1 s)).1
    let o : Nat := 1
    let mcast : Bool := false
    let mid : Nat := BitVec.toNat m;
    let held : List InjPkt := (lookup s.net.injq mid).getD [];
    let c : Nat := k.hdr.cls.toNat;
    let pkt : Pkt :=
      { hdr := k.hdr, payload := k.payload, trailer := BitVec.ofNat 32 (packetCrc k.hdr k.payload), complete := true, bad := k.bad,
        src := PktSrc.injector mid, cells := [], job := k.job, refs := 0, inRx := false, mcast := false, owes := false, rxAt := s.fabTime,
        coll := none, sent := false };
    let first : Prop := ((List.take i.toNat held).any fun (x : InjPkt) ↦ x.xfer == k.xfer) = false;
    held[i.toNat]? = some k ∧
      k.cells = none ∧
        k.coll = none ∧
          epFenced s k.hdr.dst.toNat = false ∧
            first ∧
              forDevice s k.hdr = false ∧
                lookupRoute k.hdr k.job (injectorEngine mid) none s = (Route.ports [o] mcast, s2) ∧
                  (c = 8 ∨ (mid = responder ∨ throttleAllows s mid o c = true) ∧ poolHolds s mid = false) ∧
                    takePktCells pkt mid ownerEgress 1 s2 = some (cells, s1) := by
  repeat' refine And.intro ?_ ?_
  all_goals first
    | decide +kernel
    | rfl

theorem witness_injection_and_staging_deep_2 :
    let s : State := let s := routed (portAt 1 5); let s := { (s.set F.FWD_SELF_ID 0x04D) with net.injq := [(4, [(⟨3, { hdr0 with cls := 8 }, [1, 2, 3, 4], 0, false, false, false, none, none⟩ : InjPkt)])] }; s
    let s1 : State := (at8 (takePktCells ⟨((⟨3, { hdr0 with cls := 8 }, [1, 2, 3, 4], 0, false, false, false, none, none⟩ : InjPkt)).hdr, ((⟨3, { hdr0 with cls := 8 }, [1, 2, 3, 4], 0, false, false, false, none, none⟩ : InjPkt)).payload, BitVec.ofNat 32 (packetCrc ((⟨3, { hdr0 with cls := 8 }, [1, 2, 3, 4], 0, false, false, false, none, none⟩ : InjPkt)).hdr ((⟨3, { hdr0 with cls := 8 }, [1, 2, 3, 4], 0, false, false, false, none, none⟩ : InjPkt)).payload), true, ((⟨3, { hdr0 with cls := 8 }, [1, 2, 3, 4], 0, false, false, false, none, none⟩ : InjPkt)).bad, .injector 4, [], ((⟨3, { hdr0 with cls := 8 }, [1, 2, 3, 4], 0, false, false, false, none, none⟩ : InjPkt)).job, 0, false, false, false, (let s := routed (portAt 1 5); let s := { (s.set F.FWD_SELF_ID 0x04D) with net.injq := [(4, [(⟨3, { hdr0 with cls := 8 }, [1, 2, 3, 4], 0, false, false, false, none, none⟩ : InjPkt)])] }; s).fabTime, none, false⟩ 4 ownerDevRx 1 s)).2
    let m : MasterId := 4
    let i : BitVec 12 := 0
    let k : InjPkt := (⟨3, { hdr0 with cls := 8 }, [1, 2, 3, 4], 0, false, false, false, none, none⟩ : InjPkt)
    let cells : List Nat := (at8 (takePktCells ⟨((⟨3, { hdr0 with cls := 8 }, [1, 2, 3, 4], 0, false, false, false, none, none⟩ : InjPkt)).hdr, ((⟨3, { hdr0 with cls := 8 }, [1, 2, 3, 4], 0, false, false, false, none, none⟩ : InjPkt)).payload, BitVec.ofNat 32 (packetCrc ((⟨3, { hdr0 with cls := 8 }, [1, 2, 3, 4], 0, false, false, false, none, none⟩ : InjPkt)).hdr ((⟨3, { hdr0 with cls := 8 }, [1, 2, 3, 4], 0, false, false, false, none, none⟩ : InjPkt)).payload), true, ((⟨3, { hdr0 with cls := 8 }, [1, 2, 3, 4], 0, false, false, false, none, none⟩ : InjPkt)).bad, .injector 4, [], ((⟨3, { hdr0 with cls := 8 }, [1, 2, 3, 4], 0, false, false, false, none, none⟩ : InjPkt)).job, 0, false, false, false, (let s := routed (portAt 1 5); let s := { (s.set F.FWD_SELF_ID 0x04D) with net.injq := [(4, [(⟨3, { hdr0 with cls := 8 }, [1, 2, 3, 4], 0, false, false, false, none, none⟩ : InjPkt)])] }; s).fabTime, none, false⟩ 4 ownerDevRx 1 s)).1
    let mid : Nat := BitVec.toNat m;
    let held : List InjPkt := (lookup s.net.injq mid).getD [];
    let c : Nat := k.hdr.cls.toNat;
    let pkt : Pkt :=
      { hdr := k.hdr, payload := k.payload, trailer := BitVec.ofNat 32 (packetCrc k.hdr k.payload), complete := true, bad := k.bad,
        src := PktSrc.injector mid, cells := [], job := k.job, refs := 0, inRx := false, mcast := false, owes := false, rxAt := s.fabTime,
        coll := none, sent := false };
    let first : Prop := ((List.take i.toNat held).any fun (x : InjPkt) ↦ x.xfer == k.xfer) = false;
    held[i.toNat]? = some k ∧
      k.cells = none ∧
        k.coll = none ∧
          epFenced s k.hdr.dst.toNat = false ∧
            first ∧ forDevice s k.hdr = true ∧ (c = 8 ∨ poolHolds s mid = false) ∧ takePktCells pkt mid ownerDevRx 1 s = some (cells, s1) := by
  repeat' refine And.intro ?_ ?_
  all_goals first
    | decide +kernel
    | rfl

theorem witness_remote_accesses :
    (let s : State := let s := routed (withPkt { pkt0 with hdr := { hdr0 with kind := 0, flow := 0, len := 4 }, payload := [1, 2, 3, 4] } (portAt 0 5)); let s := { (s.set F.CLU_STATUS_STATE 5 3) with net.devRx := [1] }; let s := setLocked 0 true s; let s := admitAll 23 0x40003000 0x40003FFF (((s.set F.ACC_FMC_HI_VALID 1).set F.ACC_FMC_LO_FIRST 0x100).set F.ACC_FMC_HI_LAST 0x200); s
     let i : BitVec 12 := 0
     let id : Nat := 1
     let k : Pkt := { pkt0 with hdr := { hdr0 with kind := 0, flow := 0, len := 4 }, payload := [1, 2, 3, 4] }
     s.upsets = [] ∧ devRxAt s i.toNat = some (id, k)) ∧
    (let s : State := let s := routed (withPkt { pkt0 with hdr := { hdr0 with kind := 2, flow := 0, len := 8 }, payload := (toBytes 8 (0x040003000000 + 0 * 2 ^ 48)) } (portAt 0 5)); let s := { (s.set F.CLU_STATUS_STATE 5 3) with net.devRx := [1] }; let s := setLocked 0 true s; let s := admitAll 23 0x40003000 0x40003FFF (((s.set F.ACC_FMC_HI_VALID 1).set F.ACC_FMC_LO_FIRST 0x100).set F.ACC_FMC_HI_LAST 0x200); s
     let i : BitVec 12 := 0
     let id : Nat := 1
     let k : Pkt := { pkt0 with hdr := { hdr0 with kind := 2, flow := 0, len := 8 }, payload := (toBytes 8 (0x040003000000 + 0 * 2 ^ 48)) }
     let h : Header := k.hdr;
     let w : Nat := ofBytes k.payload;
     let rlen : Nat := fieldOf w 48 13;
     s.upsets = [] ∧ devRxAt s i.toNat = some (id, k) ∧ kindOf h = Kind.get ∧ k.payload.length = 8 ∧ rlen = 0) ∧
    (let s : State := let s := routed (withPkt { pkt0 with hdr := { hdr0 with kind := 4, flow := 196608, len := 8 }, payload := (toBytes 8 0) } (portAt 0 5)); let s := { (s.set F.CLU_STATUS_STATE 5 3) with net.devRx := [1] }; let s := setLocked 0 true s; let s := admitAll 23 0x40003000 0x40003FFF (((s.set F.ACC_FMC_HI_VALID 1).set F.ACC_FMC_LO_FIRST 0x100).set F.ACC_FMC_HI_LAST 0x200); s.setClu 3 { k0 with xfers := [⟨9, 2, 0, 0x123, 0, [⟨7, 0, 4, 0⟩], []⟩], queues := [0, 1, 2, 3].map fun q => if q = 2 then { IssueQ.empty with mops := [{ mop0 with copy := (mopW 0x12 0 77 (opdF 0x8000 0 0 1 4 ++ opdW 64 1 1 4)).map (BitVec.ofNat 32) }] } else IssueQ.empty }
     let i : BitVec 12 := 0
     let id : Nat := 1
     let k : Pkt := { pkt0 with hdr := { hdr0 with kind := 4, flow := 196608, len := 8 }, payload := (toBytes 8 0) }
     let c : Nat := 3
     let x : Xfer := ⟨9, 2, 0, 0x123, 0, [⟨7, 0, 4, 0⟩], []⟩
     let r : RemoteReq := ⟨7, 0, 4, 0⟩
     let h : Header := k.hdr;
     let status : Nat := fieldOf (ofBytes (List.take 8 k.payload)) 0 8;
     s.upsets = [] ∧ devRxAt s i.toNat = some (id, k) ∧ kindOf h = Kind.ack ∧ awaited false h s = some (c, x, r) ∧ status = 0 ∧ x.kind ≠ 1) ∧
    (let s : State := let s := routed (withPkt { pkt0 with hdr := { hdr0 with kind := 4, flow := 196608, len := 8 }, payload := (toBytes 8 1) } (portAt 0 5)); let s := { (s.set F.CLU_STATUS_STATE 5 3) with net.devRx := [1] }; let s := setLocked 0 true s; let s := admitAll 23 0x40003000 0x40003FFF (((s.set F.ACC_FMC_HI_VALID 1).set F.ACC_FMC_LO_FIRST 0x100).set F.ACC_FMC_HI_LAST 0x200); s.setClu 3 { k0 with xfers := [⟨9, 2, 0, 0x123, 0, [⟨7, 0, 4, 0⟩], []⟩], queues := [0, 1, 2, 3].map fun q => if q = 2 then { IssueQ.empty with mops := [{ mop0 with copy := (mopW 0x12 0 77 (opdF 0x8000 0 0 1 4 ++ opdW 64 1 1 4)).map (BitVec.ofNat 32) }] } else IssueQ.empty }
     let i : BitVec 12 := 0
     let id : Nat := 1
     let k : Pkt := { pkt0 with hdr := { hdr0 with kind := 4, flow := 196608, len := 8 }, payload := (toBytes 8 1) }
     let c : Nat := 3
     let x : Xfer := ⟨9, 2, 0, 0x123, 0, [⟨7, 0, 4, 0⟩], []⟩
     let r : RemoteReq := ⟨7, 0, 4, 0⟩
     let h : Header := k.hdr;
     let status : Nat := fieldOf (ofBytes (List.take 8 k.payload)) 0 8;
     s.upsets = [] ∧ devRxAt s i.toNat = some (id, k) ∧ kindOf h = Kind.ack ∧ awaited false h s = some (c, x, r) ∧ status ≠ 0) ∧
    (let s : State := let s := routed (withPkt { pkt0 with hdr := { hdr0 with kind := 4, flow := 196608, len := 8 }, payload := (toBytes 8 0) } (portAt 0 5)); let s := { (s.set F.CLU_STATUS_STATE 5 3) with net.devRx := [1] }; let s := setLocked 0 true s; let s := admitAll 23 0x40003000 0x40003FFF (((s.set F.ACC_FMC_HI_VALID 1).set F.ACC_FMC_LO_FIRST 0x100).set F.ACC_FMC_HI_LAST 0x200); s
     let i : BitVec 12 := 0
     let id : Nat := 1
     let k : Pkt := { pkt0 with hdr := { hdr0 with kind := 4, flow := 196608, len := 8 }, payload := (toBytes 8 0) }
     let h : Header := k.hdr;
     s.upsets = [] ∧ devRxAt s i.toNat = some (id, k) ∧ kindOf h = Kind.ack ∧ awaited false h s = none) := by
  refine ⟨?_, ?_, ?_, ?_, ?_⟩ <;> decide +kernel

theorem witness_remote_accesses_deep_1 :
    let s : State := let s := routed (withPkt { pkt0 with hdr := { hdr0 with kind := 0, flow := 0, len := 4 }, payload := [1, 2, 3, 4] } (portAt 0 5)); let s := { (s.set F.CLU_STATUS_STATE 5 3) with net.devRx := [1] }; let s := setLocked 0 true s; let s := admitAll 23 0x40003000 0x40003FFF (((s.set F.ACC_FMC_HI_VALID 1).set F.ACC_FMC_LO_FIRST 0x100).set F.ACC_FMC_HI_LAST 0x200); s
    let s1 : State := (let u := devRxDone 1 s; (writeParts regPut (fabricMaster s 0x123) 0 (accParts u 0x040003000000 4 false) ([1, 2, 3, 4]) u).2)
    let i : BitVec 12 := 0
    let id : Nat := 1
    let k : Pkt := { pkt0 with hdr := { hdr0 with kind := 0, flow := 0, len := 4 }, payload := [1, 2, 3, 4] }
    let bs : List Byte := []
    let cause : Nat := 1
    let h : Header := k.hdr;
    let u : State := devRxDone id s;
    let mid : Nat := fabricMaster s h.src.toNat;
    let written : AccRes → Prop := fun (res : AccRes) ↦
      writeParts regPut mid 0 (accParts u h.addr.toNat k.payload.length false) k.payload u = (res, s1);
    let direct : Prop := h.ord = false ∨ s.held = [];
    s.upsets = [] ∧
      devRxAt s i.toNat = some (id, k) ∧ kindOf h = Kind.put ∧ direct ∧ (written (AccRes.data bs) ∨ written (AccRes.refused cause)) := by
  repeat' refine And.intro ?_ ?_
  all_goals first
    | decide +kernel
    | exact Or.inl (Prod.ext (by decide +kernel) (by dsimp only; congr <;> decide +kernel))

set_option maxRecDepth 20000 in
theorem witness_remote_accesses_deep_2 :
    let s : State := let s := routed (withPkt { pkt0 with hdr := { hdr0 with kind := 1, flow := 0, len := 4 }, payload := [1, 2, 3, 4] } (portAt 0 5)); let s := { (s.set F.CLU_STATUS_STATE 5 3) with net.devRx := [1] }; let s := setLocked 0 true s; let s := admitAll 23 0x40003000 0x40003FFF (((s.set F.ACC_FMC_HI_VALID 1).set F.ACC_FMC_LO_FIRST 0x100).set F.ACC_FMC_HI_LAST 0x200); s
    let s1 : State := (let u := devRxDone 1 s; (writeParts regPut (fabricMaster s 0x123) 0 (accParts u 0x040003000000 4 false) ([1, 2, 3, 4]) u).2)
    let i : BitVec 12 := 0
    let id : Nat := 1
    let k : Pkt := { pkt0 with hdr := { hdr0 with kind := 1, flow := 0, len := 4 }, payload := [1, 2, 3, 4] }
    let bs : List Byte := []
    let h : Header := k.hdr;
    let u : State := devRxDone id s;
    let mid : Nat := fabricMaster s h.src.toNat;
    let written : AccRes → Prop := fun (res : AccRes) ↦
      writeParts regPut mid 0 (accParts u h.addr.toNat k.payload.length false) k.payload u = (res, s1);
    let direct : Prop := h.ord = false ∨ s.held = [];
    s.upsets = [] ∧ devRxAt s i.toNat = some (id, k) ∧ kindOf h = Kind.putAck ∧ direct ∧ written (AccRes.data bs) := by
  repeat' refine And.intro ?_ ?_
  all_goals first
    | decide +kernel
    | rfl

set_option maxRecDepth 20000 in
theorem witness_remote_accesses_deep_3 :
    let s : State := let s := routed (withPkt { pkt0 with hdr := { hdr0 with kind := 2, flow := 0, len := 8 }, payload := (toBytes 8 (0x040003000000 + 4 * 2 ^ 48)) } (portAt 0 5)); let s := { (s.set F.CLU_STATUS_STATE 5 3) with net.devRx := [1] }; let s := setLocked 0 true s; let s := admitAll 23 0x40003000 0x40003FFF (((s.set F.ACC_FMC_HI_VALID 1).set F.ACC_FMC_LO_FIRST 0x100).set F.ACC_FMC_HI_LAST 0x200); s
    let s1 : State := (let u := devRxDone 1 s; (readParts regBytes (fabricMaster u 0x123) 0 (accParts u 0x040003000000 4 false) u).2)
    let i : BitVec 12 := 0
    let id : Nat := 1
    let k : Pkt := { pkt0 with hdr := { hdr0 with kind := 2, flow := 0, len := 8 }, payload := (toBytes 8 (0x040003000000 + 4 * 2 ^ 48)) }
    let bs : List Byte := [0, 0, 0, 0]
    let h : Header := k.hdr;
    let u : State := devRxDone id s;
    let w : Nat := ofBytes k.payload;
    let rlen : Nat := fieldOf w 48 13;
    let read : AccRes → Prop := fun (res : AccRes) ↦
      readParts regBytes (fabricMaster u h.src.toNat) 0 (accParts u h.addr.toNat rlen false) u = (res, s1);
    s.upsets = [] ∧
      devRxAt s i.toNat = some (id, k) ∧ kindOf h = Kind.get ∧ k.payload.length = 8 ∧ 0 < rlen ∧ rlen ≤ 4096 ∧ read (AccRes.data bs) := by
  repeat' refine And.intro ?_ ?_
  all_goals first
    | decide +kernel
    | rfl

theorem witness_remote_accesses_deep_4 :
    let s : State := let s := routed (withPkt { pkt0 with hdr := { hdr0 with kind := 1, flow := 0, len := 4 }, payload := [1, 2, 3, 4] } (portAt 0 5)); let s := { (s.set F.CLU_STATUS_STATE 5 3) with net.devRx := [1] }; let s := setLocked 0 true s; let s := s; s
    let s1 : State := (let u := devRxDone 1 s; (writeParts regPut (fabricMaster s 0x123) 0 (accParts u 0x040003000000 4 false) ([1, 2, 3, 4]) u).2)
    let i : BitVec 12 := 0
    let id : Nat := 1
    let k : Pkt := { pkt0 with hdr := { hdr0 with kind := 1, flow := 0, len := 4 }, payload := [1, 2, 3, 4] }
    let cause : Nat := 1
    let h : Header := k.hdr;
    let u : State := devRxDone id s;
    let mid : Nat := fabricMaster s h.src.toNat;
    let written : AccRes → Prop := fun (res : AccRes) ↦
      writeParts regPut mid 0 (accParts u h.addr.toNat k.payload.length false) k.payload u = (res, s1);
    let direct : Prop := h.ord = false ∨ s.held = [];
    s.upsets = [] ∧ devRxAt s i.toNat = some (id, k) ∧ kindOf h = Kind.putAck ∧ direct ∧ written (AccRes.refused cause) := by
  repeat' refine And.intro ?_ ?_
  all_goals first
    | decide +kernel
    | rfl

theorem witness_remote_accesses_deep_5 :
    let s : State := let s := routed (withPkt { pkt0 with hdr := { hdr0 with kind := 2, flow := 0, len := 8 }, payload := (toBytes 8 (0x040003000000 + 4 * 2 ^ 48)) } (portAt 0 5)); let s := { (s.set F.CLU_STATUS_STATE 5 3) with net.devRx := [1] }; let s := setLocked 0 true s; let s := s; s
    let s1 : State := (let u := devRxDone 1 s; (readParts regBytes (fabricMaster u 0x123) 0 (accParts u 0x040003000000 4 false) u).2)
    let i : BitVec 12 := 0
    let id : Nat := 1
    let k : Pkt := { pkt0 with hdr := { hdr0 with kind := 2, flow := 0, len := 8 }, payload := (toBytes 8 (0x040003000000 + 4 * 2 ^ 48)) }
    let cause : Nat := 1
    let h : Header := k.hdr;
    let u : State := devRxDone id s;
    let w : Nat := ofBytes k.payload;
    let rlen : Nat := fieldOf w 48 13;
    let read : AccRes → Prop := fun (res : AccRes) ↦
      readParts regBytes (fabricMaster u h.src.toNat) 0 (accParts u h.addr.toNat rlen false) u = (res, s1);
    s.upsets = [] ∧
      devRxAt s i.toNat = some (id, k) ∧ kindOf h = Kind.get ∧ k.payload.length = 8 ∧ 0 < rlen ∧ rlen ≤ 4096 ∧ read (AccRes.refused cause) := by
  repeat' refine And.intro ?_ ?_
  all_goals first
    | decide +kernel
    | rfl

set_option maxRecDepth 20000 in
theorem witness_remote_accesses_deep_6 :
    let s : State := let s := routed (withPkt { pkt0 with hdr := { hdr0 with kind := 3, flow := 196608, len := 16 }, payload := (words [0x3F800000, 0, 0x40000000, 1]) } (portAt 0 5)); let s := { (s.set F.CLU_STATUS_STATE 5 3) with net.devRx := [1] }; let s := setLocked 0 true s; let s := admitAll 23 0x40003000 0x40003FFF (((s.set F.ACC_FMC_HI_VALID 1).set F.ACC_FMC_LO_FIRST 0x100).set F.ACC_FMC_HI_LAST 0x200); s.setClu 3 { k0 with xfers := [⟨9, 2, 0, 0x123, 1, [⟨7, 0, 4, 0⟩], []⟩], queues := [0, 1, 2, 3].map fun q => if q = 2 then { IssueQ.empty with mops := [{ mop0 with copy := (mopW 0x12 0 77 (opdF 0x8000 0 0 1 4 ++ opdW 64 1 1 4)).map (BitVec.ofNat 32) }] } else IssueQ.empty }
    let s1 : State := (moveWrites 3 0 (partWrites 3 { mop0 with copy := (mopW 0x12 0 77 (opdF 0x8000 0 0 1 4 ++ opdW 64 1 1 4)).map (BitVec.ofNat 32) } (recvParts 3 { mop0 with copy := (mopW 0x12 0 77 (opdF 0x8000 0 0 1 4 ++ opdW 64 1 1 4)).map (BitVec.ofNat 32) } ⟨7, 0, 4, 0⟩) (words [0x3F800000, 0, 0x40000000, 1])) s).2
    let i : BitVec 12 := 0
    let id : Nat := 1
    let k : Pkt := { pkt0 with hdr := { hdr0 with kind := 3, flow := 196608, len := 16 }, payload := (words [0x3F800000, 0, 0x40000000, 1]) }
    let bs : List Byte := []
    let c : Nat := 3
    let x : Xfer := ⟨9, 2, 0, 0x123, 1, [⟨7, 0, 4, 0⟩], []⟩
    let r : RemoteReq := ⟨7, 0, 4, 0⟩
    let m : Mop := { mop0 with copy := (mopW 0x12 0 77 (opdF 0x8000 0 0 1 4 ++ opdW 64 1 1 4)).map (BitVec.ofNat 32) }
    let h : Header := k.hdr;
    s.upsets = [] ∧
      devRxAt s i.toNat = some (id, k) ∧
        kindOf h = Kind.getResp ∧
          awaited true h s = some (c, x, r) ∧
            (s.clu c).mopOf x.q x.seq = some m ∧
              k.bad = false ∧
                wholeRows (opdOf m.copy 0) (opdOf m.copy 1) = false ∧
                  k.payload.length = List.foldl (fun (n : Nat) (p : WirePart) ↦ n + p.nw) 0 (recvParts c m r) ∧
                    moveWrites c (opdOf m.copy 1).hint (partWrites c m (recvParts c m r) k.payload) s = (AccRes.data bs, s1) := by
  repeat' refine And.intro ?_ ?_
  all_goals rfl

theorem witness_gates_and_samples :
    (let s : State := { (((State.reset.set F.GATE_STATUS_LEN 0 0).wr R.GATE_ENT 25600 0 0).wr R.GATE_ENT 0x20000 0 1) with fabTime := 65536 * 50, net.samples := ⟨[0x8000000000000005, 9], 0⟩, net.gates := [(0, ⟨0, 100, 3000, List.replicate 9 none, false⟩)] }
     let p : PortId := 0
     let x : Nat := 0x8000000000000005
     let rest : List Nat := [9]
     let g : GateSt := s.gate ↑p;
     let len : Nat := s.get F.GATE_STATUS_LEN ↑p;
     Regs.wf s.regs = true ∧
       s.upsets = [] ∧
         (len = 0 ∨ s.nowNs < g.began + gateInterval s (↑p) g.entry) ∧
           (s.armed (CommitGroup.gate p) = false ∨ s.nowNs < g.takeover) ∧ s.net.samples.items = x :: rest) ∧
    (let s : State := { (((State.reset.set F.GATE_STATUS_LEN 2 0).wr R.GATE_ENT 25600 0 0).wr R.GATE_ENT 0x20000 0 1) with fabTime := 65536 * 100000, net.samples := ⟨[0x8000000000000005, 9], 0⟩, net.gates := [(0, ⟨0, 100, 3000, List.replicate 9 none, false⟩)] }
     let p : PortId := 0
     let g : GateSt := s.gate ↑p;
     let len : Nat := s.get F.GATE_STATUS_LEN ↑p;
     Regs.wf s.regs = true ∧ s.upsets = [] ∧ len ≠ 0 ∧ g.began + gateInterval s (↑p) g.entry ≤ s.nowNs ∧ g.refusedSince = List.replicate 9 none) ∧
    (let s : State := let s := (State.reset.set F.GATE_STATUS_LEN 2 0).setPending (.gate 0) true; { s with fabTime := 65536 * 100000, shadow := [(R.GATE_ENT.addr 0 0, BitVec.ofNat 32 (0 * 512)), (R.GATE_ENT.addr 0 2, BitVec.ofNat 32 (8 * 512))], net.gates := [(0, ⟨1, 100, 3000, List.replicate 9 none, false⟩)] }
     let p : PortId := 0
     let g : GateSt := s.gate ↑p;
     let interval : Nat → Nat := fun (e : Nat) ↦ fieldOf (s.rdShadow R.GATE_ENT (↑p) e) 9 23;
     Regs.wf s.regs = true ∧
       s.upsets = [] ∧ s.armed (CommitGroup.gate p) = true ∧ g.takeover ≤ s.nowNs ∧ ∀ (e : Nat), e < 256 → interval e = 0 ∨ 8 ≤ interval e) ∧
    (let s : State := let s := (State.reset.set F.GATE_STATUS_LEN 2 0).setPending (.gate 0) true; { s with fabTime := 65536 * 100000, shadow := [(R.GATE_ENT.addr 0 0, BitVec.ofNat 32 (5 * 512)), (R.GATE_ENT.addr 0 2, BitVec.ofNat 32 (8 * 512))], net.gates := [(0, ⟨1, 100, 3000, List.replicate 9 none, false⟩)] }
     let p : PortId := 0
     let g : GateSt := s.gate ↑p;
     let interval : Nat → Nat := fun (e : Nat) ↦ fieldOf (s.rdShadow R.GATE_ENT (↑p) e) 9 23;
     Regs.wf s.regs = true ∧
       s.upsets = [] ∧ s.armed (CommitGroup.gate p) = true ∧ g.takeover ≤ s.nowNs ∧ ∃ (e : Nat), e < 256 ∧ 0 < interval e ∧ interval e < 8) := by
  refine ⟨?_, ?_, ?_, ?_⟩ <;> decide +kernel

theorem witness_frames_out_1 :
    (let s : State := let s := creds 0 (withPkt pkt0 (portAt 0 5)); let s := s.setQueue 0 2 [⟨1, false, 0, 0, false⟩]; s
     let p : PortId := 0
     let c : ClassId := 2
     let e : QEnt := ⟨1, false, 0, 0, false⟩
     let rest : List QEnt := []
     let k : Pkt := pkt0
     let ptr : Nat := (choose (let s := creds 0 (withPkt pkt0 (portAt 0 5)); let s := s.setQueue 0 2 [⟨1, false, 0, 0, false⟩]; s) 0).2.1
     let n : Nat := ((choose (let s := creds 0 (withPkt pkt0 (portAt 0 5)); let s := s.setQueue 0 2 [⟨1, false, 0, 0, false⟩]; s) 0).1).getD 0
     let d : List Nat := (choose (let s := creds 0 (withPkt pkt0 (portAt 0 5)); let s := s.setQueue 0 2 [⟨1, false, 0, 0, false⟩]; s) 0).2.2
     let l : LinkSt := s.link ↑p;
     let ready : Prop :=
       portState s ↑p = 5 ∧
         l.tx = none ∧
           l.replayFrom = none ∧
             portFenced s ↑p = false ∧
               ∀ (y : Nat),
                 y < 9 →
                   (s.get F.PORT_TXCRED_PEER (↑p) y = 0 → s.queue (↑p) y = []) ∧
                     (mayStart s p y = true → eligible s p y = true) ∧
                       Option.map (fun (x : QEnt × Pkt) ↦ rankFenced s x.snd.coll) (headOf s (↑p) y) ≠ some true;
     Regs.wf s.regs = true ∧
       rising none s.net.egress = true ∧
         ready ∧
           choose s p = (some n, ptr, d) ∧
             n < 9 ∧ s.queue (↑p) n = e :: rest ∧ s.pkt e.pkt = some k ∧ s.queue ↑p ↑c = e :: rest ∧ l.tx = none ∧ portFenced s ↑p = false) ∧
    (let s : State := let s := creds 0 (withPkt pkt0 (portAt 0 5)); let s := s.setQueue 0 2 [⟨1, false, 0, 0, false⟩]; s.setLink 0 { LinkSt.initial with ptr := 2, deficit := List.replicate 8 5000 }
     let p : PortId := 0
     let l : LinkSt := s.link ↑p;
     Regs.wf s.regs = true ∧
       rising none s.net.egress = true ∧ eligible s p 8 = false ∧ eligible s p l.ptr = true ∧ headSize s (↑p) l.ptr ≤ l.deficit.getD l.ptr 0) ∧
    (let s : State := let s := creds 0 (withPkt pkt0 (portAt 0 5)); let s := s.setQueue 0 2 [⟨1, false, 0, 0, false⟩]; s.setLink 0 { LinkSt.initial with tx := some ⟨1, 2, 5, true⟩ }
     let p : PortId := 0
     let k : Pkt := pkt0
     let x : TxCur := ⟨1, 2, 5, true⟩
     let l : LinkSt := s.link ↑p;
     Regs.wf s.regs = true ∧
       rising none s.net.egress = true ∧
         (portState s ↑p ≠ 5 ∨ l.tx ≠ none ∨ l.replayFrom ≠ none ∨ portFenced s ↑p = true) ∧
           portState s ↑p = 5 ∧ l.tx = some x ∧ s.pkt x.pkt = some k ∧ k.complete = true ∧ k.bad = false ∧ l.replayFrom = none ∧ s.upsets = []) ∧
    (let s : State := let s := creds 0 (withPkt pkt0 (portAt 0 5)); let s := s.setQueue 0 2 [⟨1, false, 0, 0, false⟩]; s.set F.PORT_STATUS_STATE 6 0
     let p : PortId := 0
     let c : ClassId := 2
     let e : QEnt := ⟨1, false, 0, 0, false⟩
     let rest : List QEnt := []
     Regs.wf s.regs = true ∧ rising none s.net.egress = true ∧ s.queue ↑p ↑c = e :: rest ∧ portState s ↑p ≠ 5) ∧
    (let s : State := let s := creds 0 (withPkt p8 (portAt 0 5)); let s := s.setQueue 0 8 [⟨1, false, 0, 0, false⟩]; s
     let p : PortId := 0
     Regs.wf s.regs = true ∧ rising none s.net.egress = true ∧ eligible s p 8 = true) ∧
    (let s : State := let s := creds 0 (withPkt p8 (portAt 0 5)); let s := s.setQueue 0 8 [⟨1, false, 0, 0, false⟩]; s.set F.PORT_STATUS_STATE 0 0
     let p : PortId := 0
     let e : QEnt := ⟨1, false, 0, 0, false⟩
     let rest : List QEnt := []
     let k : Pkt := p8
     Regs.wf s.regs = true ∧
       rising none s.net.egress = true ∧ portFenced s ↑p = true ∧ s.queue (↑p) 8 = e :: rest ∧ s.pkt e.pkt = some k ∧ k.mcast = false) := by
  refine ⟨?_, ?_, ?_, ?_, ?_, ?_⟩ <;> decide +kernel

theorem witness_frames_out_2 :
    let s : State := let s := creds 0 (withPkt pkt0 (portAt 0 5)); let s := s.setQueue 0 3 [⟨1, false, 0, 0, false⟩]; s.setQueue 0 3 []
    let p : PortId := 0
    let ptr : Nat := (choose (let s := creds 0 (withPkt pkt0 (portAt 0 5)); let s := s.setQueue 0 3 [⟨1, false, 0, 0, false⟩]; s.setQueue 0 3 []) 0).2.1
    let d : List Nat := (choose (let s := creds 0 (withPkt pkt0 (portAt 0 5)); let s := s.setQueue 0 3 [⟨1, false, 0, 0, false⟩]; s.setQueue 0 3 []) 0).2.2
    let l : LinkSt := s.link ↑p;
    let ready : Prop :=
      portState s ↑p = 5 ∧
        l.tx = none ∧
          l.replayFrom = none ∧
            portFenced s ↑p = false ∧
              ∀ (y : Nat),
                y < 9 →
                  (s.get F.PORT_TXCRED_PEER (↑p) y = 0 → s.queue (↑p) y = []) ∧
                    (mayStart s p y = true → eligible s p y = true) ∧
                      Option.map (fun (x : QEnt × Pkt) ↦ rankFenced s x.snd.coll) (headOf s (↑p) y) ≠ some true;
    Regs.wf s.regs = true ∧ rising none s.net.egress = true ∧ ready ∧ choose s p = (none, ptr, d) := by
  decide +kernel

theorem witness_pools_1 :
    (let s : State := let s := pool5 2 fs0 [] [] []; s
     let k : PoolId := 5
     let n : BitVec 16 := 1
     let buf : BitVec 24 := 1
     let f : FreeStore := fs0
     let p : PoolSt := s.pool ↑k;
     let lets : Prop := (poolState s ↑k = 2 ∨ poolState s ↑k = 3) ∧ poolStalled s ↑k = false ∧ p.stores = [f];
     Regs.wf s.regs = true ∧
       s.upsets = [] ∧
         s.pools.length = 17 ∧
           k ≠ 0 ∧
             lets ∧
               0 < n.toNat ∧
                 n.toNat ≤ f.count ∧
                   p.waiting = [] ∧
                     buf.toNat < poolSize s ↑k ∧
                       lookup p.words buf.toNat = none ∧
                         s.flag F.POOL_CTL_EN ↑k = true ∧ p.inUse = false ∧ s.flag F.BUF_AUDIT_STATUS_SWEEP = false) ∧
    (let s : State := let s := pool5 2 fs0 [] [] []; s
     let k : PoolId := 5
     let n : BitVec 16 := 500
     let f : FreeStore := fs0
     let p : PoolSt := s.pool ↑k;
     let lets : Prop := (poolState s ↑k = 2 ∨ poolState s ↑k = 3) ∧ poolStalled s ↑k = false ∧ p.stores = [f];
     Regs.wf s.regs = true ∧ s.upsets = [] ∧ s.pools.length = 17 ∧ k ≠ 0 ∧ lets ∧ f.count < n.toNat) ∧
    (let s : State := let s := pool5 2 fs0 [] [⟨0x65, 2, 1, 3⟩, ⟨0x66, 1, 1, 3⟩] []; s
     let k : PoolId := 5
     let f : FreeStore := fs0
     let q : PoolWait := ⟨0x65, 2, 1, 3⟩
     let rest : List PoolWait := [⟨0x66, 1, 1, 3⟩]
     let p : PoolSt := s.pool ↑k;
     let lets : Prop := (poolState s ↑k = 2 ∨ poolState s ↑k = 3) ∧ poolStalled s ↑k = false ∧ p.stores = [f];
     Regs.wf s.regs = true ∧ s.upsets = [] ∧ s.pools.length = 17 ∧ k ≠ 0 ∧ lets ∧ p.waiting = q :: rest ∧ q.n ≤ f.count) ∧
    (let s : State := let s := pool5 2 fs0 [(1, ⟨true, 1, 112, false, 3⟩)] [] [(112, 1)]; s
     let k : PoolId := 5
     let owner : MasterId := 112
     let add : BitVec 10 := 1
     let buf : BitVec 24 := 1
     let f : FreeStore := fs0
     let w : BufWord := ⟨true, 1, 112, false, 3⟩
     let p : PoolSt := s.pool ↑k;
     Regs.wf s.regs = true ∧
       s.upsets = [] ∧
         s.pools.length = 17 ∧
           k ≠ 0 ∧
             buf.toNat < poolSize s ↑k ∧
               lookup p.words buf.toNat = some w ∧
                 w.alloc = true ∧
                   w.owner = BitVec.toNat owner ∧
                     w.sharers + add.toNat ≤ 1023 ∧
                       w.sharers ≤ 1 ∧ p.stores = [f] ∧ f.retired = false ∧ s.flag F.POOL_CTL_EN ↑k = true ∧ p.inUse = true ∧ w.age = false) ∧
    (let s : State := let s := pool5 2 fs0 [(1, ⟨true, 2, 112, true, 3⟩)] [] [(112, 1)]; s
     let k : PoolId := 5
     let buf : BitVec 24 := 1
     let w : BufWord := ⟨true, 2, 112, true, 3⟩
     let p : PoolSt := s.pool ↑k;
     Regs.wf s.regs = true ∧
       s.upsets = [] ∧
         s.pools.length = 17 ∧
           k ≠ 0 ∧
             buf.toNat < poolSize s ↑k ∧
               lookup p.words buf.toNat = some w ∧ w.alloc = true ∧ 1 < w.sharers ∧ w.age = true ∧ s.flag F.BUF_AUDIT_RECLAIM = false) ∧
    (let s : State := let s := pool5 2 fs0 [(1, ⟨true, 1023, 112, false, 3⟩)] [] [(112, 1)]; s
     let k : PoolId := 5
     let owner : MasterId := 112
     let add : BitVec 10 := 1
     let buf : BitVec 24 := 1
     let w : BufWord := ⟨true, 1023, 112, false, 3⟩
     let p : PoolSt := s.pool ↑k;
     Regs.wf s.regs = true ∧
       s.upsets = [] ∧
         s.pools.length = 17 ∧
           k ≠ 0 ∧
             buf.toNat < poolSize s ↑k ∧
               lookup p.words buf.toNat = some w ∧ w.alloc = true ∧ w.owner = BitVec.toNat owner ∧ 1023 < w.sharers + add.toNat) := by
  refine ⟨?_, ?_, ?_, ?_, ?_, ?_⟩ <;> decide +kernel

theorem witness_pools_2 :
    (let s : State := let s := pool5 2 fs0 [(1, ⟨true, 2, 113, false, 3⟩)] [] [(113, 1)]; s
     let k : PoolId := 5
     let owner : MasterId := 112
     let buf : BitVec 24 := 1
     let w : BufWord := ⟨true, 2, 113, false, 3⟩
     let p : PoolSt := s.pool ↑k;
     Regs.wf s.regs = true ∧
       s.upsets = [] ∧
         s.pools.length = 17 ∧
           k ≠ 0 ∧ buf.toNat < poolSize s ↑k ∧ lookup p.words buf.toNat = some w ∧ w.alloc = true ∧ w.owner ≠ BitVec.toNat owner) ∧
    (let s : State := let s := pool5 2 fs0 [(1, ⟨true, 1, 113, true, 3⟩)] [] [(113, 1)]; s
     let k : PoolId := 5
     let owner : MasterId := 112
     let buf : BitVec 24 := 1
     let w : BufWord := ⟨true, 1, 113, true, 3⟩
     let p : PoolSt := s.pool ↑k;
     Regs.wf s.regs = true ∧
       s.upsets = [] ∧
         s.pools.length = 17 ∧
           k ≠ 0 ∧ buf.toNat < poolSize s ↑k ∧ lookup p.words buf.toNat = some w ∧ w.alloc = true ∧ w.sharers ≤ 1 ∧ w.owner ≠ BitVec.toNat owner) ∧
    (let s : State := let s := pool5 2 fs0 [] [] []; s
     let k : PoolId := 5
     let buf : BitVec 24 := 200
     Regs.wf s.regs = true ∧ s.upsets = [] ∧ s.pools.length = 17 ∧ k ≠ 0 ∧ poolSize s ↑k ≤ buf.toNat) ∧
    (let s : State := let s := pool5 2 fs0 [(1, ⟨false, 0, 0x70, false, 3⟩)] [] []; s
     let k : PoolId := 5
     let buf : BitVec 24 := 1
     let w : BufWord := ⟨false, 0, 0x70, false, 3⟩
     let p : PoolSt := s.pool ↑k;
     Regs.wf s.regs = true ∧
       s.upsets = [] ∧ s.pools.length = 17 ∧ k ≠ 0 ∧ buf.toNat < poolSize s ↑k ∧ lookup p.words buf.toNat = some w ∧ w.alloc = false) ∧
    (let s : State := let s := pool5 0 fs0 [] [] []; (s.set F.POOL_CTL_EN 0 5)
     let k : PoolId := 5
     Regs.wf s.regs = true ∧ s.upsets = [] ∧ s.pools.length = 17 ∧ k ≠ 0 ∧ s.flag F.POOL_CTL_EN ↑k = false ∧ poolConfigOk s ↑k = false) ∧
    (let s : State := let s := pool5 0 fs0 [] [] []; (s.set F.POOL_CTL_EN 0 5).set F.POOL_CBASE_LO_ADDR 0x10000 5
     let k : PoolId := 5
     Regs.wf s.regs = true ∧ s.upsets = [] ∧ s.pools.length = 17 ∧ k ≠ 0 ∧ s.flag F.POOL_CTL_EN ↑k = false ∧ poolConfigOk s ↑k = true) := by
  refine ⟨?_, ?_, ?_, ?_, ?_, ?_⟩ <;> decide +kernel

theorem witness_pools_3 :
    (let s : State := let s := pool5 1 fs0 [] [] []; s
     let k : PoolId := 5
     Regs.wf s.regs = true ∧
       s.upsets = [] ∧
         s.pools.length = 17 ∧
           k ≠ 0 ∧
             poolState s ↑k = 1 ∧
               0 < poolSize s ↑k ∧
                 s.get F.POOL_WARN_LEVEL ↑k ≤ poolSize s ↑k ∧
                   s.get F.POOL_PLOW_LEVEL ↑k ≤ poolSize s ↑k ∧ s.get F.POOL_PALL_LEVEL ↑k ≤ poolSize s ↑k) ∧
    (let s : State := let s := pool5 1 fs0 [] [] []; { s.set F.BUF_AUDIT_EN 1 with ticks := 1000000000 }
     let k : PoolId := 5
     Regs.wf s.regs = true ∧
       s.upsets = [] ∧
         s.pools.length = 17 ∧
           k ≠ 0 ∧
             s.flag F.BUF_AUDIT_EN = true ∧
               s.flag F.BUF_AUDIT_STATUS_SWEEP = false ∧
                 s.passedUs ((lookup s.timers auditTimer).getD 0) (1000 * max 1 (s.get F.BUF_AUDIT_PERIOD)) = true ∧
                   ∀ (j : Nat), j < 17 → (s.pool j).words = []) ∧
    (let s : State := let s := pool5 1 fs0 [] [] []; s.set F.BUF_AUDIT_STATUS_SWEEP 1
     let k : PoolId := 5
     Regs.wf s.regs = true ∧
       s.upsets = [] ∧ s.pools.length = 17 ∧ k ≠ 0 ∧ s.flag F.BUF_AUDIT_STATUS_SWEEP = true ∧ ∀ (j : Nat), j < 17 → poolState s j < 2) := by
  refine ⟨?_, ?_, ?_⟩ <;> decide +kernel

theorem witness_fabric_time_1 :
    (let s : State := let s := ((tide 0).set F.TIME_FREQ_ADJ 5).set F.CAL_BOOT_STAGE 0; { (s.set F.TIME_PPSOUT_EN 1) with tm := { s.tm with slew := 0, ppsDue := false, ppsOut := false } }
     Regs.wf s.regs = true ∧ bootStage s = 0 ∧ s.clus = [] ∧ s.posts = []) ∧
    (let s : State := let s := ((tide 0).set F.TIME_FREQ_ADJ 5).set F.CAL_BOOT_STAGE 0; { (s.set F.TIME_PPSOUT_EN 1) with tm := { s.tm with slew := 0, ppsDue := false, ppsOut := false } }
     let st : Nat := tideState s;
     Regs.wf s.regs = true ∧ st < 2 ∧ s.get F.TIME_CTL_SRC ≠ 2 ∧ s.flag F.TIME_STATUS_REFOK = false ∧ s.tm.ppsDue = false ∧ s.tm.ppsOut = false) ∧
    (let s : State := let s := ((tide 0).set F.TIME_FREQ_ADJ 5).set F.CAL_BOOT_STAGE 0; { (s.set F.TIME_PPSOUT_EN 1) with tm := { s.tm with slew := 1000000000, ppsDue := true, ppsOut := false } }
     Regs.wf s.regs = true ∧ s.flag F.TIME_PPSOUT_EN = true ∧ s.tm.ppsDue = true) ∧
    (let s : State := let s := ((tide 0).set F.TIME_FREQ_ADJ 5).set F.CAL_BOOT_STAGE 5; { (s.set F.TIME_PPSOUT_EN 1) with tm := { s.tm with slew := 0, ppsDue := false, ppsOut := true } }
     let quiet : Prop :=
       s.posts = [] ∧
         s.upsets = [] ∧
           ∀ (e : Nat × Clu), e ∈ s.clus → e.snd.recov = none ∧ ∀ (q : Mop), q ∈ (e.snd.queues.getD 3 IssueQ.empty).mops → q.blocked = false;
     Regs.wf s.regs = true ∧ bootStage s ≠ 0 ∧ quiet ∧ s.tm.ppsOut = true ∧ s.passedUs s.tm.ppsRose (max 1 (s.get F.TIME_PPSOUT_WIDTH)) = true) ∧
    (let s : State := let s := ((tide 2).set F.TIME_FREQ_ADJ 5).set F.CAL_BOOT_STAGE 0; { (s.set F.TIME_PPSOUT_EN 1) with tm := { s.tm with slew := 0, ppsDue := false, ppsOut := false } }
     let st : Nat := tideState s;
     let us : Nat := max 1 (s.get F.TIME_INT_HOLDCNT) * 2 ^ s.get F.TIME_INT_SYNCINT;
     Regs.wf s.regs = true ∧ (st = 2 ∨ st = 3) ∧ s.passedUs s.tm.syncAt us = true) ∧
    (let s : State := let s := (tide 0).setPending .time true; { (s.set F.TIME_STATUS_REFOK 1).set F.TIME_STATUS_PPSOK 1 with shadow := [(R.TIME_SET_LO.addr 0 0, BitVec.ofNat 32 500), (R.TIME_SET_HI.addr 0 0, 5#32), (R.TIME_SETCTL.addr 0 0, 1#32)] }
     let st : Nat := tideState s;
     Regs.wf s.regs = true ∧
       s.armed CommitGroup.time = true ∧
         st < 2 ∧ armedMode s = 1 ∧ s.flag F.TIME_STATUS_REFOK = true ∧ s.flag F.TIME_STATUS_PPSOK = true ∧ s.passedUs s.tm.ppsAt 1100000 = true) := by
  refine ⟨?_, ?_, ?_, ?_, ?_, ?_⟩ <;> decide +kernel

theorem witness_fabric_time_2 :
    (let s : State := let s := (tide 0).setPending .time true; { (s.set F.TIME_STATUS_REFOK 1).set F.TIME_STATUS_PPSOK 1 with shadow := [(R.TIME_SET_LO.addr 0 0, BitVec.ofNat 32 500), (R.TIME_SET_HI.addr 0 0, 5#32), (R.TIME_SETCTL.addr 0 0, 2#32)] }
     let lo : Nat := s.rdShadow R.TIME_SET_LO 0 0;
     let amount : Int := signed 32 lo * 65536;
     let st : Nat := tideState s;
     Regs.wf s.regs = true ∧ s.armed CommitGroup.time = true ∧ st < 2 ∧ armedMode s = 2 ∧ 0 ≤ ↑s.fabTime + amount) ∧
    (let s : State := let s := (tide 0).setPending .time true; { (s.set F.TIME_STATUS_REFOK 1).set F.TIME_STATUS_PPSOK 1 with shadow := [(R.TIME_SET_LO.addr 0 0, BitVec.ofNat 32 500), (R.TIME_SET_HI.addr 0 0, 5#32), (R.TIME_SETCTL.addr 0 0, 3#32)] }
     let lo : Nat := s.rdShadow R.TIME_SET_LO 0 0;
     let amount : Int := signed 32 lo * 65536;
     let st : Nat := tideState s;
     Regs.wf s.regs = true ∧ s.armed CommitGroup.time = true ∧ st < 2 ∧ armedMode s = 3 ∧ 0 ≤ ↑s.fabTime + amount) ∧
    (let s : State := let s := (tide 2).setPending .time true; { (s.set F.TIME_STATUS_REFOK 1).set F.TIME_STATUS_PPSOK 1 with shadow := [(R.TIME_SET_LO.addr 0 0, BitVec.ofNat 32 500), (R.TIME_SET_HI.addr 0 0, 5#32), (R.TIME_SETCTL.addr 0 0, 1#32)] }
     let st : Nat := tideState s;
     Regs.wf s.regs = true ∧ s.armed CommitGroup.time = true ∧ 2 ≤ st ∧ armedMode s = 1) ∧
    (let s : State := let s := (tide 2).setPending .time true; { (s.set F.TIME_STATUS_REFOK 1).set F.TIME_STATUS_PPSOK 1 with shadow := [(R.TIME_SET_LO.addr 0 0, BitVec.ofNat 32 500), (R.TIME_SET_HI.addr 0 0, 5#32), (R.TIME_SETCTL.addr 0 0, 2#32)] }
     let st : Nat := tideState s;
     Regs.wf s.regs = true ∧ s.armed CommitGroup.time = true ∧ 2 ≤ st ∧ armedMode s = 2) ∧
    (let s : State := let s := (tide 2).setPending .time true; { (s.set F.TIME_STATUS_REFOK 1).set F.TIME_STATUS_PPSOK 1 with shadow := [(R.TIME_SET_LO.addr 0 0, BitVec.ofNat 32 500), (R.TIME_SET_HI.addr 0 0, 5#32), (R.TIME_SETCTL.addr 0 0, 3#32)] }
     let st : Nat := tideState s;
     Regs.wf s.regs = true ∧ s.armed CommitGroup.time = true ∧ 2 ≤ st ∧ armedMode s = 3) := by
  refine ⟨?_, ?_, ?_, ?_, ?_⟩ <;> decide +kernel

theorem witness_tide_messages_1 :
    (let s : State := let s := withPkt { pkt0 with hdr := { hdr0 with kind := 0x10, cls := 8 }, payload := tidePayload 1 7 3 9 (2^79+5) 153, cells := [], src := .port 3, rxAt := 1311768467750117376 } ((((tide 0).set F.TIME_CTL_UPPORT 3).set F.TIME_CTL_DOMAIN 7).set F.FWD_SELF_ID 0x4D); let s := ((s.wr R.TIME_TIDEPORT 0 0 8).set F.PORT_STATUS_STATE 5 3); let s := { s with net.devRx := [1] }; s
     let a : Nat := 0;
     let b : Nat := 0;
     Regs.wf s.regs = true ∧ s.upsets = [] ∧ a < 2 ^ 79 ∧ b < 2 ^ 79) ∧
    (let s : State := let s := withPkt { pkt0 with hdr := { hdr0 with kind := 0x10, cls := 8 }, payload := tidePayload 1 7 3 9 (2^79+5) 153, cells := [], src := .port 3, rxAt := 1311768467750117376 } ((((tide 0).set F.TIME_CTL_UPPORT 3).set F.TIME_CTL_DOMAIN 7).set F.FWD_SELF_ID 0x4D); let s := ((s.wr R.TIME_TIDEPORT 0 0 8).set F.PORT_STATUS_STATE 5 3); let s := { s with net.devRx := [1] }; s
     let st : Nat := tideState s;
     Regs.wf s.regs = true ∧ s.upsets = [] ∧ st = 0) ∧
    (let s : State := let s := withPkt { pkt0 with hdr := { hdr0 with kind := 0x10, cls := 8 }, payload := tidePayload 1 6 3 9 5 153, cells := [], src := .port 3, rxAt := 1311768467750117376 } ((((tide 0).set F.TIME_CTL_UPPORT 3).set F.TIME_CTL_DOMAIN 7).set F.FWD_SELF_ID 0x4D); let s := ((s.wr R.TIME_TIDEPORT 0 0 8).set F.PORT_STATUS_STATE 5 3); let s := { s with net.devRx := [1] }; s
     let i : BitVec 8 := 0
     let id : Nat := 1
     let k : Pkt := { pkt0 with hdr := { hdr0 with kind := 0x10, cls := 8 }, payload := tidePayload 1 6 3 9 5 153, cells := [], src := .port 3, rxAt := 1311768467750117376 }
     Regs.wf s.regs = true ∧
       s.upsets = [] ∧
         devRxAt s i.toNat = some (id, k) ∧
           kindOf k.hdr = Kind.tide ∧ k.cells = [] ∧ k.coll = none ∧ tideField k 0 8 = 1 ∧ tideField k 8 8 ≠ s.get F.TIME_CTL_DOMAIN) ∧
    (let s : State := let s := withPkt { pkt0 with hdr := { hdr0 with kind := 0x10, cls := 8 }, payload := tidePayload 1 7 3 9 (2^79+5) 153, cells := [], src := .port 3, rxAt := 1311768467750117376 } ((((tide 1).set F.TIME_CTL_UPPORT 3).set F.TIME_CTL_DOMAIN 7).set F.FWD_SELF_ID 0x4D); let s := ((s.wr R.TIME_TIDEPORT 0 0 8).set F.PORT_STATUS_STATE 5 3); let s := { s with net.devRx := [1] }; s
     let p : Nat := 3
     let st : Nat := tideState s;
     Regs.wf s.regs = true ∧
       s.upsets = [] ∧
         st = 1 ∧
           s.passedUs s.tm.sendAt (2 ^ s.get F.TIME_INT_SYNCINT) = true ∧
             List.filter (fun (q : Nat) ↦ tidePort s q && portState s q == 5) (List.range 512) = [p]) ∧
    (let s : State := let s := withPkt { pkt0 with hdr := { hdr0 with kind := 0x10, cls := 8 }, payload := tidePayload 2 7 3 9 5 153, cells := [], src := .port 3, rxAt := 1311768467750117376 } ((((tide 1).set F.TIME_CTL_UPPORT 3).set F.TIME_CTL_DOMAIN 7).set F.FWD_SELF_ID 0x4D); let s := ((s.wr R.TIME_TIDEPORT 0 0 8).set F.PORT_STATUS_STATE 5 3); let s := { s with net.devRx := [1] }; s
     let i : BitVec 8 := 0
     let id : Nat := 1
     let k : Pkt := { pkt0 with hdr := { hdr0 with kind := 0x10, cls := 8 }, payload := tidePayload 2 7 3 9 5 153, cells := [], src := .port 3, rxAt := 1311768467750117376 }
     let st : Nat := tideState s;
     Regs.wf s.regs = true ∧
       s.upsets = [] ∧
         devRxAt s i.toNat = some (id, k) ∧
           kindOf k.hdr = Kind.tide ∧
             k.cells = [] ∧ k.coll = none ∧ tideField k 0 8 = 2 ∧ tidePort s k.port = true ∧ tideField k 8 8 = s.get F.TIME_CTL_DOMAIN ∧ st = 1) ∧
    (let s : State := let s := withPkt { pkt0 with hdr := { hdr0 with kind := 0x10, cls := 8 }, payload := tidePayload 1 7 3 9 (2^79+5) 153, cells := [], src := .port 3, rxAt := 1311768467750117376 } ((((tide 2).set F.TIME_CTL_UPPORT 3).set F.TIME_CTL_DOMAIN 7).set F.FWD_SELF_ID 0x4D); let s := ((s.wr R.TIME_TIDEPORT 0 0 8).set F.PORT_STATUS_STATE 5 3); let s := { s with net.devRx := [1] }; s
     let i : BitVec 8 := 0
     let id : Nat := 1
     let k : Pkt := { pkt0 with hdr := { hdr0 with kind := 0x10, cls := 8 }, payload := tidePayload 1 7 3 9 (2^79+5) 153, cells := [], src := .port 3, rxAt := 1311768467750117376 }
     let st : Nat := tideState s;
     Regs.wf s.regs = true ∧
       s.upsets = [] ∧
         devRxAt s i.toNat = some (id, k) ∧
           kindOf k.hdr = Kind.tide ∧
             k.cells = [] ∧
               k.coll = none ∧
                 tideField k 0 8 = 1 ∧
                   2 ≤ st ∧
                     st ≤ 3 ∧
                       k.port = s.get F.TIME_CTL_UPPORT ∧
                         tideField k 8 8 = s.get F.TIME_CTL_DOMAIN ∧ tideField k 144 20 ≠ s.get F.FWD_SELF_ID ∧ tideField k 16 4 ≤ 14) := by
  refine ⟨?_, ?_, ?_, ?_, ?_, ?_⟩ <;> decide +kernel

theorem witness_tide_messages_2 :
    let s : State := let s := withPkt { pkt0 with hdr := { hdr0 with kind := 0x10, cls := 8 }, payload := tidePayload 3 7 3 9 (2^78+2100*65536) 153, cells := [], src := .port 3, rxAt := 1311768467750117376 } ((((tide 2).set F.TIME_CTL_UPPORT 3).set F.TIME_CTL_DOMAIN 7).set F.FWD_SELF_ID 0x4D); let s := ((s.wr R.TIME_TIDEPORT 0 0 8).set F.PORT_STATUS_STATE 5 3); let s := { s with net.devRx := [1] }; { s with tm := { s.tm with paired := some (302231454903657359212544, 302231454903657365766144), dreqSent := some 302231454903657424748544, dreqSeq := 9 } }
    let i : BitVec 8 := 0
    let id : Nat := 1
    let k : Pkt := { pkt0 with hdr := { hdr0 with kind := 0x10, cls := 8 }, payload := tidePayload 3 7 3 9 (2^78+2100*65536) 153, cells := [], src := .port 3, rxAt := 1311768467750117376 }
    let t1 : Nat := 302231454903657359212544
    let t2 : Nat := 302231454903657365766144
    let t3 : Nat := 302231454903657424748544
    let st : Nat := tideState s;
    let back : Int := timeDiff t2 t1;
    let forth : Int := timeDiff (tideField k 64 80) t3;
    let off : Int := wrapTime (wrapTime (back - forth) / 2 - signed 32 (s.get F.TIME_ASYM_ASYM) * 256);
    Regs.wf s.regs = true ∧
      s.upsets = [] ∧
        devRxAt s i.toNat = some (id, k) ∧
          kindOf k.hdr = Kind.tide ∧
            k.cells = [] ∧
              k.coll = none ∧
                tideField k 0 8 = 3 ∧
                  s.tm.paired = some (t1, t2) ∧
                    s.tm.dreqSent = some t3 ∧ st = 2 ∧ tideField k 32 32 = s.tm.dreqSeq % 2 ^ 32 ∧ -65536000 ≤ off ∧ off ≤ 65536000 := by
  decide +kernel

theorem witness_cue_engines_1 :
    (let s : State := let s := lateS (running 3); let s := (((s.set F.CUE_CTL_EN 1 3).set F.CUE_ENT_ACT_WORD 2306 3 0).set F.CUE_ENT_TIME_LO_WORD 100 3 0); let s := s.setClu 3 k0; let s := s.setCue 3 { s.cue 3 with predAt := 0 }; s
     let e : EngineId := 3
     let f : Nat := 0;
     Regs.wf s.regs = true ∧ s.upsets = [] ∧ f < 256 ∧ ↑e < 80 ∧ cluState s ↑e = 5 ∧ (s.clu ↑e).governor f = none ∧ (s.clu ↑e).flagWaits = []) ∧
    (let s : State := let s := lateS (running 3); let s := (((s.set F.CUE_CTL_EN 1 3).set F.CUE_ENT_ACT_WORD 2306 3 0).set F.CUE_ENT_TIME_LO_WORD 6000000 3 0); let s := s.setClu 3 k0; let s := s.setCue 3 { s.cue 3 with predAt := 0 }; s
     let e : EngineId := 3
     let q : CueSt := s.cue ↑e;
     let time : Nat := cueTime s (↑e) q.idx q.rep;
     let due : Prop :=
       s.flag F.CUE_CTL_EN ↑e = true ∧
         s.flag F.CUE_STATUS_DONE ↑e = false ∧
           cueHas s (↑e) q.idx = true ∧ q.once = [] ∧ q.broken = false ∧ (↑e < 100 ∨ berthAwake s (↑e - 100) = true);
     Regs.wf s.regs = true ∧ s.upsets = [] ∧ due ∧ s.nowNs < time) ∧
    (let s : State := let s := lateS (running 3); let s := (((s.set F.CUE_CTL_EN 1 103).set F.CUE_ENT_ACT_WORD 3 103 0).set F.CUE_ENT_TIME_LO_WORD 100 103 0); let s := s.setClu 3 k0; let s := s.setCue 103 { s.cue 103 with predAt := 0 }; s
     let e : EngineId := 103
     let q : CueSt := s.cue ↑e;
     Regs.wf s.regs = true ∧ s.upsets = [] ∧ 100 ≤ ↑e ∧ q.once = [] ∧ berthAwake s (↑e - 100) = false) ∧
    (let s : State := let s := lateS (running 3); let s := (((s.set F.CUE_CTL_EN 1 3).set F.CUE_ENT_ACT_WORD 2306 3 0).set F.CUE_ENT_TIME_LO_WORD 100 3 0); let s := s.setClu 3 k0; let s := s.setCue 3 { s.cue 3 with predAt := 65536 * 200 }; s.set F.CUE_CTL_LATESKIP 1 3
     let e : EngineId := 3
     let q : CueSt := s.cue ↑e;
     let time : Nat := cueTime s (↑e) q.idx q.rep;
     let due : Prop :=
       s.flag F.CUE_CTL_EN ↑e = true ∧
         s.flag F.CUE_STATUS_DONE ↑e = false ∧
           cueHas s (↑e) q.idx = true ∧ q.once = [] ∧ q.broken = false ∧ (↑e < 100 ∨ berthAwake s (↑e - 100) = true);
     Regs.wf s.regs = true ∧ s.upsets = [] ∧ due ∧ time ≤ s.nowNs ∧ time * 65536 < q.predAt ∧ s.flag F.CUE_CTL_LATESKIP ↑e = true) ∧
    (let s : State := let s := lateS (running 3); let s := (((s.set F.CUE_CTL_EN 1 3).set F.CUE_ENT_ACT_WORD 0 3 0).set F.CUE_ENT_TIME_LO_WORD 0 3 0); let s := s.setClu 3 k0; let s := s.setCue 3 { s.cue 3 with once := [⟨9, 3, 5, false⟩] }; (s.set F.CUE_CTL_EN 0 3).set F.CLU_STATUS_STATE 0 7
     let e : EngineId := 3
     let o : CueRelease := ⟨9, 3, 5, false⟩
     let q : CueSt := s.cue ↑e;
     let gone : State := s.setCue ↑e { idx := q.idx, rep := q.rep, predAt := q.predAt, once := [], broken := q.broken };
     Regs.wf s.regs = true ∧
       s.upsets = [] ∧
         s.flag F.CUE_CTL_EN ↑e = false ∧
           q.once = [o] ∧ o.time ≤ s.nowNs ∧ o.late = false ∧ cluPresent gone o.cluster = true ∧ (↑e < 80 ∨ 100 ≤ ↑e)) ∧
    (let s : State := let s := lateS (running 3); let s := (((s.set F.CUE_CTL_EN 1 3).set F.CUE_ENT_ACT_WORD 0 3 0).set F.CUE_ENT_TIME_LO_WORD 0 3 0); let s := s.setClu 3 k0; let s := s.setCue 3 { s.cue 3 with once := [⟨9, 7, 5, false⟩] }; (s.set F.CUE_CTL_EN 0 3).set F.CLU_STATUS_STATE 0 7
     let e : EngineId := 3
     let o : CueRelease := ⟨9, 7, 5, false⟩
     let q : CueSt := s.cue ↑e;
     let gone : State := s.setCue ↑e { idx := q.idx, rep := q.rep, predAt := q.predAt, once := [], broken := q.broken };
     Regs.wf s.regs = true ∧
       s.upsets = [] ∧ s.flag F.CUE_CTL_EN ↑e = false ∧ q.once = [o] ∧ o.time ≤ s.nowNs ∧ o.late = false ∧ cluPresent gone o.cluster = false) := by
  refine ⟨?_, ?_, ?_, ?_, ?_, ?_⟩ <;> decide +kernel

theorem witness_cue_engines_2 :
    (let s : State := let s := lateS (running 3); let s := (((s.set F.CUE_CTL_EN 1 3).set F.CUE_ENT_ACT_WORD 0 3 0).set F.CUE_ENT_TIME_LO_WORD 0 3 0); let s := s.setClu 3 k0; let s := s.setCue 3 { s.cue 3 with once := [⟨9000000, 7, 5, false⟩] }; (s.set F.CUE_CTL_EN 0 3).set F.CLU_STATUS_STATE 0 7
     let e : EngineId := 3
     let o : CueRelease := ⟨9000000, 7, 5, false⟩
     let q : CueSt := s.cue ↑e;
     Regs.wf s.regs = true ∧ s.upsets = [] ∧ s.flag F.CUE_CTL_EN ↑e = false ∧ q.once = [o] ∧ s.nowNs < o.time) ∧
    (let s : State := let s := lateS (running 3); let s := (((s.set F.CUE_CTL_EN 1 3).set F.CUE_ENT_ACT_WORD 0 3 0).set F.CUE_ENT_TIME_LO_WORD 0 3 0); let s := s.setClu 3 k0; let s := s.setCue 3 { s.cue 3 with predAt := 0 }; s.set F.CUE_CTL_EN 0 3
     let e : EngineId := 3
     let q : CueSt := s.cue ↑e;
     Regs.wf s.regs = true ∧ s.upsets = [] ∧ s.flag F.CUE_CTL_EN ↑e = false ∧ q.once = []) := by
  refine ⟨?_, ?_⟩ <;> decide +kernel

theorem witness_cue_engines_deep_1 :
    let s : State := let s := lateS (running 3); let s := (((s.set F.CUE_CTL_EN 1 3).set F.CUE_ENT_ACT_WORD 2306 3 0).set F.CUE_ENT_TIME_LO_WORD 100 3 0); let s := s.setClu 3 k0; let s := s.setCue 3 { s.cue 3 with predAt := 0 }; s
    let t : State := (let q := s.cue 3; let time := cueTime s 3 q.idx q.rep; let moved := cueWrap 3 (cueAt 3 (q.idx + 1) q.rep (s.setCue 3 { q with predAt := time * 65536 })); cueAction 3 (cueAct moved 3 q.idx) (moved.bump F.CUE_CNT_FIRED_COUNT 1 3)).2
    let e : EngineId := 3
    let q : CueSt := s.cue ↑e;
    let time : Nat := cueTime s (↑e) q.idx q.rep;
    let due : Prop :=
      s.flag F.CUE_CTL_EN ↑e = true ∧
        s.flag F.CUE_STATUS_DONE ↑e = false ∧
          cueHas s (↑e) q.idx = true ∧ q.once = [] ∧ q.broken = false ∧ (↑e < 100 ∨ berthAwake s (↑e - 100) = true);
    let moved : State :=
      cueWrap (↑e)
        (cueAt (↑e) (q.idx + 1) q.rep (s.setCue ↑e { idx := q.idx, rep := q.rep, predAt := time * 65536, once := q.once, broken := q.broken }));
    let fired : State := moved.bump F.CUE_CNT_FIRED_COUNT 1 ↑e;
    let act : Nat := cueAct moved (↑e) q.idx;
    Regs.wf s.regs = true ∧
      s.upsets = [] ∧
        due ∧
          time ≤ s.nowNs ∧ q.predAt ≤ time * 65536 ∧ cueAction (↑e) act fired = (true, t) ∧ (↑e < 80 ∨ 100 ≤ ↑e) ∧ s.flag F.CUE_CTL_EN ↑e = true := by
  repeat' refine And.intro ?_ ?_
  all_goals first
    | decide +kernel
    | rfl

theorem witness_cue_engines_deep_2 :
    let s : State := let s := lateS (running 3); let s := (((s.set F.CUE_CTL_EN 1 84).set F.CUE_ENT_ACT_WORD 4 84 0).set F.CUE_ENT_TIME_LO_WORD 100 84 0); let s := s.setClu 3 k0; let s := s.setCue 84 { s.cue 84 with predAt := 0 }; s
    let t : State := (let q := s.cue 84; let time := cueTime s 84 q.idx q.rep; let moved := cueWrap 84 (cueAt 84 (q.idx + 1) q.rep (s.setCue 84 { q with predAt := time * 65536 })); cueAction 84 (cueAct moved 84 q.idx) (moved.bump F.CUE_CNT_FIRED_COUNT 1 84)).2
    let e : EngineId := 84
    let q : CueSt := s.cue ↑e;
    let time : Nat := cueTime s (↑e) q.idx q.rep;
    let due : Prop :=
      s.flag F.CUE_CTL_EN ↑e = true ∧
        s.flag F.CUE_STATUS_DONE ↑e = false ∧
          cueHas s (↑e) q.idx = true ∧ q.once = [] ∧ q.broken = false ∧ (↑e < 100 ∨ berthAwake s (↑e - 100) = true);
    let moved : State :=
      cueWrap (↑e)
        (cueAt (↑e) (q.idx + 1) q.rep (s.setCue ↑e { idx := q.idx, rep := q.rep, predAt := time * 65536, once := q.once, broken := q.broken }));
    let fired : State := moved.bump F.CUE_CNT_FIRED_COUNT 1 ↑e;
    let act : Nat := cueAct moved (↑e) q.idx;
    Regs.wf s.regs = true ∧ s.upsets = [] ∧ due ∧ time ≤ s.nowNs ∧ q.predAt ≤ time * 65536 ∧ cueAction (↑e) act fired = (false, t) := by
  repeat' refine And.intro ?_ ?_
  all_goals first
    | decide +kernel
    | rfl

theorem witness_group_lifecycle_1 :
    (let s : State := let s := admitAll 23 0x40003000 0x40003FFF ((running 3).set F.HIF_RCFG_CQLOG2 4 0 5); let s := (s.set F.COLL_STATE_STATE 0 5).set F.COLL_STEP_RUN 9 5; let s := s.memWrite (scratchKey (slotOf s 3)) (words [134238213, 131074, 0, 81, 1124073523, 0, 0, 0, 0, 0, 0, 0, 0, 0, 0, 0, 12583424, 0, 4096, 0, 12583425, 0, 4096, 0]); let s := { s with ticks := 1000000000 }; let s := withDesc [5, 5, 50331648, 1024, 96] s; s
     let s1 : State := (memRead 0 0x040003000000 64 0 s).2
     let s2 : State := (memRead 0 0x040003000000 96 0 s1).2
     let r : RingId := 5
     let i : BitVec 8 := 0
     let d : Desc := descOf [5, 5, 50331648, 1024, 96]
     let x : CtxId := 5
     let g : Coll := s.coll ↑x;
     Regs.wf s.regs = true ∧
       Regs.wf s2.regs = true ∧
         s.upsets = [] ∧
           descReady s r i 5 d ∧
             d.word 1 % 4096 = ↑x ∧ collState s ↑x = 0 ∧ 64 ≤ d.word 4 ∧ (collState s ↑x ≠ 2 ∨ g.hdr.cued = false) ∧ collState s ↑x ≠ 3) ∧
    (let s : State := let s := admitAll 23 0x40003000 0x40003FFF ((running 3).set F.HIF_RCFG_CQLOG2 4 0 5); let s := (s.set F.COLL_STATE_STATE 0 5).set F.COLL_STEP_RUN 9 5; let s := s.memWrite (scratchKey (slotOf s 3)) (words [134238213, 131074, 0, 81, 1124073523, 0, 0, 0, 0, 0, 0, 0, 0, 0, 0, 0, 12583424, 0, 4096, 0, 12583425, 0, 4096, 0]); let s := { s with ticks := 1000000000 }; let s := withDesc [5, 5, 50331648, 1024, 20] s; s
     let s1 : State := (memRead 0 0x040003000000 64 0 s).2
     let s2 : State := (memRead 0 0x040003000000 96 0 s1).2
     let r : RingId := 5
     let i : BitVec 8 := 0
     let d : Desc := descOf [5, 5, 50331648, 1024, 20]
     Regs.wf s.regs = true ∧ Regs.wf s2.regs = true ∧ s.upsets = [] ∧ descReady s r i 5 d ∧ d.word 4 < 64) ∧
    (let s : State := let s := admitAll 23 0x40003000 0x40003FFF ((running 3).set F.HIF_RCFG_CQLOG2 4 0 5); let s := (s.set F.COLL_STATE_STATE 2 5).set F.COLL_STEP_RUN 9 5; let s := s.memWrite (scratchKey (slotOf s 3)) (words [134238213, 131074, 0, 81, 1124073523, 0, 0, 0, 0, 0, 0, 0, 0, 0, 0, 0, 12583424, 0, 4096, 0, 12583425, 0, 4096, 0]); let s := { s with ticks := 1000000000 }; let s := withDesc [6, 5] s; s.setColl 5 { Coll.initial with header := ([134238213, 131074, 0, 81, 1124073523, 0, 0, 0, 0, 0, 0, 0, 0, 0, 0, 0].map (BitVec.ofNat 32)), entries := [([12583424, 0, 4096, 0].map (BitVec.ofNat 32)), ([12583425, 0, 4096, 0].map (BitVec.ofNat 32))] }
     let s1 : State := (memRead 0 0x040003000000 64 0 s).2
     let s2 : State := (memRead 0 0x040003000000 96 0 s1).2
     let r : RingId := 5
     let i : BitVec 8 := 0
     let d : Desc := descOf [6, 5]
     let x : CtxId := 5
     let g : Coll := s.coll ↑x;
     Regs.wf s.regs = true ∧
       Regs.wf s2.regs = true ∧
         s.upsets = [] ∧
           descReady s r i 6 d ∧ d.word 1 % 4096 = ↑x ∧ collState s ↑x = 2 ∧ g.early = [] ∧ g.hdr.cued = true ∧ (s.job g.hdr.job).past = []) ∧
    (let s : State := let s := admitAll 23 0x40003000 0x40003FFF ((running 3).set F.HIF_RCFG_CQLOG2 4 0 5); let s := (s.set F.COLL_STATE_STATE 3 5).set F.COLL_STEP_RUN 9 5; let s := s.memWrite (scratchKey (slotOf s 3)) (words [134238213, 131074, 0, 81, 1124073523, 0, 0, 0, 0, 0, 0, 0, 0, 0, 0, 0, 12583424, 0, 4096, 0, 12583425, 0, 4096, 0]); let s := { s with ticks := 1000000000 }; let s := withDesc [6, 5] s; s.setColl 5 { Coll.initial with header := ([134238213, 131074, 0, 81, 1124073523, 0, 0, 0, 0, 0, 0, 0, 0, 0, 0, 0].map (BitVec.ofNat 32)), entries := [([12583424, 0, 4096, 0].map (BitVec.ofNat 32)), ([12583425, 0, 4096, 0].map (BitVec.ofNat 32))] }
     let s1 : State := (memRead 0 0x040003000000 64 0 s).2
     let s2 : State := (memRead 0 0x040003000000 96 0 s1).2
     let r : RingId := 5
     let i : BitVec 8 := 0
     let d : Desc := descOf [6, 5]
     let x : CtxId := 5
     Regs.wf s.regs = true ∧
       Regs.wf s2.regs = true ∧ s.upsets = [] ∧ descReady s r i 6 d ∧ d.word 1 % 4096 = ↑x ∧ collState s ↑x = 3 ∧ collQuiet s x) ∧
    (let s : State := let s := admitAll 23 0x40003000 0x40003FFF ((running 3).set F.HIF_RCFG_CQLOG2 4 0 5); let s := (s.set F.COLL_STATE_STATE 0 5).set F.COLL_STEP_RUN 9 5; let s := s.memWrite (scratchKey (slotOf s 3)) (words [134238213, 131074, 0, 81, 1124073523, 0, 0, 0, 0, 0, 0, 0, 0, 0, 0, 0, 12583424, 0, 4096, 0, 12583425, 0, 4096, 0]); let s := { s with ticks := 1000000000 }; let s := withDesc [6, 5] s; s.setColl 5 { Coll.initial with header := ([134238213, 131074, 0, 81, 1124073523, 0, 0, 0, 0, 0, 0, 0, 0, 0, 0, 0].map (BitVec.ofNat 32)), entries := [([12583424, 0, 4096, 0].map (BitVec.ofNat 32)), ([12583425, 0, 4096, 0].map (BitVec.ofNat 32))] }
     let s1 : State := (memRead 0 0x040003000000 64 0 s).2
     let s2 : State := (memRead 0 0x040003000000 96 0 s1).2
     let r : RingId := 5
     let i : BitVec 8 := 0
     let d : Desc := descOf [6, 5]
     let x : CtxId := 5
     Regs.wf s.regs = true ∧ Regs.wf s2.regs = true ∧ s.upsets = [] ∧ descReady s r i 6 d ∧ d.word 1 % 4096 = ↑x ∧ collState s ↑x = 0) ∧
    (let s : State := let s := admitAll 23 0x40003000 0x40003FFF ((running 3).set F.HIF_RCFG_CQLOG2 4 0 5); let s := (s.set F.COLL_STATE_STATE 6 5).set F.COLL_STEP_RUN 9 5; let s := s.memWrite (scratchKey (slotOf s 3)) (words [134238213, 131074, 0, 81, 1124073523, 0, 0, 0, 0, 0, 0, 0, 0, 0, 0, 0, 12583424, 0, 4096, 0, 12583425, 0, 4096, 0]); let s := { s with ticks := 1000000000 }; let s := withDesc [6, 5] s; s.setColl 5 { Coll.initial with header := ([134238213, 131074, 0, 81, 1124073523, 0, 0, 0, 0, 0, 0, 0, 0, 0, 0, 0].map (BitVec.ofNat 32)), entries := [([12583424, 0, 4096, 0].map (BitVec.ofNat 32)), ([12583425, 0, 4096, 0].map (BitVec.ofNat 32))], destroy := some ⟨5, 7⟩ }
     let s1 : State := (memRead 0 0x040003000000 64 0 s).2
     let s2 : State := (memRead 0 0x040003000000 96 0 s1).2
     let x : CtxId := 5
     let cmd : CmdRef := ⟨5, 7⟩
     let g : Coll := s.coll ↑x;
     Regs.wf s.regs = true ∧ Regs.wf s2.regs = true ∧ s.upsets = [] ∧ collState s ↑x = 6 ∧ g.destroy = some cmd) := by
  refine ⟨?_, ?_, ?_, ?_, ?_, ?_⟩ <;> decide +kernel

theorem witness_group_lifecycle_2 :
    (let s : State := let s := admitAll 23 0x40003000 0x40003FFF ((running 3).set F.HIF_RCFG_CQLOG2 4 0 5); let s := (s.set F.COLL_STATE_STATE 3 5).set F.COLL_STEP_RUN 9 5; let s := s.memWrite (scratchKey (slotOf s 3)) (words [134238213, 131074, 0, 81, 1124073523, 0, 0, 0, 0, 0, 0, 0, 0, 0, 0, 0, 12583424, 0, 4096, 0, 12583425, 0, 4096, 0]); let s := { s with ticks := 1000000000 }; let s := s; s.setColl 5 { Coll.initial with header := ([134238213, 131074, 0, 81, 1124073523, 0, 100, 0, 0, 0, 0, 0, 0, 0, 0, 0].map (BitVec.ofNat 32)), entries := [([12583424, 0, 4096, 0].map (BitVec.ofNat 32)), ([12583425, 0, 4096, 0].map (BitVec.ofNat 32))], replicas := 3 }
     let s1 : State := (memRead 0 0x040003000000 64 0 s).2
     let s2 : State := (memRead 0 0x040003000000 96 0 s1).2
     let x : CtxId := 5
     let g : Coll := s.coll ↑x;
     Regs.wf s.regs = true ∧
       Regs.wf s2.regs = true ∧ s.upsets = [] ∧ collState s ↑x = 3 ∧ collQuiet s x ∧ g.hdr.tmo ≠ 0 ∧ s.passedUs g.since g.hdr.tmo = true) ∧
    (let s : State := let s := admitAll 23 0x40003000 0x40003FFF ((running 3).set F.HIF_RCFG_CQLOG2 4 0 5); let s := (s.set F.COLL_STATE_STATE 4 5).set F.COLL_STEP_RUN 9 5; let s := s.memWrite (scratchKey (slotOf s 3)) (words [134238213, 131074, 0, 81, 1124073523, 0, 0, 0, 0, 0, 0, 0, 0, 0, 0, 0, 12583424, 0, 4096, 0, 12583425, 0, 4096, 0]); let s := { s with ticks := 1000000000 }; let s := s; s.setColl 5 { Coll.initial with header := ([134238213, 131074, 0, 81, 1124073523, 0, 0, 0, 0, 0, 0, 0, 0, 0, 0, 0].map (BitVec.ofNat 32)), entries := [([12583424, 0, 4096, 0].map (BitVec.ofNat 32)), ([12583425, 0, 4096, 0].map (BitVec.ofNat 32))] }
     let s1 : State := (memRead 0 0x040003000000 64 0 s).2
     let s2 : State := (memRead 0 0x040003000000 96 0 s1).2
     let x : CtxId := 5
     let g : Coll := s.coll ↑x;
     Regs.wf s.regs = true ∧
       Regs.wf s2.regs = true ∧ s.upsets = [] ∧ collState s ↑x = 4 ∧ g.replicas = 0 ∧ g.fenced = [] ∧ g.destroy = none ∧ g.early = []) ∧
    (let s : State := let s := admitAll 23 0x40003000 0x40003FFF ((running 3).set F.HIF_RCFG_CQLOG2 4 0 5); let s := (s.set F.COLL_STATE_STATE 4 5).set F.COLL_STEP_RUN 9 5; let s := s.memWrite (scratchKey (slotOf s 3)) (words [134238213, 131074, 0, 81, 1124073523, 0, 0, 0, 0, 0, 0, 0, 0, 0, 0, 0, 12583424, 0, 4096, 0, 12583425, 0, 4096, 0]); let s := { s with ticks := 1000000000 }; let s := s; s.setColl 5 { Coll.initial with header := ([134238213, 131074, 0, 81, 1124073523, 0, 100, 0, 0, 0, 0, 0, 0, 0, 0, 0].map (BitVec.ofNat 32)), entries := [([12583424, 0, 4096, 0].map (BitVec.ofNat 32)), ([12583425, 0, 4096, 0].map (BitVec.ofNat 32))], replicas := 3 }
     let s1 : State := (memRead 0 0x040003000000 64 0 s).2
     let s2 : State := (memRead 0 0x040003000000 96 0 s1).2
     let x : CtxId := 5
     let g : Coll := s.coll ↑x;
     Regs.wf s.regs = true ∧ Regs.wf s2.regs = true ∧ s.upsets = [] ∧ collState s ↑x = 4 ∧ g.replicas ≠ 0) ∧
    (let s : State := let s := admitAll 23 0x40003000 0x40003FFF ((running 3).set F.HIF_RCFG_CQLOG2 4 0 5); let s := (s.set F.COLL_STATE_STATE 5 5).set F.COLL_STEP_RUN 9 5; let s := s.memWrite (scratchKey (slotOf s 3)) (words [134238213, 131074, 0, 81, 1124073523, 0, 0, 0, 0, 0, 0, 0, 0, 0, 0, 0, 12583424, 0, 4096, 0, 12583425, 0, 4096, 0]); let s := { s with ticks := 1000000000 }; let s := s; s.setColl 5 { Coll.initial with header := ([134238213, 131074, 0, 81, 1124073523, 0, 0, 0, 0, 0, 0, 0, 0, 0, 0, 0].map (BitVec.ofNat 32)), entries := [([12583424, 0, 4096, 0].map (BitVec.ofNat 32)), ([12583425, 0, 4096, 0].map (BitVec.ofNat 32))], outcome := some (3, 77, [1]) }
     let s1 : State := (memRead 0 0x040003000000 64 0 s).2
     let s2 : State := (memRead 0 0x040003000000 96 0 s1).2
     let x : CtxId := 5
     let status : Nat := 3
     let detail : Nat := 77
     let ranks : List Nat := [1]
     let g : Coll := s.coll ↑x;
     Regs.wf s.regs = true ∧
       Regs.wf s2.regs = true ∧
         s.upsets = [] ∧
           collState s ↑x = 5 ∧
             g.outcome = some (status, detail, ranks) ∧ lookup s.net.injq g.owner = none ∧ g.destroy = none ∧ g.early = [] ∧ status < 256) := by
  refine ⟨?_, ?_, ?_, ?_⟩ <;> decide +kernel

set_option maxRecDepth 20000 in
theorem witness_group_lifecycle_deep_1 :
    let s : State := let s := admitAll 23 0x40003000 0x40003FFF ((running 3).set F.HIF_RCFG_CQLOG2 4 0 5); let s := (s.set F.COLL_STATE_STATE 1 5).set F.COLL_STEP_RUN 9 5; let s := s.memWrite (scratchKey (slotOf s 3)) (words [134238213, 131074, 0, 81, 1124073523, 0, 0, 0, 0, 0, 0, 0, 0, 0, 0, 0, 12583424, 0, 4096, 0, 12583425, 0, 4096, 0]); let s := { s with ticks := 1000000000 }; let s := s; s.setColl 5 { Coll.initial with create := some (⟨5, 7⟩, 0x040003000000, 96) }
    let s1 : State := (memRead 0 0x040003000000 64 0 s).2
    let s2 : State := (memRead 0 0x040003000000 96 0 s1).2
    let x : CtxId := 5
    let cmd : CmdRef := ⟨5, 7⟩
    let addr : Nat := 0x040003000000
    let len : Nat := 96
    let hb : List Byte := (words [134238213, 131074, 0, 81, 1124073523, 0, 0, 0, 0, 0, 0, 0, 0, 0, 0, 0])
    let bs : List Byte := (words [134238213, 131074, 0, 81, 1124073523, 0, 0, 0, 0, 0, 0, 0, 0, 0, 0, 0, 12583424, 0, 4096, 0, 12583425, 0, 4096, 0])
    let g : Coll := s.coll ↑x;
    let hw : List Word := wordsOf hb;
    let ws : List Word := wordsOf (List.drop 64 bs);
    let es : List (List Word) := List.map (fun (i : Nat) ↦ List.take 4 (List.drop (4 * i) ws)) (List.range (ws.length / 4));
    let read : Prop :=
      g.create = some (cmd, addr, len) ∧
        collState s ↑x = 1 ∧
          memRead 0 addr 64 0 s = (AccRes.data hb, s1) ∧
            len = 64 + 16 * fieldOf (BitVec.toNat (hw.getD 1 0)) 0 10 ∧ memRead 0 addr len 0 s1 = (AccRes.data bs, s2);
    Regs.wf s.regs = true ∧ Regs.wf s2.regs = true ∧ s.upsets = [] ∧ read ∧ groupRefusal s2 (↑x) hw es = 0 := by
  repeat' refine And.intro ?_ ?_
  all_goals rfl

set_option maxRecDepth 20000 in
theorem witness_group_lifecycle_deep_2 :
    let s : State := let s := admitAll 23 0x40003000 0x40003FFF ((running 3).set F.HIF_RCFG_CQLOG2 4 0 5); let s := (s.set F.COLL_STATE_STATE 1 5).set F.COLL_STEP_RUN 9 5; let s := s.memWrite (scratchKey (slotOf s 3)) (words [134238213, 131074, 3, 81, 1124073523, 0, 0, 0, 0, 0, 0, 0, 0, 0, 0, 0, 12583424, 0, 4096, 0, 12583425, 0, 4096, 0]); let s := { s with ticks := 1000000000 }; let s := s; s.setColl 5 { Coll.initial with create := some (⟨5, 7⟩, 0x040003000000, 96) }
    let s1 : State := (memRead 0 0x040003000000 64 0 s).2
    let s2 : State := (memRead 0 0x040003000000 96 0 s1).2
    let x : CtxId := 5
    let cmd : CmdRef := ⟨5, 7⟩
    let addr : Nat := 0x040003000000
    let len : Nat := 96
    let code : Nat := 4
    let hb : List Byte := (words [134238213, 131074, 3, 81, 1124073523, 0, 0, 0, 0, 0, 0, 0, 0, 0, 0, 0])
    let bs : List Byte := (words [134238213, 131074, 3, 81, 1124073523, 0, 0, 0, 0, 0, 0, 0, 0, 0, 0, 0, 12583424, 0, 4096, 0, 12583425, 0, 4096, 0])
    let g : Coll := s.coll ↑x;
    let hw : List Word := wordsOf hb;
    let ws : List Word := wordsOf (List.drop 64 bs);
    let es : List (List Word) := List.map (fun (i : Nat) ↦ List.take 4 (List.drop (4 * i) ws)) (List.range (ws.length / 4));
    let read : Prop :=
      g.create = some (cmd, addr, len) ∧
        collState s ↑x = 1 ∧
          memRead 0 addr 64 0 s = (AccRes.data hb, s1) ∧
            len = 64 + 16 * fieldOf (BitVec.toNat (hw.getD 1 0)) 0 10 ∧ memRead 0 addr len 0 s1 = (AccRes.data bs, s2);
    Regs.wf s.regs = true ∧ Regs.wf s2.regs = true ∧ s.upsets = [] ∧ read ∧ groupRefusal s2 (↑x) hw es = code ∧ code ≠ 0 := by
  repeat' refine And.intro ?_ ?_
  all_goals first
    | decide +kernel
    | rfl

theorem witness_collective_packets_1 :
    (let s : State := let s := withPkt ({ pkt0 with hdr := { hdr0 with kind := 8, cls := 3, ctx := 5, step := 9, addr := 0, src := 512 }, payload := (toBytes 16 17179869265 ++ List.replicate 16 1), cells := [] }) ((State.reset.set F.COLL_STATE_STATE 3 5).set F.COLL_STEP_RUN 9 5); let s := s.setColl 5 { Coll.initial with header := ([134217733, 65538, 4, 81, 1124073523, 0, 0, 0, 0, 0, 0, 0, 0, 0, 0, 0].map (BitVec.ofNat 32)), entries := [([12583424, 0, 4096, 0].map (BitVec.ofNat 32)), ([12583425, 0, 4096, 0].map (BitVec.ofNat 32))], inflight := [⟨1, none, 0, none, false, 0, false⟩] }; let s := { s with net.devRx := [1] }; s
     let i : BitVec 12 := 0
     let x : CtxId := 5
     let id : Nat := 1
     let k : Pkt := { pkt0 with hdr := { hdr0 with kind := 8, cls := 3, ctx := 5, step := 9, addr := 0, src := 512 }, payload := (toBytes 16 17179869265 ++ List.replicate 16 1), cells := [] }
     let g : Coll := s.coll ↑x;
     let h : GroupHdr := g.hdr;
     let run : Nat := s.get F.COLL_STEP_RUN ↑x;
     let here : Prop := devRxAt s i.toNat = some (id, k) ∧ k.hdr.ctx.toNat = ↑x ∧ collState s ↑x = 3;
     Regs.wf s.regs = true ∧
       s.upsets = [] ∧
         here ∧
           kindOf k.hdr = (Instr.contrib i, Kind.contrib).snd ∧
             k.hdr.cls.toNat = g.contribClass ∧
               k.hdr.step.toNat = run ∧
                 acceptFault g k = none ∧
                   mismatch h k.payload = 0 ∧ h.oper ≠ 5 ∧ g.flight (k.hdr.addr.toNat / h.dchunk g.express) = none ∧ g.room = false) ∧
    (let s : State := let s := withPkt ({ pkt0 with hdr := { hdr0 with kind := 8, cls := 5, ctx := 5, step := 9, addr := 0, src := 512 }, payload := (toBytes 16 17179869265 ++ List.replicate 16 1), cells := [] }) ((State.reset.set F.COLL_STATE_STATE 3 5).set F.COLL_STEP_RUN 9 5); let s := s.setColl 5 { Coll.initial with header := ([134217733, 65538, 4, 81, 1124073523, 0, 0, 0, 0, 0, 0, 0, 0, 0, 0, 0].map (BitVec.ofNat 32)), entries := [([12583424, 0, 4096, 0].map (BitVec.ofNat 32)), ([12583425, 0, 4096, 0].map (BitVec.ofNat 32))], inflight := [⟨1, none, 0, none, false, 0, false⟩] }; let s := { s with net.devRx := [1] }; s
     let i : BitVec 12 := 0
     let x : CtxId := 5
     let id : Nat := 1
     let k : Pkt := { pkt0 with hdr := { hdr0 with kind := 8, cls := 5, ctx := 5, step := 9, addr := 0, src := 512 }, payload := (toBytes 16 17179869265 ++ List.replicate 16 1), cells := [] }
     let g : Coll := s.coll ↑x;
     let here : Prop := devRxAt s i.toNat = some (id, k) ∧ k.hdr.ctx.toNat = ↑x ∧ collState s ↑x = 3;
     let plain : Prop := k.cells = [] ∧ k.coll = none ∧ k.owes = false;
     Regs.wf s.regs = true ∧ s.upsets = [] ∧ here ∧ kindOf k.hdr = (Instr.contrib i, Kind.contrib).snd ∧ k.hdr.cls.toNat ≠ g.contribClass ∧ plain) ∧
    (let s : State := let s := withPkt ({ pkt0 with hdr := { hdr0 with kind := 9, cls := 3, ctx := 5, step := 9, addr := 0, src := 512 }, payload := (toBytes 16 17179869265 ++ List.replicate 16 1), cells := [] }) ((State.reset.set F.COLL_STATE_STATE 3 5).set F.COLL_STEP_RUN 9 5); let s := s.setColl 5 { Coll.initial with header := ([134217733, 65538, 4, 81, 1124073523, 0, 0, 0, 0, 0, 0, 0, 0, 0, 0, 0].map (BitVec.ofNat 32)), entries := [([14680576, 0, 4096, 0].map (BitVec.ofNat 32)), ([12583425, 0, 4096, 0].map (BitVec.ofNat 32))], inflight := [⟨1, none, 0, none, false, 0, false⟩] }; let s := { s with net.devRx := [1] }; s
     let i : BitVec 12 := 0
     let x : CtxId := 5
     let id : Nat := 1
     let k : Pkt := { pkt0 with hdr := { hdr0 with kind := 9, cls := 3, ctx := 5, step := 9, addr := 0, src := 512 }, payload := (toBytes 16 17179869265 ++ List.replicate 16 1), cells := [] }
     let g : Coll := s.coll ↑x;
     let h : GroupHdr := g.hdr;
     let run : Nat := s.get F.COLL_STEP_RUN ↑x;
     let here : Prop := devRxAt s i.toNat = some (id, k) ∧ k.hdr.ctx.toNat = ↑x ∧ collState s ↑x = 3;
     Regs.wf s.regs = true ∧
       s.upsets = [] ∧
         here ∧
           kindOf k.hdr = (Instr.partial_ i, Kind.partial_).snd ∧
             k.hdr.cls.toNat = g.contribClass ∧
               k.hdr.step.toNat = run ∧
                 acceptFault g k = none ∧
                   mismatch h k.payload = 0 ∧ h.oper ≠ 5 ∧ g.flight (k.hdr.addr.toNat / h.dchunk g.express) = none ∧ g.room = false) ∧
    (let s : State := let s := withPkt ({ pkt0 with hdr := { hdr0 with kind := 9, cls := 5, ctx := 5, step := 9, addr := 0, src := 512 }, payload := (toBytes 16 17179869265 ++ List.replicate 16 1), cells := [] }) ((State.reset.set F.COLL_STATE_STATE 3 5).set F.COLL_STEP_RUN 9 5); let s := s.setColl 5 { Coll.initial with header := ([134217733, 65538, 4, 81, 1124073523, 0, 0, 0, 0, 0, 0, 0, 0, 0, 0, 0].map (BitVec.ofNat 32)), entries := [([14680576, 0, 4096, 0].map (BitVec.ofNat 32)), ([12583425, 0, 4096, 0].map (BitVec.ofNat 32))], inflight := [⟨1, none, 0, none, false, 0, false⟩] }; let s := { s with net.devRx := [1] }; s
     let i : BitVec 12 := 0
     let x : CtxId := 5
     let id : Nat := 1
     let k : Pkt := { pkt0 with hdr := { hdr0 with kind := 9, cls := 5, ctx := 5, step := 9, addr := 0, src := 512 }, payload := (toBytes 16 17179869265 ++ List.replicate 16 1), cells := [] }
     let g : Coll := s.coll ↑x;
     let here : Prop := devRxAt s i.toNat = some (id, k) ∧ k.hdr.ctx.toNat = ↑x ∧ collState s ↑x = 3;
     let plain : Prop := k.cells = [] ∧ k.coll = none ∧ k.owes = false;
     Regs.wf s.regs = true ∧
       s.upsets = [] ∧ here ∧ kindOf k.hdr = (Instr.partial_ i, Kind.partial_).snd ∧ k.hdr.cls.toNat ≠ g.contribClass ∧ plain) ∧
    (let s : State := let s := withPkt ({ pkt0 with hdr := { hdr0 with kind := 10, cls := 3, ctx := 5, step := 9, addr := 0, src := 512 }, payload := (toBytes 40 17179869265 ++ List.replicate 160 0), cells := [] }) ((State.reset.set F.COLL_STATE_STATE 3 5).set F.COLL_STEP_RUN 9 5); let s := s.setColl 5 { Coll.initial with header := ([150994949, 65538, 4, 81, 1124073523, 0, 0, 0, 0, 0, 0, 0, 0, 0, 0, 0].map (BitVec.ofNat 32)), entries := [([14680576, 0, 4096, 0].map (BitVec.ofNat 32)), ([12583425, 0, 4096, 0].map (BitVec.ofNat 32))], inflight := [⟨1, none, 0, none, false, 0, false⟩] }; let s := { s with net.devRx := [1] }; s
     let i : BitVec 12 := 0
     let x : CtxId := 5
     let id : Nat := 1
     let k : Pkt := { pkt0 with hdr := { hdr0 with kind := 10, cls := 3, ctx := 5, step := 9, addr := 0, src := 512 }, payload := (toBytes 40 17179869265 ++ List.replicate 160 0), cells := [] }
     let g : Coll := s.coll ↑x;
     let h : GroupHdr := g.hdr;
     let run : Nat := s.get F.COLL_STEP_RUN ↑x;
     let here : Prop := devRxAt s i.toNat = some (id, k) ∧ k.hdr.ctx.toNat = ↑x ∧ collState s ↑x = 3;
     Regs.wf s.regs = true ∧
       s.upsets = [] ∧
         here ∧
           kindOf k.hdr = (Instr.xpartial i, Kind.xpartial).snd ∧
             k.hdr.cls.toNat = g.contribClass ∧
               k.hdr.step.toNat = run ∧
                 acceptFault g k = none ∧
                   mismatch h k.payload = 0 ∧ h.oper ≠ 5 ∧ g.flight (k.hdr.addr.toNat / h.dchunk g.express) = none ∧ g.room = false) ∧
    (let s : State := let s := withPkt ({ pkt0 with hdr := { hdr0 with kind := 10, cls := 5, ctx := 5, step := 9, addr := 0, src := 512 }, payload := (toBytes 40 17179869265 ++ List.replicate 160 0), cells := [] }) ((State.reset.set F.COLL_STATE_STATE 3 5).set F.COLL_STEP_RUN 9 5); let s := s.setColl 5 { Coll.initial with header := ([150994949, 65538, 4, 81, 1124073523, 0, 0, 0, 0, 0, 0, 0, 0, 0, 0, 0].map (BitVec.ofNat 32)), entries := [([14680576, 0, 4096, 0].map (BitVec.ofNat 32)), ([12583425, 0, 4096, 0].map (BitVec.ofNat 32))] }; let s := { s with net.devRx := [1] }; s
     let i : BitVec 12 := 0
     let x : CtxId := 5
     let id : Nat := 1
     let k : Pkt := { pkt0 with hdr := { hdr0 with kind := 10, cls := 5, ctx := 5, step := 9, addr := 0, src := 512 }, payload := (toBytes 40 17179869265 ++ List.replicate 160 0), cells := [] }
     let g : Coll := s.coll ↑x;
     let here : Prop := devRxAt s i.toNat = some (id, k) ∧ k.hdr.ctx.toNat = ↑x ∧ collState s ↑x = 3;
     let plain : Prop := k.cells = [] ∧ k.coll = none ∧ k.owes = false;
     Regs.wf s.regs = true ∧
       s.upsets = [] ∧ here ∧ kindOf k.hdr = (Instr.xpartial i, Kind.xpartial).snd ∧ k.hdr.cls.toNat ≠ g.contribClass ∧ plain) := by
  refine ⟨?_, ?_, ?_, ?_, ?_, ?_⟩ <;> decide +kernel

theorem witness_collective_packets_2 :
    (let s : State := let s := withPkt ({ pkt0 with hdr := { hdr0 with kind := 8, cls := 3, ctx := 5, step := 9, addr := 0, src := 512 }, payload := [], cells := [] }) ((State.reset.set F.COLL_STATE_STATE 3 5).set F.COLL_STEP_RUN 9 5); let s := s.setColl 5 { Coll.initial with header := ([134238213, 131074, 0, 81, 1124073523, 0, 0, 0, 0, 0, 0, 0, 0, 0, 0, 0].map (BitVec.ofNat 32)), entries := [([12583424, 0, 4096, 0].map (BitVec.ofNat 32)), ([12583425, 0, 4096, 0].map (BitVec.ofNat 32))], inflight := [⟨0, none, 0, none, false, 0, false⟩], arrived := [0] }; let s := { s with net.devRx := [1] }; s
     let x : CtxId := 5
     let f : Flight := ⟨0, none, 0, none, false, 0, false⟩
     let chunk : BitVec 32 := 0
     let g : Coll := s.coll ↑x;
     let h : GroupHdr := g.hdr;
     Regs.wf s.regs = true ∧
       s.upsets = [] ∧
         collState s ↑x = 3 ∧
           g.flight chunk.toNat = some f ∧
             g.inflight = [f] ∧
               f.buf = none ∧
                 h.pool = 0 ∧
                   g.waiting = [] ∧
                     lookup s.net.injq g.owner = none ∧ (∀ (m : Member), m ∈ g.members → m.kind ≠ 1) ∧ chunkComplete g chunk.toNat = false) ∧
    (let s : State := let s := withPkt ({ pkt0 with hdr := { hdr0 with kind := 8, cls := 3, ctx := 5, step := 9, addr := 0, src := 512 }, payload := [], cells := [] }) ((State.reset.set F.COLL_STATE_STATE 3 5).set F.COLL_STEP_RUN 9 5); let s := s.setColl 5 { Coll.initial with header := ([134238213, 131074, 0, 81, 1124073523, 0, 0, 0, 0, 0, 0, 0, 0, 0, 0, 0].map (BitVec.ofNat 32)), entries := [([12583424, 0, 4096, 0].map (BitVec.ofNat 32)), ([12583425, 0, 4096, 0].map (BitVec.ofNat 32))], inflight := [⟨0, none, 0, none, false, 0, false⟩], arrived := [0, 1], express := true }; let s := { s with net.devRx := [1] }; s
     let x : CtxId := 5
     let f : Flight := ⟨0, none, 0, none, false, 0, false⟩
     let chunk : BitVec 32 := 0
     let g : Coll := s.coll ↑x;
     let h : GroupHdr := g.hdr;
     Regs.wf s.regs = true ∧
       s.upsets = [] ∧
         collState s ↑x = 3 ∧
           g.flight chunk.toNat = some f ∧
             f.upward = false ∧
               chunkComplete g chunk.toNat = true ∧
                 h.hasParent = false ∧
                   g.express = true ∧
                     h.oper = 5 ∧
                       h.count = 0 ∧
                         f.issued = 0 ∧
                           f.buf = none ∧
                             g.inflight = [f] ∧ g.finished = [] ∧ g.waiting = [] ∧ g.fenced = [] ∧ ∀ (m : Member), m ∈ g.members → m.kind ≠ 1) ∧
    (let s : State := let s := withPkt ({ pkt0 with hdr := { hdr0 with kind := 11, cls := 3, ctx := 5, step := 9, addr := 0, src := 768 }, payload := (List.replicate 8 1), cells := [] }) ((State.reset.set F.COLL_STATE_STATE 3 5).set F.COLL_STEP_RUN 9 5); let s := s.setColl 5 { Coll.initial with header := ([134217733, 131074, 4, 81, 1124073523, 0, 0, 0, 2147484416, 0, 0, 0, 0, 0, 0, 0].map (BitVec.ofNat 32)), entries := [([12583424, 0, 4096, 0].map (BitVec.ofNat 32)), ([12583425, 0, 4096, 0].map (BitVec.ofNat 32))], inflight := [⟨0, none, 0, none, false, 0, false⟩] }; let s := { s with net.devRx := [1] }; s
     let i : BitVec 12 := 0
     let x : CtxId := 5
     let id : Nat := 1
     let k : Pkt := { pkt0 with hdr := { hdr0 with kind := 11, cls := 3, ctx := 5, step := 9, addr := 0, src := 768 }, payload := (List.replicate 8 1), cells := [] }
     let f : Flight := ⟨0, none, 0, none, false, 0, false⟩
     let g : Coll := s.coll ↑x;
     let h : GroupHdr := g.hdr;
     let run : Nat := s.get F.COLL_STEP_RUN ↑x;
     let here : Prop := devRxAt s i.toNat = some (id, k) ∧ k.hdr.ctx.toNat = ↑x ∧ collState s ↑x = 3;
     let plain : Prop := k.cells = [] ∧ k.coll = none ∧ k.owes = false;
     Regs.wf s.regs = true ∧
       s.upsets = [] ∧
         here ∧
           kindOf k.hdr = Kind.result ∧
             h.hasParent = true ∧
               k.hdr.src.toNat = h.parent ∧
                 k.hdr.step.toNat = run ∧
                   plain ∧
                     h.oper ≠ 5 ∧
                       (∀ (m : Member), m ∈ g.members → m.kind ≠ 1) ∧
                         g.fenced = [] ∧
                           g.flight (k.hdr.addr.toNat / h.dchunk g.express) = some f ∧
                             f.replicated + k.payload.length < h.chunkLen g.express (k.hdr.addr.toNat / h.dchunk g.express)) ∧
    (let s : State := let s := withPkt ({ pkt0 with hdr := { hdr0 with kind := 11, cls := 3, ctx := 5, step := 8, addr := 0, src := 768 }, payload := (List.replicate 8 1), cells := [] }) ((State.reset.set F.COLL_STATE_STATE 3 5).set F.COLL_STEP_RUN 9 5); let s := s.setColl 5 { Coll.initial with header := ([134217733, 131074, 4, 81, 1124073523, 0, 0, 0, 2147484416, 0, 0, 0, 0, 0, 0, 0].map (BitVec.ofNat 32)), entries := [([12583424, 0, 4096, 0].map (BitVec.ofNat 32)), ([12583425, 0, 4096, 0].map (BitVec.ofNat 32))], inflight := [⟨0, none, 0, none, false, 0, false⟩] }; let s := { s with net.devRx := [1] }; s
     let i : BitVec 12 := 0
     let x : CtxId := 5
     let id : Nat := 1
     let k : Pkt := { pkt0 with hdr := { hdr0 with kind := 11, cls := 3, ctx := 5, step := 8, addr := 0, src := 768 }, payload := (List.replicate 8 1), cells := [] }
     let g : Coll := s.coll ↑x;
     let h : GroupHdr := g.hdr;
     let run : Nat := s.get F.COLL_STEP_RUN ↑x;
     let here : Prop := devRxAt s i.toNat = some (id, k) ∧ k.hdr.ctx.toNat = ↑x ∧ collState s ↑x = 3;
     let plain : Prop := k.cells = [] ∧ k.coll = none ∧ k.owes = false;
     Regs.wf s.regs = true ∧
       s.upsets = [] ∧ here ∧ kindOf k.hdr = Kind.result ∧ h.hasParent = true ∧ k.hdr.src.toNat = h.parent ∧ k.hdr.step.toNat ≠ run ∧ plain) ∧
    (let s : State := let s := withPkt ({ pkt0 with hdr := { hdr0 with kind := 12, cls := 3, ctx := 5, step := 9, addr := 0, src := 512 }, payload := (toBytes 8 0x12), cells := [] }) ((State.reset.set F.COLL_STATE_STATE 3 5).set F.COLL_STEP_RUN 9 5); let s := s.setColl 5 { Coll.initial with header := ([134217733, 131074, 4, 81, 1124073523, 0, 0, 0, 2147484416, 0, 0, 0, 0, 0, 0, 0].map (BitVec.ofNat 32)), entries := [([12583425, 0, 4096, 0].map (BitVec.ofNat 32)), ([14680576, 0, 4096, 0].map (BitVec.ofNat 32))] }; let s := { s with net.devRx := [1] }; s
     let i : BitVec 12 := 0
     let x : CtxId := 5
     let id : Nat := 1
     let k : Pkt := { pkt0 with hdr := { hdr0 with kind := 12, cls := 3, ctx := 5, step := 9, addr := 0, src := 512 }, payload := (toBytes 8 0x12), cells := [] }
     let child : Nat := 1
     let g : Coll := s.coll ↑x;
     let run : Nat := s.get F.COLL_STEP_RUN ↑x;
     let here : Prop := devRxAt s i.toNat = some (id, k) ∧ k.hdr.ctx.toNat = ↑x ∧ collState s ↑x = 3;
     let plain : Prop := k.cells = [] ∧ k.coll = none ∧ k.owes = false;
     Regs.wf s.regs = true ∧
       s.upsets = [] ∧
         here ∧
           kindOf k.hdr = Kind.cerr ∧
             k.hdr.step.toNat = run ∧
               plain ∧
                 collQuiet s x ∧
                   List.find? (fun (r : Nat) ↦ (memberAt g.members r).kind == 2 && (memberAt g.members r).id == k.hdr.src.toNat)
                       (List.range g.members.length) =
                     some child) ∧
    (let s : State := let s := withPkt ({ pkt0 with hdr := { hdr0 with kind := 12, cls := 3, ctx := 5, step := 9, addr := 0, src := 768 }, payload := (toBytes 8 0x12), cells := [] }) ((State.reset.set F.COLL_STATE_STATE 3 5).set F.COLL_STEP_RUN 9 5); let s := s.setColl 5 { Coll.initial with header := ([134217733, 131074, 4, 81, 1124073523, 0, 0, 0, 2147484416, 0, 0, 0, 0, 0, 0, 0].map (BitVec.ofNat 32)), entries := [([12583424, 0, 4096, 0].map (BitVec.ofNat 32)), ([12583425, 0, 4096, 0].map (BitVec.ofNat 32))] }; let s := { s with net.devRx := [1] }; s
     let i : BitVec 12 := 0
     let x : CtxId := 5
     let id : Nat := 1
     let k : Pkt := { pkt0 with hdr := { hdr0 with kind := 12, cls := 3, ctx := 5, step := 9, addr := 0, src := 768 }, payload := (toBytes 8 0x12), cells := [] }
     let g : Coll := s.coll ↑x;
     let h : GroupHdr := g.hdr;
     let run : Nat := s.get F.COLL_STEP_RUN ↑x;
     let here : Prop := devRxAt s i.toNat = some (id, k) ∧ k.hdr.ctx.toNat = ↑x ∧ collState s ↑x = 3;
     let plain : Prop := k.cells = [] ∧ k.coll = none ∧ k.owes = false;
     Regs.wf s.regs = true ∧
       s.upsets = [] ∧
         here ∧
           kindOf k.hdr = Kind.cerr ∧
             k.hdr.step.toNat = run ∧
               plain ∧
                 collQuiet s x ∧
                   List.find? (fun (r : Nat) ↦ (memberAt g.members r).kind == 2 && (memberAt g.members r).id == k.hdr.src.toNat)
                         (List.range g.members.length) =
                       none ∧
                     h.hasParent = true ∧ k.hdr.src.toNat = h.parent) := by
  refine ⟨?_, ?_, ?_, ?_, ?_, ?_⟩ <;> decide +kernel

theorem witness_collective_packets_deep_1 :
    let s : State := let s := withPkt ({ pkt0 with hdr := { hdr0 with kind := 8, cls := 3, ctx := 5, step := 9, addr := 0, src := 512 }, payload := [], cells := [] }) ((State.reset.set F.COLL_STATE_STATE 3 5).set F.COLL_STEP_RUN 9 5); let s := s.setColl 5 { Coll.initial with header := ([134238213, 131074, 0, 81, 1124073523, 0, 0, 0, 2147484416, 0, 0, 0, 0, 0, 0, 0].map (BitVec.ofNat 32)), entries := [([12583424, 0, 4096, 0].map (BitVec.ofNat 32)), ([12583425, 0, 4096, 0].map (BitVec.ofNat 32))], inflight := [⟨0, none, 0, none, false, 0, false⟩], arrived := [0, 1], express := true }; let s := { s with net.devRx := [1] }; s
    let x : CtxId := 5
    let f : Flight := ⟨0, none, 0, none, false, 0, false⟩
    let chunk : BitVec 32 := 0
    let bs : List Byte := []
    let s1 : State := (stagingRead 5 0 s).2
    let g : Coll := s.coll ↑x;
    let h : GroupHdr := g.hdr;
    Regs.wf s.regs = true ∧
      s.upsets = [] ∧
        collState s ↑x = 3 ∧
          g.flight chunk.toNat = some f ∧
            f.upward = false ∧
              chunkComplete g chunk.toNat = true ∧
                (g.need = 0 ∨ f.buf.isSome = true) ∧ h.hasParent = true ∧ stagingRead (↑x) chunk.toNat s = (AccRes.data bs, s1) := by
  repeat' refine And.intro ?_ ?_
  all_goals first
    | decide +kernel
    | rfl

theorem witness_stacks_1 :
    (let s : State := let s := stk 2; let s := s.setStack 2 { s.stack 2 with lines := [(64, line0)] }; s
     let m : MasterId := 260
     let n : StackId := 2
     let line : Nat := 64
     let c : CacheLine := line0
     let k : StackSt := s.stack ↑n;
     s.wf = true ∧ s.upsets = [] ∧ issued m = true ∧ offFenced s (↑n) (line * 64) = false ∧ lookup k.lines line = some c) ∧
    (let s : State := let s := stk 2; let s := s.setStack 2 { s.stack 2 with lines := [(64, line0)] }; s.set F.STK_CACHEOP_LIMIT_PAGE 5 2
     let m : MasterId := 260
     let n : StackId := 2
     let line : Nat := 64
     let c : CacheLine := line0
     let k : StackSt := s.stack ↑n;
     s.wf = true ∧
       s.upsets = [] ∧
         issued m = true ∧
           s.flag F.STK_CACHEOP_BUSY ↑n = false ∧ k.lines = [(line, c)] ∧ inCacheOp s (↑n) line = true ∧ c.dirty = true ∧ c.data.length = 64) ∧
    (let s : State := let s := stk 2; let s := s.setStack 2 { s.stack 2 with lines := [(64, line0)] }; s.set F.STK_CACHEOP_BUSY 1 2
     let m : MasterId := 260
     let n : StackId := 2
     s.wf = true ∧ s.upsets = [] ∧ issued m = true ∧ s.flag F.STK_CACHEOP_BUSY ↑n = true) ∧
    (let s : State := let s := stk 2; let s := s.setStack 2 { s.stack 2 with lines := [(64, line0)] }; (List.range 32).foldl (fun s p => s.set F.STK_PCH_FENCED 1 2 p) s
     let m : MasterId := 260
     let n : StackId := 2
     let p : Fin 32 := 0
     let line : Nat := 64
     s.wf = true ∧ s.upsets = [] ∧ issued m = true ∧ offFenced s (↑n) (line * 64) = true ∧ recentreDue (↑n) (↑p) s = false) ∧
    (let s : State := let s := stk 2; let s := s.setStack 2 { s.stack 2 with lines := [(64, line0)] }; s.set F.STK_SCRUB_INTERVAL 0 2
     let m : MasterId := 260
     let n : StackId := 2
     let k : StackSt := s.stack ↑n;
     s.wf = true ∧
       s.upsets = [] ∧ issued m = true ∧ (s.get F.STK_SCRUB_INTERVAL ↑n = 0 ∨ 10 * s.elapsed k.scrubAt < s.get F.STK_SCRUB_INTERVAL ↑n)) ∧
    (let s : State := let s := stk 2; let s := s.setStack 2 { s.stack 2 with clock := 0 }; (s.set F.STK_TRAIN_TEMP 38 2).set F.STK_RECENTRE_TEMPDELTA 5 2
     let m : MasterId := 260
     let n : StackId := 2
     let temp : Byte := 40
     let base : Nat := s.get F.STK_TRAIN_TEMP ↑n;
     let delta : Nat := max 1 (s.get F.STK_RECENTRE_TEMPDELTA ↑n);
     s.wf = true ∧ s.upsets = [] ∧ issued m = true ∧ BitVec.toNat temp ≤ base + delta ∧ base ≤ BitVec.toNat temp + delta) := by
  refine ⟨?_, ?_, ?_, ?_, ?_, ?_⟩ <;> decide +kernel

theorem witness_stacks_2 :
    (let s : State := let s := stk 2; let s := s.setStack 2 { s.stack 2 with turn := 3 }; s.set F.STK_RECENTRE_DRIFTTHR 5 2
     let m : MasterId := 260
     let n : StackId := 2
     let p : Fin 32 := 3
     let k : StackSt := s.stack ↑n;
     s.wf = true ∧ s.upsets = [] ∧ issued m = true ∧ s.flag F.STK_PCH_FENCED ↑n ↑p = false ∧ k.turn = ↑p ∧ k.turn ≠ 0) ∧
    (let s : State := let s := stk 2; let s := s.setStack 2 { s.stack 2 with clock := 0 }; s.set F.STK_RECENTRE_DRIFTTHR 5 2
     let m : MasterId := 260
     let n : StackId := 2
     let p : Fin 32 := 0
     let d : Byte := 127
     let k : StackSt := s.stack ↑n;
     let thr : Int := ↑(s.get F.STK_RECENTRE_DRIFTTHR ↑n);
     let st : Nat := s.get F.STK_STATUS_STATE ↑n;
     s.wf = true ∧
       s.upsets = [] ∧
         issued m = true ∧
           2 ≤ st ∧ st ≤ 4 ∧ recentreDue (↑n) (↑p) s = true ∧ (thr < BitVec.toInt d ∨ BitVec.toInt d < -thr) ∧ k.training.contains ↑p = false) ∧
    (let s : State := let s := stk 3; let s := s.setStack 2 { s.stack 2 with training := [7, 9], whole := true }; s.set F.STK_TRAIN_BUSY 1 2
     let m : MasterId := 260
     let n : StackId := 2
     let p : Fin 32 := 7
     let rest : List Nat := [9]
     let k : StackSt := s.stack ↑n;
     s.wf = true ∧ s.upsets = [] ∧ issued m = true ∧ k.training ≠ [] ∧ k.training = ↑p :: rest ∧ rest ≠ []) ∧
    (let s : State := let s := stk 3; let s := s.setStack 2 { s.stack 2 with training := [7], whole := true }; s.set F.STK_TRAIN_BUSY 1 2
     let m : MasterId := 260
     let n : StackId := 2
     let p : Fin 32 := 7
     let k : StackSt := s.stack ↑n;
     s.wf = true ∧
       s.upsets = [] ∧ issued m = true ∧ k.training = [↑p] ∧ k.whole = true ∧ s.flag F.STK_TRAIN_BUSY ↑n = true ∧ s.get F.STK_FENCE_MASK ↑n = 0) := by
  refine ⟨?_, ?_, ?_, ?_⟩ <;> decide +kernel

theorem witness_stacks_deep_1 :
    let s : State := let s := stk 2; let s := s.setStack 2 { s.stack 2 with clock := 0 }; s
    let s1 : State := (writeParts regPut 260 1 (accParts (let s := stk 2; let s := s.setStack 2 { s.stack 2 with clock := 0 }; s) (2 * 2^36 + 4096) ([1, 2, 3] : List Byte).length false) [1, 2, 3] (let s := stk 2; let s := s.setStack 2 { s.stack 2 with clock := 0 }; s)).2
    let m : MasterId := 260
    let n : StackId := 2
    let p : Fin 32 := 0
    let off : BitVec 36 := 4096
    let hint : BitVec 2 := 1
    let data : List Byte := [1, 2, 3]
    let bs : List Byte := []
    let line : Nat := 64
    let temp : Byte := 40
    let d : Byte := 3
    let k : StackSt := s.stack ↑n;
    let a : Nat := ↑n * 2 ^ 36 + off.toNat;
    let base : Nat := s.get F.STK_TRAIN_TEMP ↑n;
    let delta : Nat := max 1 (s.get F.STK_RECENTRE_TEMPDELTA ↑n);
    let thr : Int := ↑(s.get F.STK_RECENTRE_DRIFTTHR ↑n);
    let st : Nat := s.get F.STK_STATUS_STATE ↑n;
    let idle : Prop := k.training = [] ∧ 2 ≤ st ∧ st ≤ 4 ∧ livePchs s ↑n ≠ [];
    s.wf = true ∧
      s.upsets = [] ∧
        issued m = true ∧
          data ≠ [] ∧
            writeParts regPut (BitVec.toNat m) hint.toNat (accParts s a data.length false) data s = (AccRes.data bs, s1) ∧
              offFenced s (↑n) (line * 64) = false ∧
                lookup k.lines line = none ∧
                  s.get F.STK_SCRUB_INTERVAL ↑n ≠ 0 ∧
                    s.get F.STK_SCRUB_INTERVAL ↑n ≤ 10 * s.elapsed k.scrubAt ∧
                      base + delta < BitVec.toNat temp ∧
                        idle ∧
                          2 ≤ st ∧
                            st ≤ 4 ∧
                              recentreDue (↑n) (↑p) s = true ∧
                                BitVec.toInt d ≤ thr ∧
                                  -thr ≤ BitVec.toInt d ∧
                                    s.flag F.STK_PCH_FENCED ↑n ↑p = false ∧
                                      st ≠ 5 ∧ s.flag F.STK_TRAIN_BUSY ↑n = false ∧ k.lines = [] ∧ s.flag F.STK_CACHEOP_BUSY ↑n = false := by
  repeat' refine And.intro ?_ ?_
  all_goals first
    | decide +kernel
    | exact Prod.ext (by decide +kernel) (by dsimp only; congr <;> decide +kernel)

theorem witness_stacks_deep_2 :
    let s : State := let s := stk 2; let s := s.setStack 2 { s.stack 2 with clock := 0 }; s
    let s1 : State := (readParts regBytes 260 1 (accParts (let s := stk 2; let s := s.setStack 2 { s.stack 2 with clock := 0 }; s) (2 * 2^36 + 4096) 64 false) (let s := stk 2; let s := s.setStack 2 { s.stack 2 with clock := 0 }; s)).2
    let m : MasterId := 260
    let n : StackId := 2
    let off : BitVec 36 := 4096
    let len : BitVec 13 := 64
    let hint : BitVec 2 := 1
    let bs : List Byte := List.replicate 64 0
    let a : Nat := ↑n * 2 ^ 36 + off.toNat;
    s.wf = true ∧
      s.upsets = [] ∧
        issued m = true ∧ len ≠ 0 ∧ readParts regBytes (BitVec.toNat m) hint.toNat (accParts s a len.toNat false) s = (AccRes.data bs, s1) := by
  repeat' refine And.intro ?_ ?_
  all_goals first
    | decide +kernel
    | exact Prod.ext (by decide +kernel) (by dsimp only; congr <;> decide +kernel)

theorem witness_stacks_deep_3 :
    let s : State := let s := stk 2; let s := s.setStack 2 { s.stack 2 with clock := 0 }; s
    let s1 : State := (readParts regBytes 96 1 (accParts (let s := stk 2; let s := s.setStack 2 { s.stack 2 with clock := 0 }; s) (2 * 2^36 + 34359738368) 64 false) (let s := stk 2; let s := s.setStack 2 { s.stack 2 with clock := 0 }; s)).2
    let m : MasterId := 96
    let n : StackId := 2
    let off : BitVec 36 := 34359738368
    let len : BitVec 13 := 64
    let hint : BitVec 2 := 1
    let cause : Nat := 1
    let a : Nat := ↑n * 2 ^ 36 + off.toNat;
    s.wf = true ∧
      s.upsets = [] ∧
        issued m = true ∧
          len ≠ 0 ∧
            readParts regBytes (BitVec.toNat m) hint.toNat (accParts s a len.toNat false) s = (AccRes.refused cause, s1) ∧
              prompterMaster (BitVec.toNat m) = none := by
  repeat' refine And.intro ?_ ?_
  all_goals first
    | decide +kernel
    | exact Prod.ext (by decide +kernel) (by dsimp only; congr <;> decide +kernel)

theorem witness_stacks_deep_4 :
    let s : State := let s := stk 2; let s := s.setStack 2 { s.stack 2 with clock := 0 }; s
    let s1 : State := (readParts regBytes 16 1 (accParts (let s := stk 2; let s := s.setStack 2 { s.stack 2 with clock := 0 }; s) (2 * 2^36 + 34359738368) 64 false) (let s := stk 2; let s := s.setStack 2 { s.stack 2 with clock := 0 }; s)).2
    let m : MasterId := 16
    let n : StackId := 2
    let off : BitVec 36 := 34359738368
    let len : BitVec 13 := 64
    let hint : BitVec 2 := 1
    let cause : Nat := 1
    let a : Nat := ↑n * 2 ^ 36 + off.toNat;
    let c : Nat := 0;
    s.wf = true ∧
      s.upsets = [] ∧
        issued m = true ∧
          len ≠ 0 ∧
            readParts regBytes (BitVec.toNat m) hint.toNat (accParts s a len.toNat false) s = (AccRes.refused cause, s1) ∧
              prompterMaster (BitVec.toNat m) = some c := by
  repeat' refine And.intro ?_ ?_
  all_goals first
    | decide +kernel
    | exact Prod.ext (by decide +kernel) (by dsimp only; congr <;> decide +kernel)

theorem witness_rings_1 :
    (let s : State := let s := ringsOn; let s := s.setRing 5 { s.ring 5 with head := 3 }; s
     let r : RingId := 5
     let v : BitVec 16 := 5
     let word : BitVec 14 := 17
     let on : Prop := s.flag F.HIF_RCFG_EN 0 ↑r = true;
     let good : Nat → Prop := fun (n : Nat) ↦ 4 ≤ n ∧ n ≤ 16;
     Regs.wf s.regs = true ∧
       s.upsets = [] ∧
         on ∧
           v.toNat < sqSize s ↑r ∧
             v.toNat < cqSize s ↑r ∧
               nextRing s = some ↑r ∧
                 s.flag F.HIF_EVQ_CFG_EN = false ∧
                   good (s.get F.HIF_EVQ_CFG_LOG2) ∧ s.events.items = [] ∧ s.hif.inReset = true ∧ word.toNat < 1024 ∧ word.toNat % 4 ≠ 3) ∧
    (let s : State := let s := ringsOn; let s := s.setRing 5 { s.ring 5 with head := 3 }; (s.set F.HIF_EVQ_CFG_EN 1).set F.HIF_EVQ_CFG_LOG2 5
     let v : BitVec 16 := 5
     Regs.wf s.regs = true ∧ s.upsets = [] ∧ s.flag F.HIF_EVQ_CFG_EN = true ∧ v.toNat < evSize s) ∧
    (let s : State := let s := ringsOn; let s := s.setRing 5 { s.ring 5 with head := 3 }; s.set F.HIF_RCFG_EN 0 0 5
     let r : RingId := 5
     let x : RingSt := s.ring ↑r;
     let on : Prop := s.flag F.HIF_RCFG_EN 0 ↑r = true;
     let good : Nat → Prop := fun (n : Nat) ↦ 4 ≤ n ∧ n ≤ 16;
     Regs.wf s.regs = true ∧
       s.upsets = [] ∧ ¬on ∧ nextRing s ≠ some ↑r ∧ x.out = [] ∧ good (s.get F.HIF_RCFG_SQLOG2 0 ↑r) ∧ good (s.get F.HIF_RCFG_CQLOG2 0 ↑r)) ∧
    (let s : State := let s := ringsOn; let s := s.setRing 5 { s.ring 5 with head := 3 }; s
     let r : RingId := 5
     let v : BitVec 16 := 16
     let on : Prop := s.flag F.HIF_RCFG_EN 0 ↑r = true;
     Regs.wf s.regs = true ∧ s.upsets = [] ∧ on ∧ sqSize s ↑r ≤ v.toNat ∧ cqSize s ↑r ≤ v.toNat) ∧
    (let s : State := let s := ringsOn; let s := s.setRing 5 { s.ring 5 with head := 3 }; (s.set F.HIF_EVQ_CFG_EN 1).set F.HIF_EVQ_CFG_LOG2 5
     let v : BitVec 16 := 500
     Regs.wf s.regs = true ∧ s.upsets = [] ∧ s.flag F.HIF_EVQ_CFG_EN = true ∧ evSize s ≤ v.toNat) ∧
    (let s : State := let s := ringsOn; let s := s.setRing 5 { s.ring 5 with out := [descOf [0]] }; s.set F.HIF_RCFG_EN 0 0 5
     let r : RingId := 5
     let x : RingSt := s.ring ↑r;
     let on : Prop := s.flag F.HIF_RCFG_EN 0 ↑r = true;
     Regs.wf s.regs = true ∧ s.upsets = [] ∧ ¬on ∧ x.out ≠ [] ∧ s.flag F.ERR_CFG_REJECT = false) := by
  refine ⟨?_, ?_, ?_, ?_, ?_, ?_⟩ <;> decide +kernel

theorem witness_rings_2 :
    (let s : State := let s := ringsOn; let s := s.setRing 5 { s.ring 5 with head := 3 }; { ((s.set F.HIF_EVQ_CFG_EN 1).set F.HIF_EVQ_CFG_LOG2 5) with events := ⟨[⟨4, 3, 0, 9, 77, [1], 5⟩], 0⟩ }
     let e : EventRec := ⟨4, 3, 0, 9, 77, [1], 5⟩
     let rest : List EventRec := []
     Regs.wf s.regs = true ∧
       s.upsets = [] ∧
         s.events.items = e :: rest ∧ s.events.gap = 0 ∧ s.flag F.HIF_EVQ_CFG_EN = true ∧ (s.hif.ev.tail + 1) % evSize s ≠ s.hif.ev.head) ∧
    (let s : State := let s := ringsOn; let s := s.setRing 5 { s.ring 5 with unsignalled := 2 }; { (s.set F.HIF_RMOD_TIMER 5 0 5).set F.HIF_RCFG_VECTOR 9 0 5 with hif.msix := [(39, 0#32)] }
     let r : RingId := 5
     let x : RingSt := s.ring ↑r;
     Regs.wf s.regs = true ∧
       s.upsets = [] ∧ s.get F.HIF_RMOD_TIMER 0 ↑r ≠ 0 ∧ x.unsignalled ≠ 0 ∧ s.passedUs x.oldest (s.get F.HIF_RMOD_TIMER 0 ↑r) = true) ∧
    (let s : State := let s := ringsOn; let s := s.setRing 5 { s.ring 5 with head := 3 }; { s.set F.CAL_BOOT_STAGE 5 with hif.inReset := false }
     let gen : BitVec 3 := 5
     let width : BitVec 4 := 8
     Regs.wf s.regs = true ∧ s.upsets = [] ∧ s.hif.inReset = false ∧ bootStage s ≠ 0 ∧ 1 ≤ gen.toNat ∧ gen.toNat ≤ 5 ∧ width.toNat ∈ [1, 2, 4, 8]) := by
  refine ⟨?_, ?_, ?_⟩ <;> decide +kernel

theorem witness_host_descriptors_1 :
    (let s : State := let s := admitAll 23 0x40003000 0x40003FFF ((running 3).set F.HIF_RCFG_CQLOG2 4 0 5); let s := { s.setRing 5 { s.ring 5 with out := [{ descOf [14, 0, 4096, 32] with started := false, progress := 0, data := [] }] } with ticks := 1000000000 }; let s := admitAll 106 0x7F0003000 0x7F0003FFF (admitAll 100 0x7F0000000 0x7F0000FFF s); s
     let r : RingId := 5
     let i : BitVec 8 := 0
     let d : Desc := { descOf [14, 0, 4096, 32] with started := false, progress := 0, data := [] }
     s.wf = true ∧ rising none s.net.epFence = true ∧ descReady s r i 14 d ∧ d.pair 2 % 4096 = 0 ∧ d.pair 2 + 2 ^ 33 ≤ 2 ^ 48) ∧
    (let s : State := let s := admitAll 23 0x40003000 0x40003FFF ((running 3).set F.HIF_RCFG_CQLOG2 4 0 5); let s := { s.setRing 5 { s.ring 5 with out := [{ descOf [14, 0, 4097, 0] with started := false, progress := 0, data := [] }] } with ticks := 1000000000 }; let s := admitAll 106 0x7F0003000 0x7F0003FFF (admitAll 100 0x7F0000000 0x7F0000FFF s); s
     let r : RingId := 5
     let i : BitVec 8 := 0
     let d : Desc := { descOf [14, 0, 4097, 0] with started := false, progress := 0, data := [] }
     s.wf = true ∧ rising none s.net.epFence = true ∧ descReady s r i 14 d ∧ d.pair 2 % 4096 ≠ 0) ∧
    (let s : State := let s := admitAll 23 0x40003000 0x40003FFF ((running 3).set F.HIF_RCFG_CQLOG2 4 0 5); let s := { s.setRing 5 { s.ring 5 with out := [{ descOf [8, 0, 3, 40] with started := false, progress := 0, data := [] }] } with ticks := 1000000000 }; let s := admitAll 106 0x7F0003000 0x7F0003FFF (admitAll 100 0x7F0000000 0x7F0000FFF s); s.wr R.FWD_PFENCEH 0 0 0xF0F0
     let r : RingId := 5
     let i : BitVec 8 := 0
     let d : Desc := { descOf [8, 0, 3, 40] with started := false, progress := 0, data := [] }
     let fresh : Prop := d.progress = 0 ∧ d.tally = 0;
     let range : Prop := d.word 2 ≤ d.word 3;
     s.wf = true ∧
       rising none s.net.epFence = true ∧
         descReady s r i (Instr.fence r i, 8, fun (old x : Bool) ↦ old || x).snd.fst d ∧
           fresh ∧ range ∧ (d.word 1).testBit 0 = false ∧ (d.word 1).testBit 1 = false ∧ d.word 3 ≤ 511) ∧
    (let s : State := let s := admitAll 23 0x40003000 0x40003FFF ((running 3).set F.HIF_RCFG_CQLOG2 4 0 5); let s := { s.setRing 5 { s.ring 5 with out := [{ descOf [8, 1, 3, 40] with started := false, progress := 0, data := [] }] } with ticks := 1000000000 }; let s := admitAll 106 0x7F0003000 0x7F0003FFF (admitAll 100 0x7F0000000 0x7F0000FFF s); { s with net.epFence := [(0, 0xF0F0#32)] }
     let r : RingId := 5
     let i : BitVec 8 := 0
     let d : Desc := { descOf [8, 1, 3, 40] with started := false, progress := 0, data := [] }
     let fresh : Prop := d.progress = 0 ∧ d.tally = 0;
     let range : Prop := d.word 2 ≤ d.word 3;
     s.wf = true ∧
       rising none s.net.epFence = true ∧
         descReady s r i (Instr.fence r i, 8, fun (old x : Bool) ↦ old || x).snd.fst d ∧
           fresh ∧ range ∧ (d.word 1).testBit 0 = true ∧ d.word 3 ≤ 1048575) ∧
    (let s : State := let s := admitAll 23 0x40003000 0x40003FFF ((running 3).set F.HIF_RCFG_CQLOG2 4 0 5); let s := { s.setRing 5 { s.ring 5 with out := [{ descOf [9, 0, 3, 40] with started := false, progress := 0, data := [] }] } with ticks := 1000000000 }; let s := admitAll 106 0x7F0003000 0x7F0003FFF (admitAll 100 0x7F0000000 0x7F0000FFF s); s.wr R.FWD_PFENCEH 0 0 0xF0F0
     let r : RingId := 5
     let i : BitVec 8 := 0
     let d : Desc := { descOf [9, 0, 3, 40] with started := false, progress := 0, data := [] }
     let fresh : Prop := d.progress = 0 ∧ d.tally = 0;
     let range : Prop := d.word 2 ≤ d.word 3;
     s.wf = true ∧
       rising none s.net.epFence = true ∧
         descReady s r i (Instr.unfence r i, 9, fun (old x : Bool) ↦ old && !x).snd.fst d ∧
           fresh ∧ range ∧ (d.word 1).testBit 0 = false ∧ (d.word 1).testBit 1 = false ∧ d.word 3 ≤ 511) ∧
    (let s : State := let s := admitAll 23 0x40003000 0x40003FFF ((running 3).set F.HIF_RCFG_CQLOG2 4 0 5); let s := { s.setRing 5 { s.ring 5 with out := [{ descOf [9, 1, 3, 40] with started := false, progress := 0, data := [] }] } with ticks := 1000000000 }; let s := admitAll 106 0x7F0003000 0x7F0003FFF (admitAll 100 0x7F0000000 0x7F0000FFF s); { s with net.epFence := [(0, 0xF0F0#32)] }
     let r : RingId := 5
     let i : BitVec 8 := 0
     let d : Desc := { descOf [9, 1, 3, 40] with started := false, progress := 0, data := [] }
     let fresh : Prop := d.progress = 0 ∧ d.tally = 0;
     let range : Prop := d.word 2 ≤ d.word 3;
     s.wf = true ∧
       rising none s.net.epFence = true ∧
         descReady s r i (Instr.unfence r i, 9, fun (old x : Bool) ↦ old && !x).snd.fst d ∧
           fresh ∧ range ∧ (d.word 1).testBit 0 = true ∧ d.word 3 ≤ 1048575) := by
  refine ⟨?_, ?_, ?_, ?_, ?_, ?_⟩ <;> decide +kernel

theorem witness_host_descriptors_2 :
    (let s : State := let s := admitAll 23 0x40003000 0x40003FFF ((running 3).set F.HIF_RCFG_CQLOG2 4 0 5); let s := { s.setRing 5 { s.ring 5 with out := [{ descOf [11, 0, 4096, 64, 4096, 0] with started := false, progress := 0, data := [] }] } with ticks := 1000000000 }; let s := admitAll 106 0x7F0003000 0x7F0003FFF (admitAll 100 0x7F0000000 0x7F0000FFF s); s
     let r : RingId := 5
     let i : BitVec 8 := 0
     let d : Desc := { descOf [11, 0, 4096, 64, 4096, 0] with started := false, progress := 0, data := [] }
     s.wf = true ∧ rising none s.net.epFence = true ∧ descReady s r i 11 d ∧ calRangeBad d = false ∧ s.sec.calBusy = none) ∧
    (let s : State := let s := admitAll 23 0x40003000 0x40003FFF ((running 3).set F.HIF_RCFG_CQLOG2 4 0 5); let s := { s.setRing 5 { s.ring 5 with out := [{ descOf [12, 3390767104, 4096, 64, 4096, 0] with started := false, progress := 0, data := [] }] } with ticks := 1000000000 }; let s := admitAll 106 0x7F0003000 0x7F0003FFF (admitAll 100 0x7F0000000 0x7F0000FFF s); s
     let r : RingId := 5
     let i : BitVec 8 := 0
     let d : Desc := { descOf [12, 3390767104, 4096, 64, 4096, 0] with started := false, progress := 0, data := [] }
     let host : List Byte := (List.replicate 64 7)
     let fresh : Prop := d.progress = 0 ∧ d.tally = 0;
     s.wf = true ∧
       rising none s.net.epFence = true ∧
         descReady s r i 12 d ∧
           fresh ∧
             d.word 1 / 65536 = 51739 ∧
               calRangeBad d = false ∧ s.sec.calBusy = none ∧ s.flag F.SEC_UPD_STATUS_BUSY = false ∧ d.word 3 ≤ host.length) ∧
    (let s : State := let s := admitAll 23 0x40003000 0x40003FFF ((running 3).set F.HIF_RCFG_CQLOG2 4 0 5); let s := { s.setRing 5 { s.ring 5 with out := [{ descOf [12, 3390767104, 4096, 64, 4096, 0] with started := true, progress := 1, data := (List.replicate 16 9) }] } with ticks := 1000000000 }; let s := admitAll 106 0x7F0003000 0x7F0003FFF (admitAll 100 0x7F0000000 0x7F0000FFF s); { s with sec.calBusy := some ⟨5, 7⟩ }
     let r : RingId := 5
     let i : BitVec 8 := 0
     let d : Desc := { descOf [12, 3390767104, 4096, 64, 4096, 0] with started := true, progress := 1, data := (List.replicate 16 9) }
     let cmd : CmdRef := nthDesc s r i;
     let at_ : Prop := s.desc cmd = some d ∧ d.started = true;
     s.wf = true ∧ rising none s.net.epFence = true ∧ at_ ∧ d.word 0 % 256 = 12 ∧ d.progress = 1) := by
  refine ⟨?_, ?_, ?_⟩ <;> decide +kernel

theorem witness_host_descriptors_deep_1 :
    let s : State := let s := admitAll 23 0x40003000 0x40003FFF ((running 3).set F.HIF_RCFG_CQLOG2 4 0 5); let s := { s.setRing 5 { s.ring 5 with out := [{ descOf [4, 0, 4096, 0, 1] with started := false, progress := 0, data := [] }] } with ticks := 1000000000 }; let s := admitAll 106 0x7F0003000 0x7F0003FFF (admitAll 100 0x7F0000000 0x7F0000FFF s); s
    let s1 : State := (let b := begun s 5 0 ({ descOf [4, 0, 4096, 0, 1] with started := false, progress := 0, data := [] }); (batchWrite 3145728 77 (mapDesc (nthDesc s 5 0) (fun d => { d with data := ([1, 3145728, 77, 0].map (BitVec.ofNat 32)) }) b)).2)
    let r : RingId := 5
    let i : BitVec 8 := 0
    let d : Desc := { descOf [4, 0, 4096, 0, 1] with started := false, progress := 0, data := [] }
    let records : List Word := ([1, 3145728, 77, 0].map (BitVec.ofNat 32))
    let bs : List Byte := []
    let cmd : CmdRef := nthDesc s r i;
    let b : State := begun s r i d;
    let fresh : Prop := d.progress = 0 ∧ d.tally = 0;
    let w : List Word → Nat → Nat → Nat := fun (l : List Word) (rec_ j : Nat) ↦ BitVec.toNat (l.getD (4 * rec_ + j) 0);
    let loaded : State :=
      mapDesc cmd
        (fun (d : Desc) ↦
          { id := d.id, idx := d.idx, words := d.words, started := d.started, since := d.since, progress := d.progress, tally := d.tally,
            data := records })
        b;
    s.wf = true ∧
      rising none s.net.epFence = true ∧
        descReady s r i 4 d ∧
          fresh ∧
            d.word 4 = 1 ∧
              records.length = 4 ∧
                w records 0 0 % 16 = 1 ∧
                  w records 0 1 % 4 = 0 ∧
                    batchWrite (w records 0 1 % 2 ^ 26) (w records 0 2) loaded = (AccRes.data bs, s1) ∧ s1.desc cmd = loaded.desc cmd := by
  repeat' refine And.intro ?_ ?_
  all_goals first
    | decide +kernel
    | exact Prod.ext (by decide +kernel) (by dsimp only; congr <;> decide +kernel)

set_option maxRecDepth 20000 in
theorem witness_host_descriptors_deep_2 :
    let s : State := let s := admitAll 23 0x40003000 0x40003FFF ((running 3).set F.HIF_RCFG_CQLOG2 4 0 5); let s := { s.setRing 5 { s.ring 5 with out := [{ descOf [4, 0, 4096, 0, 1] with started := true, progress := 0, data := ([3, 3145728, 0, 0xFF].map (BitVec.ofNat 32)) }] } with ticks := 1000000000 }; let s := admitAll 106 0x7F0003000 0x7F0003FFF (admitAll 100 0x7F0000000 0x7F0000FFF s); s
    let s1 : State := (let b := begun s 5 0 ({ descOf [4, 0, 4096, 0, 1] with started := true, progress := 0, data := ([3, 3145728, 0, 0xFF].map (BitVec.ofNat 32)) }); (batchRead 3145728 s).2)
    let r : RingId := 5
    let i : BitVec 8 := 0
    let d : Desc := { descOf [4, 0, 4096, 0, 1] with started := true, progress := 0, data := ([3, 3145728, 0, 0xFF].map (BitVec.ofNat 32)) }
    let bs : List Byte := [0, 0, 0, 0]
    let cmd : CmdRef := nthDesc s r i;
    let w : List Word → Nat → Nat → Nat := fun (l : List Word) (rec_ j : Nat) ↦ BitVec.toNat (l.getD (4 * rec_ + j) 0);
    let at_ : Prop := s.desc cmd = some d ∧ d.started = true;
    let poll : Prop :=
      at_ ∧
        d.word 0 % 256 = 4 ∧
          d.tally = 0 ∧
            d.progress + 1 = d.word 4 ∧
              4 * (d.progress + 1) ≤ d.data.length ∧
                w d.data d.progress 0 % 16 = 3 ∧
                  w d.data d.progress 1 % 4 = 0 ∧ batchRead (w d.data d.progress 1 % 2 ^ 26) s = (AccRes.data bs, s1);
    let hits : Prop := ofBytes bs &&& w d.data d.progress 3 = w d.data d.progress 2 &&& w d.data d.progress 3;
    s.wf = true ∧ rising none s.net.epFence = true ∧ poll ∧ s1.desc cmd = s.desc cmd ∧ hits := by
  repeat' refine And.intro ?_ ?_
  all_goals first
    | decide +kernel
    | rfl

set_option maxRecDepth 20000 in
theorem witness_host_descriptors_deep_3 :
    let s : State := let s := admitAll 23 0x40003000 0x40003FFF ((running 3).set F.HIF_RCFG_CQLOG2 4 0 5); let s := { s.setRing 5 { s.ring 5 with out := [{ descOf [4, 0, 4096, 0, 1] with started := true, progress := 0, data := ([3, 3145728, 5, 0xFF].map (BitVec.ofNat 32)) }] } with ticks := 1000000000 }; let s := admitAll 106 0x7F0003000 0x7F0003FFF (admitAll 100 0x7F0000000 0x7F0000FFF s); s
    let s1 : State := (let b := begun s 5 0 ({ descOf [4, 0, 4096, 0, 1] with started := true, progress := 0, data := ([3, 3145728, 5, 0xFF].map (BitVec.ofNat 32)) }); (batchRead 3145728 s).2)
    let r : RingId := 5
    let i : BitVec 8 := 0
    let d : Desc := { descOf [4, 0, 4096, 0, 1] with started := true, progress := 0, data := ([3, 3145728, 5, 0xFF].map (BitVec.ofNat 32)) }
    let bs : List Byte := [0, 0, 0, 0]
    let cmd : CmdRef := nthDesc s r i;
    let w : List Word → Nat → Nat → Nat := fun (l : List Word) (rec_ j : Nat) ↦ BitVec.toNat (l.getD (4 * rec_ + j) 0);
    let at_ : Prop := s.desc cmd = some d ∧ d.started = true;
    let poll : Prop :=
      at_ ∧
        d.word 0 % 256 = 4 ∧
          d.tally = 0 ∧
            d.progress + 1 = d.word 4 ∧
              4 * (d.progress + 1) ≤ d.data.length ∧
                w d.data d.progress 0 % 16 = 3 ∧
                  w d.data d.progress 1 % 4 = 0 ∧ batchRead (w d.data d.progress 1 % 2 ^ 26) s = (AccRes.data bs, s1);
    let hits : Prop := ofBytes bs &&& w d.data d.progress 3 = w d.data d.progress 2 &&& w d.data d.progress 3;
    s.wf = true ∧ rising none s.net.epFence = true ∧ poll ∧ ¬hits ∧ s.passedUs d.since (max 1 (w d.data d.progress 0 / 65536)) = true := by
  repeat' refine And.intro ?_ ?_
  all_goals first
    | decide +kernel
    | rfl

theorem witness_host_descriptors_deep_4 :
    let s : State := let s := admitAll 23 0x40003000 0x40003FFF ((running 3).set F.HIF_RCFG_CQLOG2 4 0 5); let s := { s.setRing 5 { s.ring 5 with out := [{ descOf [7, 0, 4096, 0, 50331648, 1024, 4] with started := false, progress := 0, data := [] }] } with ticks := 1000000000 }; let s := admitAll 106 0x7F0003000 0x7F0003FFF (admitAll 100 0x7F0000000 0x7F0000FFF s); s
    let s1 : State := (let b := begun s 5 0 ({ descOf [7, 0, 4096, 0, 50331648, 1024, 4] with started := false, progress := 0, data := [] }); (writeParts regPut 0 0 [(0x040003000000, 4)] [1, 2, 3, 4] b).2)
    let r : RingId := 5
    let i : BitVec 8 := 0
    let d : Desc := { descOf [7, 0, 4096, 0, 50331648, 1024, 4] with started := false, progress := 0, data := [] }
    let host : List Byte := [1, 2, 3, 4]
    let bs : List Byte := []
    let b : State := begun s r i d;
    let fresh : Prop := d.progress = 0 ∧ d.tally = 0;
    s.wf = true ∧
      rising none s.net.epFence = true ∧
        descReady s r i 7 d ∧
          fresh ∧
            accParts b (d.pair 4) (d.word 6) true = [(d.pair 4, d.word 6)] ∧
              (d.word 1).testBit 0 = false ∧
                host.length = d.word 6 ∧ writeParts regPut 0 (fieldOf (d.word 1) 1 2) [(d.pair 4, d.word 6)] host b = (AccRes.data bs, s1) := by
  repeat' refine And.intro ?_ ?_
  all_goals first
    | decide +kernel
    | exact Prod.ext (by decide +kernel) (by dsimp only; congr <;> decide +kernel)

theorem witness_host_descriptors_deep_5 :
    let s : State := let s := admitAll 23 0x40003000 0x40003FFF ((running 3).set F.HIF_RCFG_CQLOG2 4 0 5); let s := { s.setRing 5 { s.ring 5 with out := [{ descOf [7, 1, 4096, 0, 50331648, 1024, 4] with started := false, progress := 0, data := [] }] } with ticks := 1000000000 }; let s := admitAll 106 0x7F0003000 0x7F0003FFF (admitAll 100 0x7F0000000 0x7F0000FFF s); s
    let s1 : State := (let b := begun s 5 0 ({ descOf [7, 1, 4096, 0, 50331648, 1024, 4] with started := false, progress := 0, data := [] }); (readParts regBytes 0 0 [(0x040003000000, 4)] b).2)
    let r : RingId := 5
    let i : BitVec 8 := 0
    let d : Desc := { descOf [7, 1, 4096, 0, 50331648, 1024, 4] with started := false, progress := 0, data := [] }
    let bs : List Byte := [0, 0, 0, 0]
    let b : State := begun s r i d;
    let fresh : Prop := d.progress = 0 ∧ d.tally = 0;
    s.wf = true ∧
      rising none s.net.epFence = true ∧
        descReady s r i 7 d ∧
          fresh ∧
            accParts b (d.pair 4) (d.word 6) true = [(d.pair 4, d.word 6)] ∧
              (d.word 1).testBit 0 = true ∧ readParts regBytes 0 (fieldOf (d.word 1) 1 2) [(d.pair 4, d.word 6)] b = (AccRes.data bs, s1) := by
  repeat' refine And.intro ?_ ?_
  all_goals first
    | decide +kernel
    | exact Prod.ext (by decide +kernel) (by dsimp only; congr <;> decide +kernel)

set_option maxRecDepth 20000 in
theorem witness_host_descriptors_deep_6 :
    let s : State := let s := admitAll 23 0x40003000 0x40003FFF ((running 3).set F.HIF_RCFG_CQLOG2 4 0 5); let s := { s.setRing 5 { s.ring 5 with out := [{ descOf [10, 0, 3145728, 1, 4096, 0] with started := false, progress := 0, data := [] }] } with ticks := 1000000000 }; let s := admitAll 106 0x7F0003000 0x7F0003FFF (admitAll 100 0x7F0000000 0x7F0000FFF s); s
    let s1 : State := (let b := begun s 5 0 ({ descOf [10, 0, 3145728, 1, 4096, 0] with started := false, progress := 0, data := [] }); (readParts regBytes 0 0 [(regBase + 0x300000, 4)] b).2)
    let r : RingId := 5
    let i : BitVec 8 := 0
    let d : Desc := { descOf [10, 0, 3145728, 1, 4096, 0] with started := false, progress := 0, data := [] }
    let bs : List Byte := [0, 0, 0, 0]
    let b : State := begun s r i d;
    let fresh : Prop := d.progress = 0 ∧ d.tally = 0;
    s.wf = true ∧
      rising none s.net.epFence = true ∧
        descReady s r i 10 d ∧
          fresh ∧
            (d.word 1).testBit 0 = false ∧
              d.word 2 % 4 = 0 ∧ d.word 3 = 1 ∧ readParts regBytes 0 0 [(regBase + d.word 2, 4)] b = (AccRes.data bs, s1) := by
  repeat' refine And.intro ?_ ?_
  all_goals rfl

theorem witness_cluster_failures :
    (let s : State := { cluX 5 kq with fuses := { State.reset.fuses with slotOk := 2 ^ 100 - 1 } }
     let c : ClusterId := 3
     let n : BitVec 7 := 3
     let spare : Nat := 4
     let p : Prog := ⟨0, 0, 0, 8, 64, 0, true, []⟩
     let k : Clu := s.clu ↑c;
     let die : Nat := dieOf ↑c;
     Regs.wf s.regs = true ∧
       cluState s ↑c = 5 ∧
         progressDue s ↑c = true ∧
           understudy s die = some spare ∧
             switching s die = false ∧ k.prog = some p ∧ p.retain = true ∧ s.get F.CLU_STATUS_SLOT ↑c < 5 ∧ n.toNat = ↑c) ∧
    (let s : State := { cluX 5 kq with fuses := { State.reset.fuses with slotOk := 2 ^ 100 - 1 } }
     let c : ClusterId := 3
     let n : BitVec 7 := 80
     Regs.wf s.regs = true ∧ (80 ≤ n.toNat ∨ n.toNat = ↑c ∧ cluState s ↑c ≠ 5)) ∧
    (let s : State := { cluX 5 { kq with queues := [] } with fuses := { State.reset.fuses with slotOk := 2 ^ 100 - 1 } }
     let c : ClusterId := 3
     Regs.wf s.regs = true ∧ (cluState s ↑c ≠ 5 ∧ cluState s ↑c ≠ 9 ∨ progressDue s ↑c = false)) ∧
    (let s : State := { cluX 5 kq with fuses := { State.reset.fuses with slotOk := 0 } }
     let c : ClusterId := 3
     let n : BitVec 7 := 3
     let k : Clu := s.clu ↑c;
     let die : Nat := dieOf ↑c;
     Regs.wf s.regs = true ∧
       cluState s ↑c = 5 ∧ progressDue s ↑c = true ∧ understudy s die = none ∧ nobodyWaits s c ∧ k.switch = none ∧ n.toNat = ↑c) ∧
    (let s : State := { cluX 9 kq with fuses := { State.reset.fuses with slotOk := 2 ^ 100 - 1 } }
     let c : ClusterId := 3
     Regs.wf s.regs = true ∧ cluState s ↑c = 9 ∧ progressDue s ↑c = true) := by
  refine ⟨?_, ?_, ?_, ?_, ?_⟩ <;> decide +kernel

theorem witness_switch_in_1 :
    (let s : State := let s := (cluX 10 { k0 with prog := some ⟨0x040000000000, imageCrc [], 0, 8, 64, 0, true, []⟩, switch := some ⟨2, 3, 4, 0, 0, 5⟩ }); let s := { s with ticks := 1000000000 }; let s := (s.set F.CLU_STATUS_STATE 5 0); s
     let w : SwitchSt := ⟨2, 3, 4, 0, 0, 5⟩
     let i : Nat := 0;
     Regs.wf s.regs = true ∧ Memory.wf s.mem = true ∧ w.oldSlot < 5 ∧ w.newSlot < 5 ∧ w.oldSlot ≠ w.newSlot ∧ i < 8388608) ∧
    (let s : State := let s := (cluX 10 { k0 with prog := some ⟨0x040000000000, imageCrc [], 0, 8, 64, 0, true, []⟩, switch := some ⟨2, 3, 4, 0, 0, 5⟩ }); let s := { s with ticks := 1000000000 }; let s := (s.set F.CLU_STATUS_STATE 5 0); s
     let w : SwitchSt := ⟨2, 3, 4, 0, 0, 5⟩
     let i : Nat := 0;
     Regs.wf s.regs = true ∧ Memory.wf s.mem = true ∧ w.oldSlot < 5 ∧ w.newSlot < 5 ∧ w.oldSlot ≠ w.newSlot ∧ i < 1048576) ∧
    (let s : State := let s := (cluX 10 { k0 with prog := some ⟨0x040000000000, imageCrc [], 0, 8, 64, 0, true, []⟩, switch := some ⟨2, 3, 4, 0, 0, 5⟩ }); let s := { s with ticks := 1000000000 }; let s := (s.set F.CLU_STATUS_STATE 5 0); s
     let c : ClusterId := 3
     let w : SwitchSt := ⟨2, 3, 4, 0, 0, 5⟩
     let k : Clu := s.clu ↑c;
     let at_ : Nat → Prop := fun (step : Nat) ↦ k.switch = some w ∧ w.step = step;
     Regs.wf s.regs = true ∧
       Memory.wf s.mem = true ∧
         at_ 0 ∧
           s.passedUs w.since 2 = true ∧
             writesAcked k = true ∧ w.oldSlot < 5 ∧ w.newSlot < 5 ∧ w.oldSlot ≠ w.newSlot ∧ (k.switch = none ∨ k.switch = some w ∧ w.step ≠ 2)) ∧
    (let s : State := let s := (cluX 10 { k0 with prog := some ⟨0x040000000000, imageCrc [], 0, 8, 64, 0, true, []⟩, switch := some ⟨2, 3, 4, 0, 0, 5⟩ }); let s := { s with ticks := 6 }; let s := (s.set F.CLU_STATUS_STATE 5 0); s
     let c : ClusterId := 3
     let w : SwitchSt := ⟨2, 3, 4, 0, 0, 5⟩
     let k : Clu := s.clu ↑c;
     let at_ : Nat → Prop := fun (step : Nat) ↦ k.switch = some w ∧ w.step = step;
     let due : Bool := s.passedUs ((lookup s.timers driftTimer).getD 0) (1000 * max 1 (s.get F.ERR_LDRIFT_INTERVAL));
     Regs.wf s.regs = true ∧
       Memory.wf s.mem = true ∧ at_ 0 ∧ (s.passedUs w.since 2 = false ∨ writesAcked k = false) ∧ (s.get F.ERR_LDRIFT_MARGIN = 0 ∨ due = false)) ∧
    (let s : State := let s := (cluX 10 { k0 with prog := some ⟨0x040000000000, imageCrc [], 0, 8, 64, 0, true, []⟩, switch := some ⟨2, 3, 4, 2, 0, 5⟩ }); let s := { s with ticks := 1000000000 }; let s := (s.set F.CLU_STATUS_STATE 5 0); s
     let c : ClusterId := 3
     let w : SwitchSt := ⟨2, 3, 4, 2, 0, 5⟩
     let k : Clu := s.clu ↑c;
     let at_ : Nat → Prop := fun (step : Nat) ↦ k.switch = some w ∧ w.step = step;
     Regs.wf s.regs = true ∧
       Memory.wf s.mem = true ∧
         at_ 2 ∧ k.active = none ∧ k.next = none ∧ noMops k ∧ k.xfers = [] ∧ k.wait = none ∧ k.flagWaits = [] ∧ nobodyWaits s c) ∧
    (let s : State := let s := (cluX 10 { k0 with prog := some ⟨0x040000000000, imageCrc [], 0, 8, 64, 0, true, []⟩, switch := some ⟨2, 3, 4, 0, 0, 5⟩ }); let s := { s with ticks := 1000000000 }; let s := (s.set F.CLU_STATUS_STATE 5 0); { (s.set F.PORT_STATUS_STATE 5 0).set F.PORT_STATUS_LMASK 15 0 with laneMargin := [(1, 9)], regs := (((s.set F.PORT_STATUS_STATE 5 0).set F.PORT_STATUS_LMASK 15 0).set F.ERR_LDRIFT_MARGIN 2).regs }
     let lane : LaneId := 1
     let v : BitVec 6 := 3
     let was : Nat := 9
     let due : Bool := s.passedUs ((lookup s.timers driftTimer).getD 0) (1000 * max 1 (s.get F.ERR_LDRIFT_INTERVAL));
     let fell : Prop := lookup s.laneMargin ↑lane = some was ∧ was < 64 ∧ v.toNat + s.get F.ERR_LDRIFT_MARGIN < was;
     Regs.wf s.regs = true ∧
       Memory.wf s.mem = true ∧
         s.get F.ERR_LDRIFT_MARGIN ≠ 0 ∧
           due = true ∧
             fell ∧
               ∃ (q : Nat),
                 q < 512 ∧ portState s q = 5 ∧ portLane s q ≤ ↑lane ∧ (s.get F.PORT_STATUS_LMASK q).testBit (↑lane - portLane s q) = true) := by
  refine ⟨?_, ?_, ?_, ?_, ?_, ?_⟩ <;> decide +kernel

theorem witness_switch_in_2 :
    let s : State := let s := (cluX 10 { k0 with prog := some ⟨0x040000000000, imageCrc [], 0, 8, 64, 0, true, []⟩, switch := some ⟨2, 3, 4, 0, 0, 5⟩ }); let s := { s with ticks := 1000000000 }; let s := (s.set F.CLU_STATUS_STATE 5 0); { (s.set F.PORT_STATUS_STATE 5 0).set F.PORT_STATUS_LMASK 15 0 with laneMargin := [(1, 9)], regs := (((s.set F.PORT_STATUS_STATE 5 0).set F.PORT_STATUS_LMASK 15 0).set F.ERR_LDRIFT_MARGIN 2).regs }
    let lane : LaneId := 1
    let v : BitVec 6 := 8
    let was : Nat := 9
    let due : Bool := s.passedUs ((lookup s.timers driftTimer).getD 0) (1000 * max 1 (s.get F.ERR_LDRIFT_INTERVAL));
    Regs.wf s.regs = true ∧
      Memory.wf s.mem = true ∧
        s.get F.ERR_LDRIFT_MARGIN ≠ 0 ∧ due = true ∧ lookup s.laneMargin ↑lane = some was ∧ was ≤ v.toNat + s.get F.ERR_LDRIFT_MARGIN := by
  decide +kernel

theorem witness_switch_in_deep_1 :
    let s : State := let s := (cluX 10 { k0 with prog := some ⟨0x040000000000, imageCrc [], 0, 8, 64, 0, true, []⟩, switch := some ⟨2, 3, 4, 1, 0, 5⟩ }); let s := { s with ticks := 1000000000 }; let s := (s.set F.CLU_STATUS_STATE 5 0); s
    let u : State := (match reload 3 ⟨0x040000000000, imageCrc [], 0, 8, 64, 0, true, []⟩ (moveSlot 3 ⟨2, 3, 4, 1, 0, 5⟩ s) with | some (_, u) => u | none => State.reset)
    let c : ClusterId := 3
    let w : SwitchSt := ⟨2, 3, 4, 1, 0, 5⟩
    let p : Prog := ⟨0x040000000000, imageCrc [], 0, 8, 64, 0, true, []⟩
    let k : Clu := s.clu ↑c;
    let at_ : Nat → Prop := fun (step : Nat) ↦ k.switch = some w ∧ w.step = step;
    Regs.wf s.regs = true ∧
      Memory.wf s.mem = true ∧
        (k.switch = none ∨ k.switch = some w ∧ w.step ≠ 0) ∧
          at_ 1 ∧ k.prog = some p ∧ reload (↑c) p (moveSlot (↑c) w s) = some (true, u) ∧ (u.clu ↑c).hash.settings = none ∧ nobodyWaits s c := by
  repeat' refine And.intro ?_ ?_
  all_goals first
    | decide +kernel
    | rfl

theorem witness_security_root :
    (let s : State := let s : State := { State.reset with ticks := 1000000000 }; (s.set F.SEC_SVN_RUN 9).set F.SEC_SVN_FLASH 9
     let v : Byte := 5
     let arb : Nat := s.fuses.arb;
     let allowed : Prop :=
       arb < BitVec.toNat v ∧
         BitVec.toNat v ≤ 64 ∧ BitVec.toNat v ≤ s.get F.SEC_SVN_RUN ∧ BitVec.toNat v ≤ s.get F.SEC_SVN_FLASH ∧ s.flag F.SEC_ARB_BUSY = false;
     let blown : Bool := s.passedUs ((lookup s.timers arbTimer).getD 0) (1000 * (s.sec.advanceTo - arb));
     Regs.wf s.regs = true ∧
       Memory.wf s.flash = true ∧
         allowed ∧ (s.flag F.SEC_ARB_BUSY = false ∨ blown = false) ∧ s.flag F.SEC_UPD_STATUS_BUSY = false ∧ bootStage s ≠ 7) ∧
    (let s : State := let s : State := { State.reset with ticks := 1000000000 }; (s.set F.SEC_SVN_RUN 9).set F.SEC_SVN_FLASH 9
     let v : Byte := 0
     let arb : Nat := s.fuses.arb;
     let allowed : Prop :=
       arb < BitVec.toNat v ∧
         BitVec.toNat v ≤ 64 ∧ BitVec.toNat v ≤ s.get F.SEC_SVN_RUN ∧ BitVec.toNat v ≤ s.get F.SEC_SVN_FLASH ∧ s.flag F.SEC_ARB_BUSY = false;
     Regs.wf s.regs = true ∧ Memory.wf s.flash = true ∧ ¬allowed) ∧
    (let s : State := let s : State := { State.reset with ticks := 1000000000 }; { s.set F.SEC_ARB_BUSY 1 with sec := { s.sec with advanceTo := 7 } }
     let arb : Nat := s.fuses.arb;
     let blown : Bool := s.passedUs ((lookup s.timers arbTimer).getD 0) (1000 * (s.sec.advanceTo - arb));
     Regs.wf s.regs = true ∧ Memory.wf s.flash = true ∧ s.flag F.SEC_ARB_BUSY = true ∧ blown = true) ∧
    (let s : State := let s : State := { State.reset with ticks := 1000000000 }; s.set F.HIF_STATUS_READY 1 |>.set F.SEC_UPD_STATUS_BUSY 1
     Regs.wf s.regs = true ∧ Memory.wf s.flash = true ∧ s.flag F.HIF_STATUS_READY = true ∧ updBusy s = true ∧ s.flag F.SEC_UPD_STATUS_BUSY = true) ∧
    (let s : State := let s : State := { State.reset with ticks := 1000000000 }; let s := (s.set F.CAL_BOOT_STAGE 7).set F.SEC_PUSH_CTL_LEN (bare : List Byte).length; { s with sec := { s.sec with push := (bare : List Byte).zipIdx.map fun x => (x.2, x.1) }, fuses := { s.fuses with vkHash := [1, 0, 0, 0, 0, 0, 0, 0] } }
     Regs.wf s.regs = true ∧ Memory.wf s.flash = true ∧ bootStage s = 7 ∧ s.flag F.SEC_PUSH_STATUS_BUSY = false ∧ checkImage s (pushed s) ≠ 0) := by
  refine ⟨?_, ?_, ?_, ?_, ?_⟩ <;> decide +kernel

set_option maxRecDepth 20000 in
theorem witness_security_root_deep_1 :
    let s : State := let s : State := { State.reset with ticks := 1000000000 }; let s := admitAll 23 0x40003000 0x40003FFF ((running 3).set F.HIF_STATUS_READY 1); let s := (s.set F.SEC_UPD_ADDR_LO_ADDR 0x03000000).set F.SEC_UPD_ADDR_HI_ADDR 0x0400; let s := (s.set F.SEC_UPD_LEN_LEN ([1, 2, 3, 4] : List Byte).length).memWrite (scratchKey (slotOf s 3)) [1, 2, 3, 4]; { s with fuses := { s.fuses with vkHash := [1, 0, 0, 0, 0, 0, 0, 0] }, flash := [(1, 5), (0x500000, 6)] }
    let s1 : State := (memRead 1 (updAddr s) (s.get F.SEC_UPD_LEN_LEN) 0 s).2
    let img : List Byte := [1, 2, 3, 4]
    let free : Prop :=
      s.flag F.HIF_STATUS_READY = true ∧
        updBusy s = false ∧ s.sec.calBusy = none ∧ memRead 1 (updAddr s) (s.get F.SEC_UPD_LEN_LEN) 0 s = (AccRes.data img, s1);
    Regs.wf s.regs = true ∧ Memory.wf s.flash = true ∧ free ∧ checkImage s1 img ≠ 0 := by
  repeat' refine And.intro ?_ ?_
  all_goals first
    | decide +kernel
    | exact Prod.ext (by decide +kernel) rfl

theorem witness_identity_and_debug :
    (let s : State := let s := (State.reset.set F.SEC_STATUS_IDVALID 0).set F.SEC_STATUS_DBGFAILS 0; { s with hif.doe.stage := 0, flash := [(identityBase, 16), (identityBase + 1, 0), (identityBase + 2, 0), (identityBase + 3, 0)] }
     let ws : Vector Word 44 := Vector.replicate 44 0
     let stage : Nat := s.hif.doe.stage;
     let fails : Nat := s.get F.SEC_STATUS_DBGFAILS;
     Regs.wf s.regs = true ∧ stage ≠ 1 ∧ stage < 3 ∧ (tokenGood s ws.toList = false ∨ 8 ≤ fails)) ∧
    (let s : State := let s := (State.reset.set F.SEC_STATUS_IDVALID 0).set F.SEC_STATUS_DBGFAILS 0; { s with hif.doe.stage := 1, flash := [(identityBase, 16), (identityBase + 1, 0), (identityBase + 2, 0), (identityBase + 3, 0)] }
     let stage : Nat := s.hif.doe.stage;
     Regs.wf s.regs = true ∧ stage = 1) ∧
    (let s : State := let s := (State.reset.set F.SEC_STATUS_IDVALID 0).set F.SEC_STATUS_DBGFAILS 0; { s with hif.doe.stage := 2, flash := [(identityBase, 16), (identityBase + 1, 0), (identityBase + 2, 0), (identityBase + 3, 0)] }
     let stage : Nat := s.hif.doe.stage;
     Regs.wf s.regs = true ∧ stage = 2) ∧
    (let s : State := let s := (State.reset.set F.SEC_STATUS_IDVALID 0).set F.SEC_STATUS_DBGFAILS 0; { s with hif.doe.stage := 3, flash := [(identityBase, 16), (identityBase + 1, 0), (identityBase + 2, 0), (identityBase + 3, 0)] }
     let index : Byte := 1
     let stage : Nat := s.hif.doe.stage;
     let valid : Bool := s.flag F.SEC_STATUS_IDVALID;
     Regs.wf s.regs = true ∧ 3 ≤ stage ∧ valid = false ∧ 1 ≤ BitVec.toNat index ∧ BitVec.toNat index ≤ 5) ∧
    (let s : State := let s := (State.reset.set F.SEC_STATUS_IDVALID 0).set F.SEC_STATUS_DBGFAILS 0; { s with hif.doe.stage := 3, flash := [(identityBase, 16), (identityBase + 1, 0), (identityBase + 2, 0), (identityBase + 3, 0)] }
     let index : Byte := 9
     let stage : Nat := s.hif.doe.stage;
     Regs.wf s.regs = true ∧ 3 ≤ stage ∧ 5 < BitVec.toNat index ∧ BitVec.toNat index < 255) ∧
    (let s : State := let s := (State.reset.set F.SEC_STATUS_IDVALID 1).set F.SEC_STATUS_DBGFAILS 0; { s with hif.doe.stage := 3, flash := [(identityBase, 16), (identityBase + 1, 0), (identityBase + 2, 0), (identityBase + 3, 0)] }
     let off : BitVec 16 := 0
     let stage : Nat := s.hif.doe.stage;
     let valid : Bool := s.flag F.SEC_STATUS_IDVALID;
     let chain : List Byte := certChain s;
     Regs.wf s.regs = true ∧ 3 ≤ stage ∧ valid = true ∧ off.toNat < chain.length) := by
  refine ⟨?_, ?_, ?_, ?_, ?_, ?_⟩ <;> decide +kernel

theorem witness_thermal_1 :
    (let s : State := late State.reset
     let temps : List (BitVec 11) := temps 200
     let n : StackId := 3
     let cap : State → Nat := fun (t : State) ↦ t.get F.CLK_STG_STATUS_CAP 0 ↑n;
     let u : State := sensed temps s;
     let down : Bool := s.passedUs (s.die ↑n).capAt (1000 * max 1 (s.get F.PWR_THYST_STEPDN));
     let up : Bool := s.passedUs (s.die ↑n).capAt (1000 * max 1 (s.get F.PWR_THYST_STEPUP));
     Regs.wf s.regs = true ∧
       s.board.thermTrip = false ∧
         temps.length = 200 ∧
           (∀ (g : Nat), g < 84 → nextHeat u g (hottest u g).snd = heatOf s g) ∧
             (throttled s ↑n = false ∨ down = false) ∧ throttled s ↑n = false ∧ cap s < calMax s ∧ up = true) ∧
    (let s : State := late State.reset
     let g : Nat := 3
     let l : Nat := 1
     let x : Int := 370
     Regs.wf s.regs = true ∧ 1 ≤ l ∧ l ≤ 4 ∧ threshold s g l ≤ x ∧ nextHeat s g x = l) ∧
    (let s : State := { late State.reset with board.thermTrip := true }
     Regs.wf s.regs = true ∧ s.board.thermTrip = true) ∧
    (let s : State := { late State.reset with heat := [(3, 2)] }
     let n : StackId := 3
     let cap : State → Nat := fun (t : State) ↦ t.get F.CLK_STG_STATUS_CAP 0 ↑n;
     let down : Bool := s.passedUs (s.die ↑n).capAt (1000 * max 1 (s.get F.PWR_THYST_STEPDN));
     let up : Bool := s.passedUs (s.die ↑n).capAt (1000 * max 1 (s.get F.PWR_THYST_STEPUP));
     Regs.wf s.regs = true ∧ throttled s ↑n = true ∧ down = true ∧ (throttled s ↑n = true ∨ calMax s ≤ cap s ∨ up = false)) ∧
    (let s : State := (List.range 6).foldl (fun s i => s.set F.PWR_TS_TEMP 395 0 (18 + i)) (late State.reset)
     let n : StackId := 3
     Regs.wf s.regs = true ∧ nextHeat s (↑n) (hottest s ↑n).snd = 2 ∧ heatOf s ↑n < 2 ∧ throttled s ↑n = false) ∧
    (let s : State := (List.range 6).foldl (fun s i => s.set F.PWR_TS_TEMP 425 0 (18 + i)) (late State.reset)
     let n : StackId := 3
     Regs.wf s.regs = true ∧ nextHeat s (↑n) (hottest s ↑n).snd = 3 ∧ heatOf s ↑n < 3) := by
  refine ⟨?_, ?_, ?_, ?_, ?_, ?_⟩ <;> decide +kernel

theorem witness_thermal_2 :
    let s : State := (List.range 6).foldl (fun s i => s.set F.PWR_TS_TEMP 440 0 (18 + i)) (late State.reset)
    let g : Nat := 3
    Regs.wf s.regs = true ∧ nextHeat s g (hottest s g).snd = 4 ∧ heatOf s g < 4 ∧ ∀ (p : Nat), p < 512 → portState s p = 0 := by
  decide +kernel

theorem witness_power_and_clocks_1 :
    (let s : State := ((late State.reset).set F.CLK_STG_STATUS_CAP 1500 0 3).set F.CLK_STG_STATUS_CUR 1000 0 3
     let n : StackId := 3
     let mhz : BitVec 12 := 1200
     let k : Fin 60 := 3
     let d : Fin 262 := 103
     let x : DieClk := s.die ↑n;
     let goal : Nat := min (max 900 (mhz.toNat / 25 * 25)) (min (s.get F.CLK_STG_STATUS_CAP 0 ↑n) (calMax s));
     let cur : Nat := curMhz s ↑n;
     let fresh : Prop := ¬(goal = x.goal ∧ x.phase ≠ 0);
     let settled : Bool := s.passedUs x.since (max 1 (s.get F.CLK_VSETTLE_US));
     let idleAt : Option Nat := lookup s.timers (engineTimer ↑n);
     Regs.wf s.regs = true ∧
       fresh ∧
         cur < goal ∧
           (x.phase ≠ 1 ∨ settled = false) ∧
             (x.phase < 2 ∨ cur ≠ x.goal) ∧
               locked s ↑k = false ∧
                 s.board.thermTrip = false ∧
                   100 ≤ ↑d ∧ domainWanted s ↑d = false ∧ (idleAt = none ∨ engineNeeded s ↑n = true) ∧ s.armed CommitGroup.clk = false) ∧
    (let s : State := ((late State.reset).set F.CLK_STG_STATUS_CAP 1500 0 3).set F.CLK_STG_STATUS_CUR 1000 0 3
     let n : StackId := 3
     let mhz : BitVec 12 := 900
     let x : DieClk := s.die ↑n;
     let goal : Nat := min (max 900 (mhz.toNat / 25 * 25)) (min (s.get F.CLK_STG_STATUS_CAP 0 ↑n) (calMax s));
     let cur : Nat := curMhz s ↑n;
     let fresh : Prop := ¬(goal = x.goal ∧ x.phase ≠ 0);
     Regs.wf s.regs = true ∧ fresh ∧ goal < cur) ∧
    (let s : State := { (((late State.reset).set F.CLK_STG_STATUS_CAP 1500 0 3).set F.CLK_STG_STATUS_CUR 1000 0 3) with dies := [(3, ⟨1, 5, 1200, 0⟩)] }
     let n : StackId := 3
     let x : DieClk := s.die ↑n;
     let settled : Bool := s.passedUs x.since (max 1 (s.get F.CLK_VSETTLE_US));
     Regs.wf s.regs = true ∧ x.phase = 1 ∧ settled = true) ∧
    (let s : State := (((late State.reset).set F.CLK_STG_STATUS_CAP 1500 0 3).set F.CLK_STG_STATUS_CUR 1000 0 3).setDie 3 ⟨1, 1200, 0, 0⟩
     let n : StackId := 3
     let mhz : BitVec 12 := 1200
     let x : DieClk := s.die ↑n;
     let goal : Nat := min (max 900 (mhz.toNat / 25 * 25)) (min (s.get F.CLK_STG_STATUS_CAP 0 ↑n) (calMax s));
     let fresh : Prop := ¬(goal = x.goal ∧ x.phase ≠ 0);
     Regs.wf s.regs = true ∧ ¬fresh) ∧
    (let s : State := (((late State.reset).set F.CLK_STG_STATUS_CAP 1500 0 3).set F.CLK_STG_STATUS_CUR 1000 0 3).setDie 3 ⟨2, 1000, 0, 0⟩
     let n : StackId := 3
     let x : DieClk := s.die ↑n;
     let cur : Nat := curMhz s ↑n;
     Regs.wf s.regs = true ∧ 2 ≤ x.phase ∧ cur = x.goal ∧ x.goal < 4096) ∧
    (let s : State := setLocked 3 true (((late State.reset).set F.CLK_STG_STATUS_CAP 1500 0 3).set F.CLK_STG_STATUS_CUR 1000 0 3)
     let k : Fin 60 := 3
     Regs.wf s.regs = true ∧ locked s ↑k = true) := by
  refine ⟨?_, ?_, ?_, ?_, ?_, ?_⟩ <;> decide +kernel

theorem witness_power_and_clocks_2 :
    (let s : State := { ((late State.reset).set F.CLK_STG_STATUS_CAP 1500 0 3).set F.CLK_STG_STATUS_CUR 1000 0 3 with timers := [(403, 5)] }
     let k : Fin 60 := 3
     let lostAt : Option Nat := lookup s.timers (lockTimer ↑k);
     let t : Nat := 5;
     Regs.wf s.regs = true ∧ lostAt = some t ∧ locked s ↑k = false ∧ s.passedUs t 1000 = true) ∧
    (let s : State := { ((late State.reset).set F.CLK_STG_STATUS_CAP 1500 0 3).set F.CLK_STG_STATUS_CUR 1000 0 3 with timers := [(103, 5)] }
     let n : StackId := 3
     let idleAt : Option Nat := lookup s.timers (engineTimer ↑n);
     let t : Nat := 5;
     Regs.wf s.regs = true ∧ idleAt = some t ∧ engineNeeded s ↑n = false ∧ s.passedUs t 1000 = true) ∧
    (let s : State := (((late State.reset).set F.CLK_STG_STATUS_CAP 1500 0 3).set F.CLK_STG_STATUS_CUR 1000 0 3).set F.PWR_DOM_STATE 3 0 243
     let d : Fin 262 := 243
     Regs.wf s.regs = true ∧ s.board.thermTrip = false ∧ 100 ≤ ↑d ∧ domainWanted s ↑d = true) ∧
    (let s : State := ((((late State.reset).set F.CLK_STG_STATUS_CAP 1500 0 3).set F.CLK_STG_STATUS_CUR 1000 0 3).set F.CLU_STATUS_STATE 6 2).set F.CLU_STATUS_SLOT 2 2
     let d : Fin 262 := 2
     let c : Nat := 2
     Regs.wf s.regs = true ∧ s.board.thermTrip = false ∧ ↑d < 100 ∧ slotCluster s ↑d = some c ∧ (cluState s c = 6 ∨ cluState s c = 7)) ∧
    (let s : State := { (((late State.reset).set F.CLK_STG_STATUS_CAP 1500 0 3).set F.CLK_STG_STATUS_CUR 1000 0 3).setPending .clk true with shadow := [(R.CLK_SSC.addr 0 0, 0x85#32)] }
     let v : Word := 133
     Regs.wf s.regs = true ∧ s.armed CommitGroup.clk = true ∧ s.shadow = [(R.CLK_SSC.addr 0 0, v)]) := by
  refine ⟨?_, ?_, ?_, ?_, ?_⟩ <;> decide +kernel

theorem witness_reset_and_boot_1 :
    (let s : State := { State.reset.set F.CAL_BOOT_STAGE 0 with flash := [(0, 0x4F), (calBase, 1), (calBase + 1, 0), (calBase + 2, 0), (calBase + 3, 0)] }
     Regs.wf s.regs = true ∧ bootStage s = 0 ∧ bootStage s ≠ 1 ∧ bootStage s ≠ 2 ∧ bootStage s ≠ 3 ∧ bootStage s ≠ 4 ∧ bootStage s ≠ 5) ∧
    (let s : State := { State.reset.set F.CAL_BOOT_STAGE 1 with flash := [(0, 0x4F), (calBase, 1), (calBase + 1, 0), (calBase + 2, 0), (calBase + 3, 0)] }
     Regs.wf s.regs = true ∧ bootStage s ≠ 0 ∧ bootStage s = 1) ∧
    (let s : State := { State.reset.set F.CAL_BOOT_STAGE 2 with flash := [(0, 0x4F), (calBase, 1), (calBase + 1, 0), (calBase + 2, 0), (calBase + 3, 0)] }
     let img : List Byte := flashImage s;
     Regs.wf s.regs = true ∧ bootStage s = 2 ∧ s.flag F.SEC_PUSH_CTL_WAIT = false ∧ s.sec.forced = false ∧ checkImage s img ≠ 0) ∧
    (let s : State := { State.reset.set F.CAL_BOOT_STAGE 3 with flash := [(0, 0x4F), (calBase, 1), (calBase + 1, 0), (calBase + 2, 0), (calBase + 3, 0)] }
     let set_ : List Byte := flashRead s calBase calSize;
     let check : Nat := 1;
     let o : Nat := 0;
     Regs.wf s.regs = true ∧ bootStage s = 3 ∧ setFault s set_ = some (check, o)) ∧
    (let s : State := { State.reset.set F.CAL_BOOT_STAGE 3 with flash := [(0, 0x4F), (calBase, 1), (calBase + 1, 0), (calBase + 2, 0), (calBase + 3, 0)] }
     Regs.wf s.regs = true ∧ bootStage s = 3) ∧
    (let s : State := { State.reset.set F.CAL_BOOT_STAGE 4 with flash := [(0, 0x4F), (calBase, 1), (calBase + 1, 0), (calBase + 2, 0), (calBase + 3, 0)] }
     Regs.wf s.regs = true ∧ bootStage s = 4) := by
  refine ⟨?_, ?_, ?_, ?_, ?_, ?_⟩ <;> decide +kernel

theorem witness_reset_and_boot_2 :
    (let s : State := { State.reset.set F.CAL_BOOT_STAGE 5 with flash := [(0, 0x4F), (calBase, 1), (calBase + 1, 0), (calBase + 2, 0), (calBase + 3, 0)] }
     Regs.wf s.regs = true ∧ bootStage s = 5) ∧
    (let s : State := { (State.reset.set F.CAL_BOOT_STAGE 2).set F.SEC_PUSH_CTL_WAIT 1 with flash := [(0, 0x4F), (calBase, 1), (calBase + 1, 0), (calBase + 2, 0), (calBase + 3, 0)] }
     Regs.wf s.regs = true ∧ bootStage s = 2 ∧ (s.flag F.SEC_PUSH_CTL_WAIT = true ∨ s.sec.forced = true)) ∧
    (let s : State := State.reset.set F.CAL_BOOT_STAGE 5
     let trained : List (Option (Fin 3 × Byte × Word)) := (List.replicate 20 (some (2, 40, 0)))
     let rate : Fin 3 := 2
     let temp : Byte := 40
     Regs.wf s.regs = true ∧ bootStage s = 5 ∧ trained = List.replicate 20 (some (rate, temp, 0))) := by
  refine ⟨?_, ?_, ?_⟩ <;> decide +kernel

theorem witness_smbus_target :
    (let s : State := let s := State.reset.set F.CAL_BOOT_STAGE 6; s
     let w : BitVec 16 := 4660
     let v : Word := 3145728
     let p : Byte := 0
     let lo : Nat := w.toNat % 256;
     let hi : Nat := w.toNat / 256;
     let good : Nat → List Nat → Prop := fun (cmd : Nat) (xs : List Nat) ↦ BitVec.toNat p = pecOf (smbByte s false :: cmd :: xs);
     bootStage s ≠ 0 ∧ smbReady s = true ∧ BitVec.toNat v % 4 = 0 ∧ ¬good 32 [lo, hi]) ∧
    (let s : State := let s := State.reset.set F.CAL_BOOT_STAGE 6; s.set F.CAL_BOOT_STAGE 3
     bootStage s ≠ 0 ∧ smbReady s = false) ∧
    (let s : State := let s := State.reset.set F.CAL_BOOT_STAGE 6; s
     let v : Word := 5
     bootStage s ≠ 0 ∧ smbReady s = true ∧ BitVec.toNat v % 4 ≠ 0) ∧
    (let s : State := let s := State.reset.set F.CAL_BOOT_STAGE 6; { s with board := { s.board with regAddr := 0xF0000000 } }
     bootStage s ≠ 0 ∧ smbReady s = true ∧ 2 ^ 26 ≤ BitVec.toNat s.board.regAddr) ∧
    (let s : State := let s := State.reset.set F.CAL_BOOT_STAGE 6; s
     let w : BitVec 16 := 4660
     let p : Byte := (BitVec.ofNat 8 (pecOf [0xB0, 0x20, 0x34, 0x12]))
     let lo : Nat := w.toNat % 256;
     let hi : Nat := w.toNat / 256;
     let good : Nat → List Nat → Prop := fun (cmd : Nat) (xs : List Nat) ↦ BitVec.toNat p = pecOf (smbByte s false :: cmd :: xs);
     bootStage s ≠ 0 ∧ smbReady s = true ∧ good 32 [lo, hi]) := by
  refine ⟨?_, ?_, ?_, ?_, ?_⟩ <;> decide +kernel

theorem witness_smbus_target_deep_1 :
    let s : State := let s := State.reset.set F.CAL_BOOT_STAGE 6; s
    let s1 : State := (writeParts regPut 1 0 [(0x7F0000000000 + s.board.regAddr.toNat, 4)] (toBytes 4 3145728) s).2
    let v : Word := 3145728
    let bs : List Byte := []
    let at_ : List (Nat × Nat) := [(139637976727552 + BitVec.toNat s.board.regAddr, 4)];
    bootStage s ≠ 0 ∧
      smbReady s = true ∧
        BitVec.toNat s.board.regAddr < 2 ^ 26 ∧ writeParts regPut 1 0 at_ (toBytes 4 (BitVec.toNat v)) s = (AccRes.data bs, s1) := by
  repeat' refine And.intro ?_ ?_
  all_goals first
    | decide +kernel
    | exact Prod.ext (by decide +kernel) (by dsimp only; congr <;> decide +kernel)

theorem witness_smbus_target_deep_2 :
    let s : State := let s := State.reset.set F.CAL_BOOT_STAGE 6; { s with board := { s.board with gpioDir := 0x0FF0, gpioOut := 0x5555, regAddr := 0x300000 } }
    let s1 : State := (readParts regBytes 1 0 [(0x7F0000000000 + s.board.regAddr.toNat, 4)] s).2
    let bs : List Byte := [0, 0, 0, 0]
    let at_ : List (Nat × Nat) := [(139637976727552 + BitVec.toNat s.board.regAddr, 4)];
    bootStage s ≠ 0 ∧ smbReady s = true ∧ BitVec.toNat s.board.regAddr < 2 ^ 26 ∧ readParts regBytes 1 0 at_ s = (AccRes.data bs, s1) := by
  repeat' refine And.intro ?_ ?_
  all_goals first
    | decide +kernel
    | rfl

set_option maxRecDepth 20000 in
theorem witness_smbus_target_deep_3 :
    let s : State := let s := State.reset.set F.CAL_BOOT_STAGE 6; (List.range 64).foldl (fun s i => s.set F.ACC_ENT_CTL_VALID 0 105 i) { s with board := { s.board with regAddr := 0x2000000 } }
    let s1 : State := (readParts regBytes 1 0 [(0x7F0000000000 + s.board.regAddr.toNat, 4)] s).2
    let cause : Nat := 1
    let at_ : List (Nat × Nat) := [(139637976727552 + BitVec.toNat s.board.regAddr, 4)];
    bootStage s ≠ 0 ∧ smbReady s = true ∧ BitVec.toNat s.board.regAddr < 2 ^ 26 ∧ readParts regBytes 1 0 at_ s = (AccRes.refused cause, s1) := by
  repeat' refine And.intro ?_ ?_
  all_goals first
    | decide +kernel
    | rfl

set_option maxRecDepth 20000 in
theorem witness_smbus_target_deep_4 :
    let s : State := let s := State.reset.set F.CAL_BOOT_STAGE 6; (List.range 64).foldl (fun s i => s.set F.ACC_ENT_CTL_VALID 0 105 i) { s with board := { s.board with regAddr := 0x2000000 } }
    let s1 : State := (writeParts regPut 1 0 [(0x7F0000000000 + s.board.regAddr.toNat, 4)] (toBytes 4 3145728) s).2
    let v : Word := 3145728
    let cause : Nat := 1
    let at_ : List (Nat × Nat) := [(139637976727552 + BitVec.toNat s.board.regAddr, 4)];
    bootStage s ≠ 0 ∧
      smbReady s = true ∧
        BitVec.toNat s.board.regAddr < 2 ^ 26 ∧ writeParts regPut 1 0 at_ (toBytes 4 (BitVec.toNat v)) s = (AccRes.refused cause, s1) := by
  repeat' refine And.intro ?_ ?_
  all_goals first
    | decide +kernel
    | rfl

theorem witness_protected_words :
    (let s : State := let s : State := { State.reset with upsets := [] }; s
     let cls : Nat := 0
     let at_ : Spot → Bool := fun x => x == .hash 2 3
     Regs.wf s.regs = true ∧ cls < 12 ∧ (∀ (v : Upset), v ∈ s.upsets → at_ v.spot = false) ∧ s.flag F.ERR_UELOG0_VALID = false) ∧
    (let s : State := let s : State := { State.reset with upsets := [⟨.hash 2 3, false⟩] }; s
     let cls : Nat := 0
     let at_ : Spot → Bool := fun x => x == .hash 2 3
     let u : Upset := ⟨.hash 2 3, false⟩
     let rest : List Upset := []
     Regs.wf s.regs = true ∧ cls < 12 ∧ s.upsets = u :: rest ∧ at_ u.spot = true ∧ (∀ (v : Upset), v ∈ rest → at_ v.spot = false) ∧ u.bad = false) ∧
    (let s : State := let s : State := { State.reset with upsets := [⟨.hash 2 3, true⟩, ⟨.sheet 3, true⟩] }; s
     let cls : Nat := 0
     let at_ : Spot → Bool := fun x => x == .hash 2 3
     let u : Upset := ⟨.hash 2 3, true⟩
     let rest : List Upset := [⟨.sheet 3, true⟩]
     Regs.wf s.regs = true ∧ cls < 12 ∧ s.upsets = u :: rest ∧ at_ u.spot = true ∧ (∀ (v : Upset), v ∈ rest → at_ v.spot = false) ∧ u.bad = true) ∧
    (let s : State := let s : State := { State.reset with upsets := [] }; s.set F.ERR_UELOG0_VALID 1
     let cls : Nat := 5
     Regs.wf s.regs = true ∧ cls < 12 ∧ s.flag F.ERR_UELOG0_VALID = true) ∧
    (let s : State := let s : State := { State.reset with upsets := [⟨.sample 0, true⟩] }; { s with net.samples := ⟨7 :: 0x123456789AB :: [], 0⟩ }
     let cls : Nat := 5
     let x : Nat := 7
     let y : Nat := 1250999896491
     let items : List Nat := []
     Regs.wf s.regs = true ∧
       cls < 12 ∧ s.upsets = [{ spot := Spot.sample 0, bad := true }] ∧ s.net.samples = { items := x :: y :: items, gap := 0 }) := by
  refine ⟨?_, ?_, ?_, ?_, ?_⟩ <;> decide +kernel

/-! Statements whose conditions read a value the spec leaves open, or a long computation. -/

/-- An outcome that is a next state has one. -/
theorem next_of {r : Host.Outcome State Fault Refusal} (h : after r (fun _ => true) = true) : ∃ t, r = .next t := by
  cases r with
  | next t => exact ⟨t, rfl⟩
  | fault f => cases h
  | refused f => cases h

theorem witness_register_instruction_frame :
    let s := atWord 3 0b00000000000_00011_00010_00001_000001#32 k0
    promptWord (.aluAdd 3 1 2 3) = some (3, 0b00000000000_00011_00010_00001_000001#32) ∧ (s.clu 3).loads = [] ∧
      readyFor s 3 0b00000000000_00011_00010_00001_000001#32 [] = true ∧ ∃ t, exec (.aluAdd 3 1 2 3) s = .next t :=
  ⟨by decide +kernel, by decide +kernel, by decide +kernel, next_of (by decide +kernel)⟩

/-- A VEC addition with that many repetitions, of columns `cols`. -/
def vecAt (rep cols : Nat) : State :=
  withMop 1 (([8, rep, 0, 0] ++ opdW 0 8 1 cols ++ opdW 16 8 1 cols ++ opdW 48 8 1 cols))

theorem witness_mop_row : mopRow (.vecAdd 3) = some (8, 0, 3, 1, runVec 0) ∧
    (((running 3).clu 3).queues.getD 1 IssueQ.empty).head = none := ⟨rfl, by decide +kernel⟩

theorem witness_mop_due : mopDue (vecAt 0 3) 3 1 mop0 8 0 ∧ mopRepeat (mopRunning (vecAt 0 3) 3 mop0 8).copy = 0 ∧
    mopDue (vecAt 1 0) 3 1 mop0 8 0 ∧ mopRepeat (mopRunning (vecAt 1 0) 3 mop0 8).copy ≠ 0 ∧
    ¬mopGood (vecAt 1 0) 3 (mopRunning (vecAt 1 0) 3 mop0 8).copy ∧
    mopDue (vecAt 1 3) 3 1 mop0 8 0 ∧ mopRepeat (mopRunning (vecAt 1 3) 3 mop0 8).copy ≠ 0 ∧
    mopGood (vecAt 1 3) 3 (mopRunning (vecAt 1 3) 3 mop0 8).copy := by decide +kernel

/-! An image the root accepts, where its signature verifies: the verification's answer is a free value. -/

/-- A firmware image of 64 bytes of code, security version 9. -/
def signed : List Byte :=
  toBytes 4 0x3146564F ++ toBytes 4 1 ++ toBytes 4 9 ++ toBytes 4 64 ++ List.replicate 240 0 ++ List.replicate 64 7

/-- Its key's fuse words. -/
def signedKey : List Word := wordsOf (Sha.digest (4 :: (signed.drop 0x40).take 64)).reverse

/-- Its signature verifies. -/
abbrev verifies : Prop :=
  Config.ecdsaVerify ((signed.drop 0x40).take 64) (imageDigest signed) ((signed.drop 0x80).take 64) = true

/-- The root trusts that key. -/
def trusts (s : State) : State := { s with fuses := { s.fuses with vkHash := signedKey } }

theorem signed_key : keyMatches ((signed.drop 0x40).take 64) signedKey = true := by decide +kernel

theorem signed_good {s : State} (h : verifies) (hk : s.fuses.vkHash = signedKey) (ha : s.fuses.arb ≤ 9) : checkImage s signed = 0 := by
  have hv : imageSvn signed = 9 := by decide +kernel
  unfold checkImage
  rw [if_neg (by decide +kernel), if_neg (by decide +kernel), if_neg (by rw [hk, signed_key]; decide),
    if_neg (by rw [show Config.ecdsaVerify _ _ _ = true from h]; decide), if_neg (by rw [hv]; omega)]

/-- An update or push of it, or a boot from it. -/
def signedState : State :=
  let s := admitAll 23 0x40003000 0x40003FFF (trusts ((running 3).set F.HIF_STATUS_READY 1))
  let s := (s.set F.SEC_UPD_ADDR_LO_ADDR 0x03000000).set F.SEC_UPD_ADDR_HI_ADDR 0x0400
  (s.set F.SEC_UPD_LEN_LEN signed.length).memWrite (scratchKey (slotOf s 3)) signed

/-- After it is read. -/
def signedRead : State := (memRead 1 (updAddr signedState) (signedState.get F.SEC_UPD_LEN_LEN) 0 signedState).2

set_option maxRecDepth 20000 in
theorem witness_update_go (h : verifies) : Regs.wf signedState.regs = true ∧ Memory.wf signedState.flash = true ∧
    signedState.flag F.HIF_STATUS_READY = true ∧ updBusy signedState = false ∧ signedState.sec.calBusy = none ∧
    memRead 1 (updAddr signedState) (signedState.get F.SEC_UPD_LEN_LEN) 0 signedState = (.data signed, signedRead) ∧
    Regs.wf signedRead.regs = true ∧ checkImage signedRead signed = 0 :=
  ⟨by decide +kernel, by decide +kernel, by decide +kernel, by decide +kernel, by decide +kernel, Prod.ext (by decide +kernel) rfl,
    by decide +kernel, signed_good h (by decide +kernel) (by decide +kernel)⟩

/-- It stands in the push window. -/
def signedPush : State :=
  let s := trusts ((State.reset.set F.CAL_BOOT_STAGE 7).set F.SEC_PUSH_CTL_LEN signed.length)
  { s with sec := { s.sec with push := signed.zipIdx.map fun x => (x.2, x.1) } }

theorem pushed_signed : pushed signedPush = signed := by decide +kernel

theorem witness_push_go (h : verifies) : Regs.wf signedPush.regs = true ∧ Memory.wf signedPush.flash = true ∧ bootStage signedPush = 7 ∧
    signedPush.flag F.SEC_PUSH_STATUS_BUSY = false ∧ signedPush.flag F.SEC_PUSH_CTL_PERSIST = false ∧
    checkImage signedPush (pushed signedPush) = 0 :=
  ⟨by decide +kernel, by decide +kernel, by decide +kernel, by decide +kernel, by decide +kernel,
    by rw [pushed_signed]; exact signed_good h (by decide +kernel) (by decide +kernel)⟩

/-- It stands in the flash. -/
def signedFlash : State :=
  let s := trusts (State.reset.set F.CAL_BOOT_STAGE 2)
  { s with flash := signed.zipIdx.map fun x => (x.2, x.1) }

theorem flash_signed : flashImage signedFlash = signed := by decide +kernel

theorem witness_rom_check (h : verifies) : Regs.wf signedFlash.regs = true ∧ bootStage signedFlash = 2 ∧
    signedFlash.flag F.SEC_PUSH_CTL_WAIT = false ∧ signedFlash.sec.forced = false ∧
    checkImage signedFlash (flashImage signedFlash) = 0 :=
  ⟨by decide +kernel, by decide +kernel, by decide +kernel, by decide +kernel,
    by rw [flash_signed]; exact signed_good h (by decide +kernel) (by decide +kernel)⟩

/-! A debug token the root accepts, where its signature verifies. -/

/-- A token of scope 5: the words of its header, the device's identity and nonce (both zero), a key and a signature. -/
def tokenWords : Vector Word 44 :=
  ⟨([0x4B4C4E55, 5].map (BitVec.ofNat 32) ++ List.replicate 10 0 ++ List.replicate 32 0x01020304).toArray, by decide +kernel⟩

/-- Its key's fuse words. -/
def tokenKey : List Word := wordsOf (Sha.digest (4 :: ((bytesOfWords tokenWords.toList).drop 48).take 64)).reverse

/-- A device that trusts the key. -/
def tokenState : State :=
  { State.reset with
    fuses := { State.reset.fuses with uid := [0, 0], dkHash := tokenKey, permLock := false }
    sec := { State.reset.sec with nonce := List.replicate 8 0 } }

/-- The token's signature verifies. -/
abbrev tokenVerifies : Prop :=
  Config.ecdsaVerify (((bytesOfWords tokenWords.toList).drop 48).take 64) (Sha.digest ((bytesOfWords tokenWords.toList).take 112))
    ((bytesOfWords tokenWords.toList).drop 112) = true

theorem witness_debug_token (h : tokenVerifies) : Regs.wf tokenState.regs = true ∧ tokenGood tokenState tokenWords.toList = true ∧
    tokenState.get F.SEC_STATUS_DBGFAILS < 8 := by
  have hk : keyMatches (((bytesOfWords tokenWords.toList).drop 48).take 64) tokenState.fuses.dkHash = true := by decide +kernel
  refine ⟨by decide +kernel, ?_, by decide +kernel⟩
  unfold tokenGood
  dsimp only
  rw [show Config.ecdsaVerify _ _ _ = true from h, hk]
  decide +kernel

/-! An attestation request whose answer fits its buffer: the length of an answer is a free value. -/

/-- Ring 5 holds ATTEST with a buffer of `n` bytes. -/
def attestState (n : Nat) : State :=
  withDesc [0x0D, 0, 0, 0, 12, 0x1000, 0, n] ringsOn

theorem witness_attest (h : (Config.spdmBytes (.version 1 2)).length ≤ 64) :
    (attestState 64).wf = true ∧ rising none (attestState 64).net.epFence = true ∧
    descReady (attestState 64) 5 0 0x0D (descOf [0x0D, 0, 0, 0, 12, 0x1000, 0, 64]) ∧
    0 < (descOf [0x0D, 0, 0, 0, 12, 0x1000, 0, 64]).word 4 ∧ (descOf [0x0D, 0, 0, 0, 12, 0x1000, 0, 64]).word 4 ≤ 4096 ∧
    spdmRespond (begun (attestState 64) 5 0 (descOf [0x0D, 0, 0, 0, 12, 0x1000, 0, 64])).hif.attest.stage .getVersion
      (begun (attestState 64) 5 0 (descOf [0x0D, 0, 0, 0, 12, 0x1000, 0, 64])) =
      (.version 1 2, 1, begun (attestState 64) 5 0 (descOf [0x0D, 0, 0, 0, 12, 0x1000, 0, 64])) ∧
    (Config.spdmBytes (.version 1 2)).length ≤ (descOf [0x0D, 0, 0, 0, 12, 0x1000, 0, 64]).word 7 :=
  ⟨by decide +kernel, by decide +kernel, by decide +kernel, by decide +kernel, by decide +kernel, rfl, h⟩

/-! An image that its rehearsal accepts. -/

/-- A fold, each step's value computed before the next. -/
def eager (f : Nat → Byte → Nat) : List Byte → Nat → Nat
  | [], c => c
  | b :: bs, c => match f c b with
    | 0 => eager f bs 0
    | n + 1 => eager f bs (n + 1)

theorem eager_eq (f : Nat → Byte → Nat) (bs : List Byte) (c : Nat) : eager f bs c = bs.foldl f c := by
  induction bs generalizing c with
  | nil => rfl
  | cons b bs ih =>
    rw [eager, List.foldl_cons]
    cases f c b <;> exact ih _

theorem crc32c_eq (bs : List Byte) : crc32c bs = eager crc32Byte bs 0xFFFFFFFF ^^^ 0xFFFFFFFF := by rw [eager_eq]; rfl

theorem bare_crc : imageCrc bare = 742569968 := by
  rw [imageCrc, crc32c_eq]
  decide +kernel

theorem bare_roles : (List.range 256).find? (fun f => 3 < imgRole bare f) = none := by
  rw [List.find?_eq_none]
  decide +kernel

theorem bare_format : formatFault bare = none := by
  unfold formatFault
  rw [if_neg (by decide +kernel), if_neg (by decide +kernel), if_neg (by decide +kernel), bare_crc, if_neg (by decide +kernel), bare_roles]
  decide +kernel

set_option maxRecDepth 100000 in
theorem witness_rehearsal_passes :
    let s := inState 3 3 { k0 with load := some (loadOf 0 bare) }
    Regs.wf s.regs = true ∧ (s.clu 3).load = some (loadOf 0 bare) ∧ cluState s 3 = 3 ∧ rehearse s 3 9 bare = none := by
  intro s
  refine ⟨by decide +kernel, by decide +kernel, by decide +kernel, ?_⟩
  unfold rehearse
  rw [bare_format]
  decide +kernel
/-! A calibration set that passes every check: a header, records of zero but for the points, and words that bring the CRC's register to
zero before each run of zeros. -/

/-- Its header before the CRC field. -/
def calHead : List Byte := toBytes 4 0x4C414356 ++ toBytes 4 1 ++ zeros 52

/-- Its points: 600 to 609 mV in each row. -/
def calPoints : List Byte := (List.range 200).flatMap fun i => toBytes 4 (600 + i % 10)

/-- The part up to the first run of zeros. -/
def calFirst : List Byte := zeros 0xFC0 ++ toBytes 4 3487327047

/-- The points' part. -/
def calSecond : List Byte := calPoints ++ (zeros 0xCE0 ++ toBytes 4 2269780289)

/-- The set after its CRC field. -/
def calRest : List Byte := calFirst ++ (zeros 0x12FFC ++ (calSecond ++ zeros 0x2AFFC))

/-- The set. -/
def calGood : List Byte := calHead ++ (toBytes 4 0xFFFFFFFF ++ calRest)

theorem calHead_length : calHead.length = 60 := by decide +kernel
theorem calFirst_length : calFirst.length = 0xFC4 := by decide +kernel
theorem calPoints_length : calPoints.length = 800 := by decide +kernel
theorem calSecond_length : calSecond.length = 0x1004 := by decide +kernel
theorem zeros_length (n : Nat) : (zeros n).length = n := List.length_replicate

theorem calRest_length : calRest.length = calSize - 0x40 := by
  rw [calRest, List.length_append, List.length_append, List.length_append, calFirst_length, calSecond_length, zeros_length, zeros_length]
  decide

theorem calGood_length : calGood.length = calSize := by
  rw [calGood, List.length_append, List.length_append, calHead_length, calRest_length]
  decide

/-- The CRC register stays zero over zeros. -/
theorem crc_zeros (n : Nat) : (zeros n).foldl crc32Byte 0 = 0 := by
  induction n with
  | zero => rfl
  | succ n ih =>
    rw [zeros, List.replicate_succ, List.foldl_cons, show crc32Byte 0 0 = 0 by decide]
    exact ih

theorem crc_first : (calHead ++ zeros 4 ++ calFirst).foldl crc32Byte 0xFFFFFFFF = 0 := by
  rw [← eager_eq]
  decide +kernel

theorem crc_second : calSecond.foldl crc32Byte 0 = 0 := by
  rw [← eager_eq]
  decide +kernel

theorem calGood_parts : calGood.take 0x3C = calHead ∧ calGood.drop 0x40 = calRest := by
  constructor
  · exact List.take_left' calHead_length
  · have h : (calHead ++ toBytes 4 0xFFFFFFFF).length = 0x40 := by decide +kernel
    rw [calGood, ← List.append_assoc]
    exact List.drop_left' h

theorem calGood_crc : setCrc calGood = 0xFFFFFFFF := by
  rw [setCrc, calGood_parts.1, calGood_parts.2, crc32c, calRest, ← List.append_assoc, List.foldl_append, crc_first,
    List.foldl_append, crc_zeros, List.foldl_append, crc_second, crc_zeros]
  decide

/-- A byte that is not listed is zero. -/
abbrev allListed (k : Nat) (l : List Byte) : Prop := ∀ o, o < l.length → calListed (k + o) = true ∨ l.getD o 0 = 0

theorem allListed_append {k n : Nat} {l m : List Byte} (hl : allListed k l) (hn : l.length = n) (hm : allListed (k + n) m) :
    allListed k (l ++ m) := by
  intro o ho
  rcases Nat.lt_or_ge o l.length with h | h
  · rw [List.getD_eq_getElem?_getD, List.getElem?_append_left h, ← List.getD_eq_getElem?_getD]
    exact hl o h
  · rw [List.getD_eq_getElem?_getD, List.getElem?_append_right h, ← List.getD_eq_getElem?_getD]
    rw [List.length_append] at ho
    have := hm (o - l.length) (by omega)
    rwa [show k + n + (o - l.length) = k + o by omega] at this

theorem allListed_zeros (k n : Nat) : allListed k (zeros n) := fun o _ => .inr (by
  rw [zeros, List.getD_eq_getElem?_getD, List.getElem?_replicate]
  split <;> rfl)

theorem calGood_listed : allListed 0 calGood :=
  allListed_append (allListed_append (n := 8) (l := toBytes 4 0x4C414356 ++ toBytes 4 1) (by decide +kernel) (by decide +kernel)
      (allListed_zeros 8 52)) calHead_length
    (allListed_append (n := 4) (by decide +kernel) (by decide +kernel)
      (allListed_append (allListed_append (allListed_zeros _ _) (zeros_length _) (by decide +kernel)) calFirst_length
        (allListed_append (allListed_zeros _ _) (zeros_length _)
          (allListed_append (allListed_append (n := 800) (by decide +kernel) calPoints_length
            (allListed_append (allListed_zeros _ _) (zeros_length _) (by decide +kernel))) calSecond_length (allListed_zeros _ _)))))

theorem calGood_points : badPoint calGood = none := by
  have hw : ∀ x n, calWord calGood (0x14000 + x) n = calWord (calSecond ++ zeros 0x2AFFC) x n := by
    intro x n
    have h : (calHead ++ (toBytes 4 0xFFFFFFFF ++ (calFirst ++ zeros 0x12FFC))).length = 0x14000 := by
      rw [List.length_append, List.length_append, List.length_append, calHead_length, calFirst_length, zeros_length]
      decide
    rw [calWord, calWord, calGood, calRest, ← List.append_assoc calFirst, ← List.append_assoc (toBytes 4 0xFFFFFFFF), ← List.append_assoc calHead,
      ← List.drop_drop, List.drop_left' h]
  have hm : ∀ n k, setMv calGood n k = calWord (calSecond ++ zeros 0x2AFFC) (40 * n + 4 * k) 2 % 1024 := by
    intro n k
    rw [setMv, Nat.add_assoc, hw]
  rw [badPoint]
  simp only [hm]
  rw [List.find?_eq_none]
  decide +kernel

theorem calGood_passes (s : State) (hu : s.fuses.uid = [0, 0]) : setFault s calGood = none := by
  have hr : ((List.range calSize).find? fun o => !calListed o && (calGood.getD o 0 != 0)) = none := by
    rw [List.find?_eq_none]
    intro o ho
    rcases calGood_listed o (by rw [calGood_length]; exact List.mem_range.mp ho) with h | h
    · rw [Nat.zero_add] at h
      rw [h, Bool.not_true, Bool.false_and]; decide
    · rw [h, show ((0 : Byte) != 0) = false by decide, Bool.and_false]; decide
  have ht : ((List.range 20).find? fun n => fieldOf (calWord calGood 0x10 8) (2 * n) 2 == 3) = none := by
    rw [List.find?_eq_none]
    decide +kernel
  unfold setFault
  rw [hr, ht, calGood_points, calGood_crc, hu]
  rw [if_neg (by decide +kernel), if_neg (by decide +kernel), if_neg (by decide +kernel), if_neg (by decide +kernel)]

/-- The flash's cells that hold `l` from `base` on. -/
theorem lookup_cells (base : Nat) (l : List Byte) (n i : Nat) (h : i < l.length) :
    lookup ((l.zipIdx n).map fun x => (base + x.2, x.1)) (base + (n + i)) = l[i]? := by
  induction l generalizing n i with
  | nil => cases h
  | cons b l ih =>
    rw [List.zipIdx_cons, List.map_cons, lookup]
    cases i with
    | zero => simp
    | succ i =>
      rw [if_neg (by omega), show n + (i + 1) = n + 1 + i by omega, ih (n + 1) i (by simpa using h)]
      simp

/-- The set in the flash, at the stage that reads it. -/
def calState : State := { State.reset.set F.CAL_BOOT_STAGE 3 with flash := calGood.zipIdx.map fun x => (calBase + x.2, x.1) }

theorem calState_flash : flashRead calState calBase calSize = calGood := by
  refine List.ext_getElem (by rw [calGood_length]; simp [flashRead]) fun i h1 h2 => ?_
  have := lookup_cells calBase calGood 0 i h2
  rw [Nat.zero_add] at this
  simp only [flashRead, List.getElem_map, List.getElem_range, calState, this, List.getElem?_eq_getElem h2, Option.getD_some]

theorem witness_calread_done : Regs.wf calState.regs = true ∧ bootStage calState = 3 ∧
    setFault calState (flashRead calState calBase calSize) = none :=
  ⟨by decide +kernel, by decide +kernel, by rw [calState_flash]; exact calGood_passes _ rfl⟩

end Sys2Proof.Tests
end

section
/-! The rules of the register file that the access statements use: a field read after fields of registers were set. -/

namespace Sys2Proof.Proofs
open Sys2Proof.Machine Sys2Proof.Laws

/-! Bits of fields. -/

/-- `withField` keeps what lies above and below its field and puts `v` between. -/
theorem withField_eq (n lo w v : Nat) :
    withField n lo w v = 2 ^ lo * (2 ^ w * (n / 2 ^ lo / 2 ^ w) + v % 2 ^ w) + n % 2 ^ lo := by
  have hlo := Nat.div_add_mod n (2 ^ lo)
  have hw := Nat.div_add_mod (n / 2 ^ lo) (2 ^ w)
  have hn : n = 2 ^ lo * (2 ^ w * (n / 2 ^ lo / 2 ^ w)) + n / 2 ^ lo % 2 ^ w * 2 ^ lo + n % 2 ^ lo := by
    rw [Nat.mul_comm (_ % _), ← Nat.mul_add, hw, hlo]
  rw [withField, fieldOf, Nat.shiftRight_eq_div_pow, Nat.shiftLeft_eq, Nat.shiftLeft_eq, Nat.mul_add,
    Nat.mul_comm (2 ^ lo) (v % _)]
  omega

theorem testBit_withField (n lo w v k : Nat) :
    (withField n lo w v).testBit k = if lo ≤ k ∧ k < lo + w then v.testBit (k - lo) else n.testBit k := by
  rw [withField_eq, Nat.testBit_two_pow_mul_add _ (Nat.mod_lt _ (Nat.two_pow_pos lo))]
  by_cases hlo : k < lo
  · rw [if_pos hlo, if_neg (by omega), Nat.testBit_mod_two_pow, decide_eq_true hlo, Bool.true_and]
  rw [if_neg hlo, Nat.testBit_two_pow_mul_add _ (Nat.mod_lt _ (Nat.two_pow_pos w))]
  by_cases hw : k - lo < w
  · rw [if_pos hw, if_pos (by omega), Nat.testBit_mod_two_pow, decide_eq_true hw, Bool.true_and]
  · rw [if_neg hw, if_neg (by omega), Nat.testBit_div_two_pow, Nat.testBit_div_two_pow]
    congr 1; omega

theorem testBit_fieldOf (n lo w k : Nat) : (fieldOf n lo w).testBit k = (decide (k < w) && n.testBit (lo + k)) := by
  rw [fieldOf, Nat.testBit_mod_two_pow, Nat.testBit_shiftRight]

/-- The field that was put into a word of 32 bits. -/
theorem fieldOf_withField_same (n lo w v : Nat) (h : lo + w ≤ 32) :
    fieldOf (withField n lo w v % 2 ^ 32) lo w = v % 2 ^ w := by
  refine Nat.eq_of_testBit_eq fun k => ?_
  rw [testBit_fieldOf, Nat.testBit_mod_two_pow, Nat.testBit_mod_two_pow, testBit_withField]
  by_cases hk : k < w
  · rw [if_pos (by omega), decide_eq_true (show lo + k < 32 by omega), Nat.add_sub_cancel_left, Bool.true_and]
  · simp [hk]

/-- A field beside the one that was put into a word of 32 bits. -/
theorem fieldOf_withField_apart (n lo w v lo' w' : Nat) (h : lo' + w' ≤ 32) (hd : lo' + w' ≤ lo ∨ lo + w ≤ lo') :
    fieldOf (withField n lo w v % 2 ^ 32) lo' w' = fieldOf n lo' w' := by
  refine Nat.eq_of_testBit_eq fun k => ?_
  rw [testBit_fieldOf, testBit_fieldOf, Nat.testBit_mod_two_pow, testBit_withField]
  by_cases hk : k < w'
  · rw [if_neg (by omega), decide_eq_true (show lo' + k < 32 by omega), Bool.true_and]
  · simp [hk]

/-! Registers whose reset word is the literal one. -/

/-- Whether a register's reset word is the literal one in every instance, by no rule of `resetWord`. -/
def literalReset (r : Reg) : Bool :=
  match r.blk with
  | .ACC => decide (0x10 ≤ r.off)
  | .PORT | .LINK | .POOL | .CLU => false
  | _ => true

theorem resetWord_of_literalReset (r : Reg) (i j : Nat) (h : literalReset r = true) : resetWord r i j = r.literal := by
  unfold literalReset at h
  unfold resetWord
  cases hb : r.blk <;> simp only [hb, decide_eq_true_eq, Bool.false_eq_true] at h ⊢
  rw [if_neg (by omega)]

/-- A field of such a register that lies within 32 bits, as its register's reset word does. -/
def plainField (f : Fld) : Bool :=
  literalReset f.reg && decide (f.reg.literal < 2 ^ 32) && decide (f.lo + f.width ≤ 32)

theorem plainField_iff (f : Fld) :
    plainField f = true ↔ literalReset f.reg = true ∧ f.reg.literal < 2 ^ 32 ∧ f.lo + f.width ≤ 32 := by
  simp [plainField, and_assoc]

theorem resetWord_lt (f : Fld) (i j : Nat) (h : plainField f = true) : resetWord f.reg i j < 2 ^ 32 := by
  obtain ⟨hr, hl, -⟩ := (plainField_iff f).1 h
  rwa [resetWord_of_literalReset _ i j hr]

/-- Two fields that share no bit: of two registers of one block, or of one register. -/
def apart (f g : Fld) : Bool :=
  (f.reg.blk == g.reg.blk && f.reg.off != g.reg.off) ||
    (f.reg == g.reg && (decide (f.lo + f.width ≤ g.lo) || decide (g.lo + g.width ≤ f.lo)))

theorem addr_ne_of_off_ne (r r' : Reg) (i : Nat) (hb : r.blk = r'.blk) (ho : r.off ≠ r'.off) : r.addr i 0 ≠ r'.addr i 0 := by
  simp only [Reg.addr, hb, Nat.zero_mul, Nat.add_zero]
  omega

/-- A register of the same instance beside one that was cleared. -/
theorem rd_zero_of_off_ne (s : State) (r r' : Reg) (i : Nat) (hb : r'.blk = r.blk) (ho : r'.off ≠ r.off) :
    (s.zero r i).rd r' i 0 = s.rd r' i 0 :=
  rd_wr_ne s r r' i 0 i 0 0 (addr_ne_of_off_ne r' r i hb ho)

theorem get_of_rd_eq_zero (s : State) (f : Fld) (i j : Nat) (h : s.rd f.reg i j = 0) : s.get f i j = 0 := by
  rw [State.get, h, fieldOf, Nat.zero_shiftRight, Nat.zero_mod]

/-! A field after another was set. -/

theorem regs_wf_set (s : State) (f : Fld) (v i j : Nat) (h : Regs.wf s.regs = true) : Regs.wf (s.set f v i j).regs = true :=
  regs_wf_wr s _ i j _ h

theorem get_set_same (s : State) (f : Fld) (v i : Nat) (hs : Regs.wf s.regs = true) (hf : plainField f = true) :
    (s.set f v i).get f i = v % 2 ^ f.width := by
  obtain ⟨-, -, hfit⟩ := (plainField_iff f).1 hf
  rw [State.get, State.set, rd_wr_same s f.reg i 0 _ hs (resetWord_lt f i 0 hf), fieldOf_withField_same _ _ _ _ hfit]

/-- A field of a register that the update does not reach. -/
theorem get_set_of_addr_ne (s : State) (f g : Fld) (v i i' j j' : Nat) (h : g.reg.addr i' j' ≠ f.reg.addr i j) :
    (s.set f v i j).get g i' j' = s.get g i' j' := by
  rw [State.get, State.set, rd_wr_ne s f.reg g.reg i j i' j' _ h, State.get]

theorem get_set_apart (s : State) (f g : Fld) (v i : Nat) (hs : Regs.wf s.regs = true) (hg : plainField g = true)
    (h : apart g f = true) : (s.set f v i).get g i = s.get g i := by
  simp only [apart, Bool.or_eq_true, Bool.and_eq_true, beq_iff_eq, bne_iff_ne, decide_eq_true_eq] at h
  rcases h with ⟨hb, ho⟩ | ⟨hr, hd⟩
  · exact get_set_of_addr_ne s f g v i i 0 0 (addr_ne_of_off_ne _ _ i hb ho)
  · obtain ⟨r, lo, w⟩ := g
    subst hr
    obtain ⟨-, -, hfit⟩ := (plainField_iff _).1 hg
    rw [State.get, State.set, rd_wr_same s f.reg i 0 _ hs (resetWord_lt ⟨f.reg, lo, w⟩ i 0 hg),
      fieldOf_withField_apart _ _ _ _ _ _ hfit hd, State.get]

theorem flag_set_apart (s : State) (f g : Fld) (v i : Nat) (hs : Regs.wf s.regs = true) (hg : plainField g = true)
    (h : apart g f = true) : (s.set f v i).flag g i = s.flag g i := by
  rw [State.flag, get_set_apart s f g v i hs hg h, State.flag]

/-! Several fields set one after the other, as a record is left. -/

/-- Sets fields of one instance to the values given, in order. -/
def setFields (s : State) (i : Nat) : List Fld → List Nat → State
  | f :: fs, v :: vs => setFields (s.set f v i) i fs vs
  | _, _ => s

theorem get_setFields_apart (s : State) (i : Nat) (fs : List Fld) (vs : List Nat) (g : Fld) (hs : Regs.wf s.regs = true)
    (hg : plainField g = true) (h : fs.all (apart g) = true) : (setFields s i fs vs).get g i = s.get g i := by
  induction fs generalizing s vs with
  | nil => rfl
  | cons f fs ih =>
    obtain ⟨hf, hfs⟩ : apart g f = true ∧ fs.all (apart g) = true := by simpa using h
    cases vs with
    | nil => rfl
    | cons v vs => exact (ih _ vs (regs_wf_set s f v i 0 hs) hfs).trans (get_set_apart s f g v i hs hg hf)

/-- Plain fields no two of which share a bit. -/
def allApart : List Fld → Bool
  | [] => true
  | f :: fs => plainField f && fs.all (apart f) && allApart fs

/-- Each field of a record reads as the value that was set. -/
theorem get_setFields (s : State) (i : Nat) (fs : List Fld) (vs : List Nat) (hs : Regs.wf s.regs = true) (h : allApart fs = true) :
    ∀ p ∈ fs.zip vs, (setFields s i fs vs).get p.1 i = p.2 % 2 ^ p.1.width := by
  induction fs generalizing s vs with
  | nil => simp
  | cons f fs ih =>
    obtain ⟨⟨hf, hfs⟩, hrest⟩ : (plainField f = true ∧ fs.all (apart f) = true) ∧ allApart fs = true := by
      simpa only [allApart, Bool.and_eq_true] using h
    cases vs with
    | nil => simp
    | cons v vs =>
      have hs' := regs_wf_set s f v i 0 hs
      rintro p (_ | ⟨_, hp⟩)
      · exact (get_setFields_apart _ i fs vs f hs' hf hfs).trans (get_set_same s f v i hs hf)
      · exact ih _ vs hs' hrest p hp

/-- A record of fields changes registers only. -/
theorem setFields_frame (s : State) (i : Nat) (fs : List Fld) (vs : List Nat) :
    setFields s i fs vs = { s with regs := (setFields s i fs vs).regs } := by
  fun_induction setFields s i fs vs with
  | case1 s f fs v vs ih => exact ih
  | case2 => rfl

@[simp] theorem setFields_eventSeq (s : State) (i : Nat) (fs : List Fld) (vs : List Nat) :
    (setFields s i fs vs).eventSeq = s.eventSeq := by rw [setFields_frame]

@[simp] theorem setFields_events (s : State) (i : Nat) (fs : List Fld) (vs : List Nat) :
    (setFields s i fs vs).events = s.events := by rw [setFields_frame]

@[simp] theorem setFields_hif (s : State) (i : Nat) (fs : List Fld) (vs : List Nat) :
    (setFields s i fs vs).hif = s.hif := by rw [setFields_frame]

/-! Events (R486, R487). -/

@[simp] theorem event_eventSeq (s : State) (source typ job unit : Nat) (payload : List Nat) :
    (s.event source typ job unit payload).eventSeq = s.eventSeq + 1 := by
  dsimp only [State.event]
  split
  · rfl
  · split <;> rfl

/-- An event changes no register but the count of dropped events. -/
theorem event_get (s : State) (source typ job unit : Nat) (payload : List Nat) (f : Fld) (i j : Nat)
    (h : f.reg.addr i j ≠ R.HIF_CNT_EVDROP.addr 0 0) : (s.event source typ job unit payload).get f i j = s.get f i j := by
  dsimp only [State.event]
  split
  · rfl
  · split
    · rfl
    · exact get_set_of_addr_ne _ F.HIF_CNT_EVDROP_COUNT f _ 0 i 0 j h

/-- An event that is not discarded and finds room stands last in the queue. -/
theorem event_items (s : State) (source typ job unit : Nat) (payload : List Nat) (hm : s.hif.ev.mute = false)
    (hl : s.events.items.length < 256) : (s.event source typ job unit payload).events.items = s.events.items ++
      [⟨source, typ, job, unit, s.nowNs, ((payload ++ List.replicate 10 0).take 10).map (BitVec.ofNat 32), s.eventSeq % 2 ^ 32⟩] := by
  simp [State.event, hm, hl, State.nowNs]

end Sys2Proof.Proofs
end

section
/-! Rejection and refusal records (R53, R58, R59, R506). -/

namespace Sys2Proof.Proofs
open Sys2Proof.Machine Sys2Proof.Laws

/-! The rejection record. -/

theorem reject_again (s : State) (mid off : Nat) (h : s.flag F.ERR_CFG_REJECT = true) : s.reject mid off = s := by
  rw [State.reject, if_pos h]

/-- The fields that a rejected write leaves. -/
def rejectFields : List Fld := [F.ERR_CFG_REJECT, F.ERR_REJ_OFFSET, F.ERR_REJMID_MID]

theorem reject_first (s : State) (mid off : Nat) (h : s.flag F.ERR_CFG_REJECT = false) :
    s.reject mid off = setFields s 0 rejectFields [1, off, mid] := by
  rw [State.reject, if_neg (by rw [h]; decide)]
  rfl

theorem reject_first_record (s : State) (mid off : Nat) (hs : Regs.wf s.regs = true) (hmid : mid < 2 ^ 12) (hoff : off < 2 ^ 26)
    (h : s.flag F.ERR_CFG_REJECT = false) :
    (s.reject mid off).get F.ERR_CFG_REJECT = 1 ∧ (s.reject mid off).get F.ERR_REJ_OFFSET = off ∧
      (s.reject mid off).get F.ERR_REJMID_MID = mid := by
  have hget := get_setFields s 0 rejectFields [1, off, mid] hs (by decide)
  rw [← reject_first s mid off h] at hget
  simp only [rejectFields, List.zip_cons_cons, List.zip_nil_right, List.forall_mem_cons] at hget
  obtain ⟨hr, ho, hm, -⟩ := hget
  exact ⟨hr, ho.trans (Nat.mod_eq_of_lt hoff), hm.trans (Nat.mod_eq_of_lt hmid)⟩

/-! A refused part of an access. -/

theorem readParts_refused (reg : Nat → Nat → Nat → State → List Byte × State) (s : State) (mid hint a n t cause : Nat) (l : Loc)
    (h : judge s mid a n false = (t, l, .refuse cause)) :
    readParts reg mid hint [(a, n)] s = (.refused cause, recordRefusal t mid cause a false s) := by
  simp only [readParts, h]

theorem writeParts_refused (reg : Nat → Nat → List Byte → State → State) (s : State) (mid hint a n t cause : Nat) (l : Loc)
    (bs : List Byte) (h : judge s mid a n true = (t, l, .refuse cause)) :
    writeParts reg mid hint [(a, n)] bs s = (.refused cause, recordRefusal t mid cause a true s) := by
  simp only [writeParts, h]

/-! The refusal record. -/

/-- The fields that the first refusal since a clear leaves at its target (R53). -/
def refusalFields : List Fld := [F.ACC_TBL_DENYMID_MID, F.ACC_TBL_DENYMID_CAUSE, F.ACC_TBL_DENYMID_WRITE, F.ACC_TBL_DENYLO_ADDR,
  F.ACC_TBL_DENYHI_ADDR, F.ACC_TBL_STATUS_FIRSTEV]

/-- What they hold, in that order. -/
def refusalValues (mid cause a : Nat) (write : Bool) : List Nat := [mid, cause, b2n write, a, a / 2 ^ 32, 1]

/-- The state with a refusal counted at target `t`. -/
def refusalCounted (t : Nat) (s : State) : State := s.bump F.ACC_TBL_DENYCNT_COUNT 1 t

theorem regs_wf_refusalCounted (t : Nat) (s : State) (hs : Regs.wf s.regs = true) : Regs.wf (refusalCounted t s).regs = true :=
  regs_wf_set s _ _ t 0 hs

theorem refusalCounted_count (t : Nat) (s : State) (hs : Regs.wf s.regs = true) :
    (refusalCounted t s).get F.ACC_TBL_DENYCNT_COUNT t =
      min (s.get F.ACC_TBL_DENYCNT_COUNT t + 1) (2 ^ F.ACC_TBL_DENYCNT_COUNT.width - 1) := by
  refine (get_set_same s F.ACC_TBL_DENYCNT_COUNT _ t hs (by decide)).trans (Nat.mod_eq_of_lt ?_)
  have := Nat.two_pow_pos F.ACC_TBL_DENYCNT_COUNT.width
  rw [saturate]
  omega

/-- Counting leaves every field of the table but the count. -/
theorem refusalCounted_get (t : Nat) (s : State) (g : Fld) (hs : Regs.wf s.regs = true) (hg : plainField g = true)
    (h : apart g F.ACC_TBL_DENYCNT_COUNT = true) : (refusalCounted t s).get g t = s.get g t :=
  get_set_apart s F.ACC_TBL_DENYCNT_COUNT g _ t hs hg h

theorem refusalCounted_flag (t : Nat) (s : State) (g : Fld) (hs : Regs.wf s.regs = true) (hg : plainField g = true)
    (h : apart g F.ACC_TBL_DENYCNT_COUNT = true) : (refusalCounted t s).flag g t = s.flag g t :=
  flag_set_apart s F.ACC_TBL_DENYCNT_COUNT g _ t hs hg h

theorem recordRefusal_later (t mid cause a : Nat) (write : Bool) (s : State) (hs : Regs.wf s.regs = true)
    (h : s.flag F.ACC_TBL_STATUS_FIRSTEV t = true) : recordRefusal t mid cause a write s = refusalCounted t s :=
  if_pos ((refusalCounted_flag t s _ hs (by decide) (by decide)).trans h)

theorem recordRefusal_first (t mid cause a : Nat) (write : Bool) (s : State) (hs : Regs.wf s.regs = true)
    (h : s.flag F.ACC_TBL_STATUS_FIRSTEV t = false) : recordRefusal t mid cause a write s =
      (setFields (refusalCounted t s) t refusalFields (refusalValues mid cause a write)).event 1 1 0 t
        [t, mid + cause * 4096 + b2n write * 65536, a % 2 ^ 32, a / 2 ^ 32] :=
  if_neg (by
    change ¬ (refusalCounted t s).flag F.ACC_TBL_STATUS_FIRSTEV t = true
    rw [refusalCounted_flag t s _ hs (by decide) (by decide), h]
    decide)

/-- No register of an access table is the count of dropped events. -/
theorem accReg_addr_ne_evdrop (r : Reg) (t : Nat) (h : r.blk = .ACC) : r.addr t 0 ≠ R.HIF_CNT_EVDROP.addr 0 0 := by
  simp only [Reg.addr, h, R.HIF_CNT_EVDROP, Blk.base, Blk.stride]
  omega

/-- A field of the record that the first refusal leaves. -/
theorem recordRefusal_first_get (t mid cause a : Nat) (write : Bool) (s : State) (hs : Regs.wf s.regs = true)
    (h : s.flag F.ACC_TBL_STATUS_FIRSTEV t = false) (p : Fld × Nat) (hp : p ∈ refusalFields.zip (refusalValues mid cause a write)) :
    (recordRefusal t mid cause a write s).get p.1 t = p.2 % 2 ^ p.1.width := by
  have hblk : ∀ f ∈ refusalFields, f.reg.blk = .ACC := by decide
  rw [recordRefusal_first t mid cause a write s hs h,
    event_get _ _ _ _ _ _ _ _ _ (accReg_addr_ne_evdrop _ t (hblk p.1 (List.of_mem_zip hp).1))]
  exact get_setFields _ t _ _ (regs_wf_refusalCounted t s hs) (by decide) p hp

/-- Every refusal is counted (R58). -/
theorem recordRefusal_count (t mid cause a : Nat) (write : Bool) (s : State) (hs : Regs.wf s.regs = true) :
    (recordRefusal t mid cause a write s).get F.ACC_TBL_DENYCNT_COUNT t =
      min (s.get F.ACC_TBL_DENYCNT_COUNT t + 1) (2 ^ F.ACC_TBL_DENYCNT_COUNT.width - 1) := by
  cases h : s.flag F.ACC_TBL_STATUS_FIRSTEV t with
  | true => rw [recordRefusal_later t mid cause a write s hs h, refusalCounted_count t s hs]
  | false =>
    rw [recordRefusal_first t mid cause a write s hs h, event_get _ _ _ _ _ _ _ _ _ (accReg_addr_ne_evdrop _ t rfl),
      get_setFields_apart _ t _ _ _ (regs_wf_refusalCounted t s hs) (by decide) (by decide), refusalCounted_count t s hs]

/-- The registers after the first refusal since a clear. -/
theorem recordRefusal_first_record (t mid cause a : Nat) (write : Bool) (s : State) (hs : Regs.wf s.regs = true)
    (hmid : mid < 2 ^ 12) (hcause : cause < 4) (ha : a < 2 ^ 48) (h : s.flag F.ACC_TBL_STATUS_FIRSTEV t = false) :
    let u := recordRefusal t mid cause a write s
    u.get F.ACC_TBL_STATUS_FIRSTEV t = 1 ∧ u.get F.ACC_TBL_DENYMID_MID t = mid ∧ u.get F.ACC_TBL_DENYMID_CAUSE t = cause ∧
      u.get F.ACC_TBL_DENYLO_ADDR t = a % 2 ^ 32 ∧ u.get F.ACC_TBL_DENYHI_ADDR t = a / 2 ^ 32 := by
  have hget := recordRefusal_first_get t mid cause a write s hs h
  simp only [refusalFields, refusalValues, List.zip_cons_cons, List.zip_nil_right, List.forall_mem_cons] at hget
  obtain ⟨hm, hc, -, hlo, hhi, hf, -⟩ := hget
  refine ⟨hf, hm.trans (Nat.mod_eq_of_lt hmid), hc.trans (Nat.mod_eq_of_lt ?_), hlo, hhi.trans (Nat.mod_eq_of_lt ?_)⟩
  · exact Nat.lt_trans hcause (by decide)
  · change a / 2 ^ 32 < 2 ^ 16
    omega

/-- The event of the first refusal, where the queue takes it (R58). -/
theorem recordRefusal_first_event (t mid cause a : Nat) (write : Bool) (s : State) (hs : Regs.wf s.regs = true)
    (h : s.flag F.ACC_TBL_STATUS_FIRSTEV t = false) (hm : s.hif.ev.mute = false) (hl : s.events.items.length < 256) :
    ∃ e, (recordRefusal t mid cause a write s).events.items = s.events.items ++ [e] ∧ e.source = 1 ∧ e.typ = 1 ∧ e.unit = t ∧
      e.payload.take 4 =
        [t, mid + cause * 4096 + (if write then 65536 else 0), a % 2 ^ 32, a / 2 ^ 32].map (BitVec.ofNat 32) := by
  rw [recordRefusal_first t mid cause a write s hs h,
    event_items _ _ _ _ _ _ (by simpa [refusalCounted] using hm) (by simpa [refusalCounted] using hl), setFields_events]
  exact ⟨_, rfl, rfl, rfl, rfl, by cases write <;> rfl⟩

theorem recordRefusal_first_eventSeq (t mid cause a : Nat) (write : Bool) (s : State) (hs : Regs.wf s.regs = true)
    (h : s.flag F.ACC_TBL_STATUS_FIRSTEV t = false) : (recordRefusal t mid cause a write s).eventSeq = s.eventSeq + 1 := by
  rw [recordRefusal_first t mid cause a write s hs h, event_eventSeq, setFields_eventSeq, refusalCounted, bump_eventSeq]

/-- A later refusal raises no event and leaves the record (R58). -/
theorem recordRefusal_later_record (t mid cause a : Nat) (write : Bool) (s : State) (hs : Regs.wf s.regs = true)
    (h : s.flag F.ACC_TBL_STATUS_FIRSTEV t = true) :
    let u := recordRefusal t mid cause a write s
    u.eventSeq = s.eventSeq ∧ u.events = s.events ∧ u.get F.ACC_TBL_DENYMID_MID t = s.get F.ACC_TBL_DENYMID_MID t ∧
      u.get F.ACC_TBL_DENYLO_ADDR t = s.get F.ACC_TBL_DENYLO_ADDR t := by
  rw [recordRefusal_later t mid cause a write s hs h]
  exact ⟨rfl, rfl, refusalCounted_get t s _ hs (by decide) (by decide), refusalCounted_get t s _ hs (by decide) (by decide)⟩

/-! The clear and the end of draining. -/

theorem accDenyClr_eq (t : Nat) (s : State) : accDenyClr t s =
    ((((s.zero R.ACC_TBL_DENYCNT t).zero R.ACC_TBL_DENYMID t).zero R.ACC_TBL_DENYLO t).zero R.ACC_TBL_DENYHI t).set
      F.ACC_TBL_STATUS_FIRSTEV 0 t := rfl

theorem accDenyClr_firstev (t : Nat) (s : State) (hs : Regs.wf s.regs = true) :
    (accDenyClr t s).get F.ACC_TBL_STATUS_FIRSTEV t = 0 := by
  rw [accDenyClr_eq]
  refine get_set_same _ _ 0 t ?_ (by decide)
  iterate 4 refine regs_wf_wr _ _ t 0 0 ?_
  exact hs

theorem accDenyClr_count (t : Nat) (s : State) (hs : Regs.wf s.regs = true) :
    (accDenyClr t s).get F.ACC_TBL_DENYCNT_COUNT t = 0 := by
  rw [accDenyClr_eq]
  refine (get_set_of_addr_ne _ F.ACC_TBL_STATUS_FIRSTEV F.ACC_TBL_DENYCNT_COUNT 0 t t 0 0
    (addr_ne_of_off_ne R.ACC_TBL_DENYCNT R.ACC_TBL_STATUS t rfl (by decide))).trans (get_of_rd_eq_zero _ _ t 0 ?_)
  refine (rd_zero_of_off_ne _ R.ACC_TBL_DENYHI R.ACC_TBL_DENYCNT t rfl (by decide)).trans ?_
  refine (rd_zero_of_off_ne _ R.ACC_TBL_DENYLO R.ACC_TBL_DENYCNT t rfl (by decide)).trans ?_
  refine (rd_zero_of_off_ne _ R.ACC_TBL_DENYMID R.ACC_TBL_DENYCNT t rfl (by decide)).trans ?_
  exact rd_wr_same s R.ACC_TBL_DENYCNT t 0 0 hs (resetWord_lt F.ACC_TBL_DENYCNT_COUNT t 0 (by decide))

/-- Settles O20: the records are fields of plain registers no two of which share a bit, so each reads as it was set; the event of the
first refusal reaches no register of a table. -/
theorem rejectAndRefusalRecords : Obligations.RejectAndRefusalRecords := by
  intro s t mid off cause a write hs hmid hoff hcause ha
  obtain ⟨-, hregs⟩ : (Memory.wf s.mem && Memory.wf s.flash) = true ∧ Regs.wf s.regs = true := by
    simpa only [State.wf, Bool.and_eq_true] using hs
  refine ⟨reject_again s mid off, reject_first_record s mid off hregs hmid hoff, ?_, ⟨?_, ?_, ?_⟩, ?_, ?_⟩
  · intro n hint l hj
    refine ⟨fun hw => ?_, fun hw bs => ?_⟩ <;> subst hw
    · exact readParts_refused _ s mid hint a n t cause l hj
    · exact writeParts_refused _ s mid hint a n t cause l bs hj
  · exact recordRefusal_count t mid cause a write s hregs
  · intro h
    obtain ⟨hf, hm, hc, hlo, hhi⟩ := recordRefusal_first_record t mid cause a write s hregs hmid hcause ha h
    exact ⟨hf, hm, hc, hlo, hhi, recordRefusal_first_eventSeq t mid cause a write s hregs h,
      recordRefusal_first_event t mid cause a write s hregs h⟩
  · exact recordRefusal_later_record t mid cause a write s hregs
  · exact ⟨_, rfl, accDenyClr_firstev t s hregs, accDenyClr_count t s hregs⟩
  · exact ⟨_, rfl, get_set_same s F.ACC_TBL_STATUS_DRAINED 1 t hregs (by decide)⟩

end Sys2Proof.Proofs
end

section
/-! The judgement of register accesses (R36, R46, R50). -/

namespace Sys2Proof.Proofs
open Sys2Proof.Machine Sys2Proof.Laws

/-- The striped window ends below the registers (R35). -/
theorem striped_reg (s : State) (a : Nat) (h : 0x7F0000000000 ≤ a) : striped s a = false := by
  have hb : stackBytes s ≤ 36 * 2 ^ 30 := by
    unfold stackBytes
    split <;> omega
  have : ¬ a < 0x020000000000 + 20 * stackBytes s := by omega
  simp [striped, this]

/-- An address of BAR0's range names the register at its offset (R35). -/
theorem locate_reg (s : State) (mid a : Nat) (h : 0x7F0000000000 ≤ a) (h' : a < 0x7F0004000000) :
    (locate s mid a).2 = .reg (a - 0x7F0000000000) := by
  unfold locate
  iterate 6 rw [if_neg (by omega)]
  rw [if_pos ⟨h, h'⟩]

/-- An access of 4 or 8 bytes at a multiple of its size lies in one page. -/
theorem admitted_aligned (s : State) (t mid a len : Nat) (l : Loc) (write : Bool) (hl : len = 4 ∨ len = 8) (ha : a % len = 0) :
    admitted s t mid a len l write = pageAdmitted s t mid (a / 4096) (l.shift 0) write := by
  have hpage : (a + len - 1) / 4096 = a / 4096 := by rcases hl with rfl | rfl <;> omega
  have hstart : a / 4096 * 4096 - a = 0 := by omega
  simp [admitted, hpage, hstart]

/-- An access of 4 or 8 bytes that names registers by a multiple of its size is judged by the table of its target alone (R36, R47). -/
theorem judge_of_locate_reg (s : State) (mid a len t o p : Nat) (write : Bool) (hs : striped s a = false)
    (hfirst : locate s mid a = (t, .reg o)) (hlast : (locate s mid (a + len - 1)).2 = .reg p) (hl : len = 4 ∨ len = 8)
    (ho : o % len = 0) : judge s mid a len write =
      (t, .reg o, if admitted s t mid a len (.reg o) write then .free else .refuse causeDenied) := by
  have hsize : (len == 4 || len == 8) = true := by simpa using hl
  unfold judge
  simp only [hs, Bool.false_eq_true, if_false, hfirst, hlast, sameLoc, locGate, guardedAccess, checkedAddr, ownInClearing,
    trainingHolds, hsize, ho]
  cases admitted s t mid a len (.reg o) write <;> simp

/-- An aligned register access of 4 or 8 bytes passes where its page is admitted, and is denied otherwise. -/
theorem judge_reg (s : State) (mid a len : Nat) (write : Bool) (hl : len = 4 ∨ len = 8) (ha : a % len = 0)
    (h : 0x7F0000000000 ≤ a) (h' : a < 0x7F0004000000) :
    (judge s mid a len write).2.2 =
      if pageAdmitted s (locate s mid a).1 mid (a / 4096) (.reg (a - 0x7F0000000000)) write then .free else .refuse causeDenied := by
  have hlast : a + len - 1 < 0x7F0004000000 := by rcases hl with rfl | rfl <;> omega
  have hoff : (a - 0x7F0000000000) % len = 0 := by rcases hl with rfl | rfl <;> omega
  rw [judge_of_locate_reg s mid a len _ _ _ write (striped_reg s a h) (Prod.ext rfl (locate_reg s mid a h h'))
    (locate_reg s mid (a + len - 1) (by omega) hlast) hl hoff, admitted_aligned s _ mid a len _ write hl ha, Loc.shift, Nat.add_zero]

/-- Masters 0x000 to 0x004 pass in the ACC block by the fixed grant, which no entry is asked for (R50). -/
theorem pageAdmitted_accBlock (s : State) (t mid page o : Nat) (write : Bool) (hm : mid ≤ 4) (ho : 0x200000 ≤ o) (ho' : o < 0x300000) :
    pageAdmitted s t mid page (.reg o) write = true := by
  simp [pageAdmitted, fixedGrant, hm, ho, ho']

/-- The guard on the ACC and SEC ranges stands before the entries of the table (R50). -/
theorem pageAdmitted_guarded (s : State) (t mid page o : Nat) (write : Bool) (hm : 4 < mid) (ho : 0x200000 ≤ o) (ho' : o < 0x340000) :
    pageAdmitted s t mid page (.reg o) write = false := by
  simp [pageAdmitted, fixedGrant, hm, ho, ho', Nat.not_le.2 hm]

/-- Settles O21: the fixed grant of R50 comes before the guard, and the guard before the entries of the tables. -/
theorem accessBlockGuard : Obligations.AccessBlockGuard := by
  intro s mid a len write hl ha
  refine ⟨fun hm h h' => ?_, fun hm h h' => ?_⟩ <;> rw [judge_reg s mid a len write hl ha (by omega) (by omega)]
  · rw [pageAdmitted_accBlock s _ mid _ _ write hm (by omega) (by omega), if_pos rfl]
  · rw [pageAdmitted_guarded s _ mid _ _ write hm (by omega) (by omega), if_neg (by decide)]

end Sys2Proof.Proofs
end

section
/-! What a prompter's advance and a set flag leave in a cluster (R304, R417 to R421). -/

namespace Sys2Proof.Proofs
open Sys2Proof.Machine Sys2Proof.Laws

/-! The advance of PC and the hardware loops. -/

/-- An advance changes PC and the loop counters only. -/
theorem advance_frame (k : Clu) :
    k.advance = { k with pc := k.advance.pc, loop0 := k.advance.loop0, loop1 := k.advance.loop1 } := by
  dsimp only [Clu.advance]
  split
  · split <;> rfl
  · split
    · split <;> rfl
    · rfl

@[simp] theorem advance_flags (k : Clu) : k.advance.flags = k.flags := by rw [advance_frame]

@[simp] theorem advance_governor (k : Clu) (f : Nat) : k.advance.governor f = k.governor f := by rw [advance_frame]; rfl

@[simp] theorem advance_flagWaits (k : Clu) : k.advance.flagWaits = k.flagWaits := by rw [advance_frame]; rfl

/-! A flag that no counter governs, in a cluster without flag waits. -/

theorem setF_ungoverned (k : Clu) (f : Nat) (h : k.governor f = none) : k.setF f = k.putFlag f true := by
  rw [Clu.setF, h]

theorem flag_putFlag_same (k : Clu) (f : Nat) (b : Bool) : (k.putFlag f b).flag f = b := by
  rw [Clu.flag, Clu.putFlag, testBit_withField, if_pos (by omega), Nat.sub_self]
  cases b <;> rfl

@[simp] theorem putFlag_flagWaits (k : Clu) (f : Nat) (b : Bool) : (k.putFlag f b).flagWaits = k.flagWaits := rfl

theorem settleFlags_of_no_wait (k : Clu) (now fab : Nat) (h : k.flagWaits = []) : k.settleFlags now fab = k := by
  rw [Clu.settleFlags, h]; rfl

/-- The ends of MWAIT and WAITT touch no flag. -/
@[simp] theorem settleOthers_flags (k : Clu) (now fab : Nat) : (k.settleOthers now fab).flags = k.flags := by
  dsimp only [Clu.settleOthers]
  split
  · split
    · exact advance_flags _
    · rfl
  · split
    · exact advance_flags _
    · rfl
  · rfl

/-- A cluster after a set of flag `f`, once the waits that it ends have ended. -/
def flagRaised (now fab f : Nat) (k : Clu) : Clu := ((k.setF f).settleFlags now fab).settleOthers now fab

theorem flagRaised_flag (now fab f : Nat) (k : Clu) (hg : k.governor f = none) (hw : k.flagWaits = []) :
    (flagRaised now fab f k).flag f = true := by
  rw [flagRaised, setF_ungoverned k f hg, settleFlags_of_no_wait (k.putFlag f true) now fab hw, Clu.flag, settleOthers_flags]
  exact flag_putFlag_same k f true

/-! Flags raised in RUNNING clusters. -/

theorem wakeCluster_of_running (s : State) (c : Nat) (h : cluState s c = stRunning) : wakeCluster c s = s := by
  rw [wakeCluster, h]; rfl

/-- The state with flag `f` raised in cluster `c`. -/
def flagRaisedIn (f : Nat) (s : State) (c : Nat) : State :=
  (s.setClu c ((s.clu c).setF f)).setClu c (flagRaised s.ticks s.fabTime f (s.clu c))

theorem flagRaisedIn_clu_same (f : Nat) (s : State) (c : Nat) :
    (flagRaisedIn f s c).clu c = flagRaised s.ticks s.fabTime f (s.clu c) := clu_setClu_same _ _ _

theorem flagRaisedIn_clu_ne (f : Nat) (s : State) (c d : Nat) (h : d ≠ c) : (flagRaisedIn f s c).clu d = s.clu d := by
  rw [flagRaisedIn, clu_setClu_ne _ _ _ _ h, clu_setClu_ne _ _ _ _ h]

/-- A flag raised in one cluster leaves the states of all, which are registers. -/
theorem flagRaisedIn_running (f : Nat) (s : State) (c : Nat) (ms : List Nat) (h : ∀ m ∈ ms, cluState s m = stRunning) :
    ∀ m ∈ ms, cluState (flagRaisedIn f s c) m = stRunning := h

theorem setFlag_of_running (s : State) (c f : Nat) (h : cluState s c = stRunning) : setFlag c f s = flagRaisedIn f s c := by
  have hset : cluState (s.setClu c ((s.clu c).setF f)) c = stRunning := h
  rw [setFlag, if_neg (by rw [h]; decide), if_pos (by rw [cluPresent, h]; decide), settleWaits, if_pos hset, clu_setClu_same]
  rfl

/-- A RUNNING member has not to wake for its release flag (R198, R279). -/
theorem releaseFlag_of_running (s : State) (f c : Nat) (h : cluState s c = stRunning) : releaseFlag f s c = flagRaisedIn f s c := by
  rw [releaseFlag, wakeCluster_of_running s c h, setFlag_of_running s c f h]

/-- Release flags raised in RUNNING clusters change clusters only. -/
theorem releaseFlags_frame (f : Nat) (ms : List Nat) (s : State) (h : ∀ m ∈ ms, cluState s m = stRunning) :
    ms.foldl (releaseFlag f) s = { s with clus := (ms.foldl (releaseFlag f) s).clus } := by
  induction ms generalizing s with
  | nil => rfl
  | cons c ms ih =>
    obtain ⟨hc, hms⟩ := List.forall_mem_cons.1 h
    rw [List.foldl_cons, releaseFlag_of_running s f c hc]
    exact ih _ (flagRaisedIn_running f s c ms hms)

theorem releaseFlags_clu_of_not_mem (f d : Nat) (ms : List Nat) (s : State) (h : ∀ m ∈ ms, cluState s m = stRunning)
    (hd : d ∉ ms) : (ms.foldl (releaseFlag f) s).clu d = s.clu d := by
  induction ms generalizing s with
  | nil => rfl
  | cons c ms ih =>
    obtain ⟨hc, hms⟩ := List.forall_mem_cons.1 h
    obtain ⟨hdc, hdms⟩ := not_or.1 (mt List.mem_cons.2 hd)
    rw [List.foldl_cons, releaseFlag_of_running s f c hc, ih _ (flagRaisedIn_running f s c ms hms) hdms,
      flagRaisedIn_clu_ne f s c d hdc]

/-- Each of the clusters has the flag raised in what it was at first. -/
theorem releaseFlags_clu_of_mem (f d : Nat) (ms : List Nat) (s : State) (h : ∀ m ∈ ms, cluState s m = stRunning)
    (hnodup : ms.Nodup) (hd : d ∈ ms) :
    (ms.foldl (releaseFlag f) s).clu d = flagRaised s.ticks s.fabTime f (s.clu d) := by
  induction ms generalizing s with
  | nil => cases hd
  | cons c ms ih =>
    obtain ⟨hc, hms⟩ := List.forall_mem_cons.1 h
    obtain ⟨hcms, hnodup'⟩ := List.nodup_cons.1 hnodup
    have hrun := flagRaisedIn_running f s c ms hms
    rw [List.foldl_cons, releaseFlag_of_running s f c hc]
    rcases List.mem_cons.1 hd with rfl | hdms
    · rw [releaseFlags_clu_of_not_mem f d ms _ hrun hcms, flagRaisedIn_clu_same]
    · have hdc : d ≠ c := fun e => hcms (e ▸ hdms)
      rw [ih _ hrun hnodup' hdms, flagRaisedIn_clu_ne f s c d hdc]
      rfl

end Sys2Proof.Proofs
end

section
/-! Curtain lines (R198 to R202, R207, R303). -/

namespace Sys2Proof.Proofs
open Sys2Proof.Machine Sys2Proof.Laws

/-! Members and arrivals as fields of a line's registers. -/

/-- A bit of a field that is a whole word. -/
theorem testBit_get_of_word (s : State) (f : Fld) (i j d : Nat) (hlo : f.lo = 0) (hw : f.width = 32) :
    (s.get f i j).testBit (d % 32) = (s.rd f.reg i j).testBit (d % 32) := by
  rw [State.get, testBit_fieldOf, hlo, hw, decide_eq_true (Nat.mod_lt d (by decide)), Bool.true_and, Nat.zero_add]

theorem curtMember_eq_get (s : State) (l d : Nat) :
    curtMember s l d = (s.get F.CURT_MEM_MASK l (d / 32)).testBit (d % 32) :=
  (testBit_get_of_word s F.CURT_MEM_MASK l (d / 32) d rfl rfl).symm

theorem curtArrived_eq_get (s : State) (l d : Nat) :
    curtArrived s l d = (s.get F.CURT_ARR_ARR l (d / 32)).testBit (d % 32) :=
  (testBit_get_of_word s F.CURT_ARR_ARR l (d / 32) d rfl rfl).symm

theorem mem_curtMembers (s : State) (l d : Nat) : d ∈ curtMembers s l ↔ d < 80 ∧ curtMember s l d = true := by
  rw [curtMembers, List.mem_filter, List.mem_range]

theorem nodup_curtMembers (s : State) (l : Nat) : (curtMembers s l).Nodup := List.nodup_range.filter _

/-- A register that shares no address with the three rows of a line's arrivals. -/
def besideArrivals (l : Nat) (r : Reg) (i j : Nat) : Prop := ∀ row < 3, r.addr i j ≠ R.CURT_ARR.addr l row

theorem besideArrivals_status (l : Nat) : besideArrivals l R.CURT_STATUS l 0 := by
  intro row hrow
  simp only [Reg.addr, R.CURT_STATUS, R.CURT_ARR]
  omega

theorem besideArrivals_badArrivals (l : Nat) : besideArrivals l R.CURT_CNT_BADARR l 0 := by
  intro row hrow
  simp only [Reg.addr, R.CURT_CNT_BADARR, R.CURT_ARR]
  omega

theorem besideArrivals_cfg (l : Nat) : besideArrivals l R.CURT_CFG l 0 := by
  intro row _
  simp only [Reg.addr, R.CURT_CFG, R.CURT_ARR]
  omega

theorem besideArrivals_mem (l d : Nat) (hd : d < 80) : besideArrivals l R.CURT_MEM l (d / 32) := by
  intro row _
  simp only [Reg.addr, R.CURT_MEM, R.CURT_ARR]
  omega

/-- The registers of a line end below those of the clusters (R42). -/
theorem curt_addr_lt_cluStatus (r : Reg) (l d j : Nat) (hb : r.blk = .CURT) (hl : l < 32) (hr : r.off + j * r.step < 0x100) :
    r.addr l j < R.CLU_STATUS.addr d 0 := by
  simp only [Reg.addr, hb, R.CLU_STATUS, Blk.base, Blk.stride]
  omega

theorem besideArrivals_cluStatus (l d : Nat) (hl : l < 32) : besideArrivals l R.CLU_STATUS d 0 := by
  intro row hrow
  have hoff : R.CURT_ARR.off + row * R.CURT_ARR.step < 0x100 := by
    simp only [R.CURT_ARR]
    omega
  exact Nat.ne_of_gt (curt_addr_lt_cluStatus R.CURT_ARR l d row rfl hl hoff)

/-- No register of a curtain line is the count of dropped events. -/
theorem curtReg_addr_ne_evdrop (r : Reg) (l j : Nat) (h : r.blk = .CURT) : r.addr l j ≠ R.HIF_CNT_EVDROP.addr 0 0 := by
  simp only [Reg.addr, h, R.HIF_CNT_EVDROP, Blk.base, Blk.stride]
  omega

/-! An arrival that is held (R198). -/

/-- The state with the arrival of cluster `c` at line `l` held, and `tm` as what the line's timeout is counted from. -/
def arrivalHeld (l c : Nat) (tm : TimeSt) (s : State) : State :=
  { s with tm := tm }.wr R.CURT_ARR l (c / 32) (s.rd R.CURT_ARR l (c / 32) ||| 2 ^ (c % 32))

theorem curtArrive_of_fresh (l c : Nat) (s : State) (hm : curtMember s l c = true) (ha : curtArrived s l c = false) :
    ∃ tm, curtArrive l c s = curtSettle l (arrivalHeld l c tm s) := by
  have hfresh : ¬ (curtMember s l c = false ∨ curtArrived s l c = true) := by simp [hm, ha]
  rw [curtArrive, if_neg hfresh]
  dsimp only
  split
  · exact ⟨s.tm, rfl⟩
  · exact ⟨{ s.tm with firstArrival := place s.tm.firstArrival l (s.ticks, false) }, rfl⟩

theorem regs_wf_arrivalHeld (l c : Nat) (tm : TimeSt) (s : State) (hs : Regs.wf s.regs = true) :
    Regs.wf (arrivalHeld l c tm s).regs = true :=
  regs_wf_wr { s with tm := tm } _ l _ _ hs

theorem get_arrivalHeld (l c : Nat) (tm : TimeSt) (s : State) (g : Fld) (i j : Nat) (hc : c < 80)
    (h : besideArrivals l g.reg i j) : (arrivalHeld l c tm s).get g i j = s.get g i j := by
  rw [State.get, arrivalHeld, rd_wr_ne _ _ _ _ _ _ _ _ (h (c / 32) (by omega))]
  rfl

theorem curtMember_arrivalHeld (l c d : Nat) (tm : TimeSt) (s : State) (hc : c < 80) (hd : d < 80) :
    curtMember (arrivalHeld l c tm s) l d = curtMember s l d := by
  rw [curtMember_eq_get, get_arrivalHeld l c tm s F.CURT_MEM_MASK l (d / 32) hc (besideArrivals_mem l d hd), ← curtMember_eq_get]

/-- The arrivals held are those before and that of `c`. -/
theorem curtArrived_arrivalHeld (l c d : Nat) (tm : TimeSt) (s : State) (hs : Regs.wf s.regs = true) :
    curtArrived (arrivalHeld l c tm s) l d = (curtArrived s l d || decide (d = c)) := by
  unfold curtArrived
  by_cases hrow : d / 32 = c / 32
  · have hbit : c % 32 = d % 32 ↔ d = c := by omega
    rw [hrow, arrivalHeld, rd_wr_same { s with tm := tm } R.CURT_ARR l _ _ hs (resetWord_lt F.CURT_ARR_ARR l _ (by decide)),
      Nat.testBit_mod_two_pow, decide_eq_true (Nat.mod_lt d (by decide)), Bool.true_and, Nat.testBit_or, Nat.testBit_two_pow,
      decide_eq_decide.2 hbit]
  · have haddr : R.CURT_ARR.addr l (d / 32) ≠ R.CURT_ARR.addr l (c / 32) := by
      simp only [Reg.addr, R.CURT_ARR]
      omega
    have hdc : d ≠ c := fun e => hrow (e ▸ rfl)
    rw [arrivalHeld, rd_wr_ne _ _ _ _ _ _ _ _ haddr, decide_eq_false hdc, Bool.or_false]
    rfl

/-! The release (R198). -/

theorem curtSettle_of_missing (l d : Nat) (s : State) (hd : d < 80) (hm : curtMember s l d = true)
    (ha : curtArrived s l d = false) : curtSettle l s = s := by
  have hnot : (curtMembers s l).all (curtArrived s l) = false :=
    List.all_eq_false.2 ⟨d, (mem_curtMembers s l d).2 ⟨hd, hm⟩, by simp [ha]⟩
  exact if_pos (by simp [hnot])

/-- The first `n` rows of a line's arrivals at zero. -/
def arrivalsZeroed (l n : Nat) (s : State) : State := iterate n (fun j s => s.wr R.CURT_ARR l j 0) s

theorem arrivalsZeroed_succ (l n : Nat) (s : State) :
    arrivalsZeroed l (n + 1) s = (arrivalsZeroed l n s).wr R.CURT_ARR l n 0 := by
  rw [arrivalsZeroed, iterate, List.range_succ, List.foldl_append]
  rfl

/-- Arrivals are registers. -/
theorem arrivalsZeroed_frame (l n : Nat) (s : State) :
    arrivalsZeroed l n s = { s with regs := (arrivalsZeroed l n s).regs } := by
  induction n with
  | zero => rfl
  | succ n ih => rw [arrivalsZeroed_succ, ih]; rfl

theorem regs_wf_arrivalsZeroed (l n : Nat) (s : State) (hs : Regs.wf s.regs = true) :
    Regs.wf (arrivalsZeroed l n s).regs = true := by
  induction n with
  | zero => exact hs
  | succ n ih => rw [arrivalsZeroed_succ]; exact regs_wf_wr _ _ l n 0 ih

theorem get_arrivalsZeroed (l n : Nat) (s : State) (g : Fld) (i j : Nat) (h : ∀ row < n, g.reg.addr i j ≠ R.CURT_ARR.addr l row) :
    (arrivalsZeroed l n s).get g i j = s.get g i j := by
  induction n with
  | zero => rfl
  | succ n ih =>
    rw [arrivalsZeroed_succ, State.get, rd_wr_ne _ _ _ _ _ _ _ _ (h n n.lt_succ_self)]
    exact ih fun row hrow => h row (Nat.lt_succ_of_lt hrow)

theorem rd_arrivalsZeroed (l n row : Nat) (s : State) (hs : Regs.wf s.regs = true) (h : row < n) :
    (arrivalsZeroed l n s).rd R.CURT_ARR l row = 0 := by
  induction n with
  | zero => cases h
  | succ n ih =>
    rw [arrivalsZeroed_succ]
    rcases Nat.lt_succ_iff_lt_or_eq.1 h with hlt | rfl
    · have haddr : R.CURT_ARR.addr l row ≠ R.CURT_ARR.addr l n := by
        simp only [Reg.addr, R.CURT_ARR]
        omega
      rw [rd_wr_ne _ _ _ _ _ _ _ _ haddr, ih hlt]
    · exact rd_wr_same _ R.CURT_ARR l row 0 (regs_wf_arrivalsZeroed l row s hs) (resetWord_lt F.CURT_ARR_ARR l row (by decide))

/-- The state of a line that releases, before its members have their flags: no arrival held, and GEN advanced. -/
def lineReleased (l : Nat) (s : State) : State :=
  let t := (arrivalsZeroed l 3 s).set F.CURT_STATUS_GEN (((arrivalsZeroed l 3 s).get F.CURT_STATUS_GEN l + 1) % 65536) l
  { t with tm.firstArrival := erase t.tm.firstArrival l }

theorem curtSettle_of_all (l c : Nat) (s : State) (hc : c < 80) (hm : curtMember s l c = true)
    (ha : ∀ d, d < 80 → curtMember s l d = true → curtArrived s l d = true) :
    curtSettle l s =
      (curtMembers s l).foldl (releaseFlag ((lineReleased l s).get F.CURT_CFG_FLAG l)) (lineReleased l s) := by
  have hne : (curtMembers s l).isEmpty = false :=
    List.isEmpty_eq_false_iff.2 (List.ne_nil_of_mem ((mem_curtMembers s l c).2 ⟨hc, hm⟩))
  have hall : (curtMembers s l).all (curtArrived s l) = true :=
    List.all_eq_true.2 fun d hd => ha d ((mem_curtMembers s l d).1 hd).1 ((mem_curtMembers s l d).1 hd).2
  exact if_neg (by rw [hne, hall]; decide)

/-- A release changes registers and the line's first arrival. -/
theorem lineReleased_frame (l : Nat) (s : State) :
    lineReleased l s = { s with regs := (lineReleased l s).regs, tm := (lineReleased l s).tm } := by
  rw [lineReleased, arrivalsZeroed_frame]
  rfl

theorem get_lineReleased (l : Nat) (s : State) (g : Fld) (i j : Nat) (h : besideArrivals l g.reg i j)
    (hstatus : g.reg.addr i j ≠ R.CURT_STATUS.addr l 0) : (lineReleased l s).get g i j = s.get g i j :=
  (get_set_of_addr_ne _ F.CURT_STATUS_GEN g _ l i 0 j hstatus).trans (get_arrivalsZeroed l 3 s g i j h)

theorem gen_lineReleased (l : Nat) (s : State) (hs : Regs.wf s.regs = true) :
    (lineReleased l s).get F.CURT_STATUS_GEN l = (s.get F.CURT_STATUS_GEN l + 1) % 65536 := by
  refine (get_set_same _ F.CURT_STATUS_GEN _ l (regs_wf_arrivalsZeroed l 3 s hs) (by decide)).trans ?_
  rw [get_arrivalsZeroed l 3 s F.CURT_STATUS_GEN l 0 (besideArrivals_status l)]
  exact Nat.mod_mod _ _

theorem curtArrived_lineReleased (l d : Nat) (s : State) (hs : Regs.wf s.regs = true) (hd : d < 80) :
    curtArrived (lineReleased l s) l d = false := by
  have hrow : d / 32 < 3 := by omega
  have hkept : (lineReleased l s).rd R.CURT_ARR l (d / 32) = (arrivalsZeroed l 3 s).rd R.CURT_ARR l (d / 32) :=
    rd_wr_ne _ R.CURT_STATUS R.CURT_ARR l 0 l (d / 32) _ (besideArrivals_status l (d / 32) hrow).symm
  rw [curtArrived, hkept, rd_arrivalsZeroed l 3 _ s hs hrow, Nat.zero_testBit]

theorem cluState_lineReleased (l d : Nat) (s : State) (hl : l < 32) : cluState (lineReleased l s) d = cluState s d :=
  get_lineReleased l s F.CLU_STATUS_STATE d 0 (besideArrivals_cluStatus l d hl)
    (Nat.ne_of_gt (curt_addr_lt_cluStatus R.CURT_STATUS l d 0 rfl hl (by decide)))

theorem cfgFlag_lineReleased (l : Nat) (s : State) : (lineReleased l s).get F.CURT_CFG_FLAG l = s.get F.CURT_CFG_FLAG l :=
  get_lineReleased l s F.CURT_CFG_FLAG l 0 (besideArrivals_cfg l) (addr_ne_of_off_ne R.CURT_CFG R.CURT_STATUS l rfl (by decide))

/-! An arrival that is ignored (R200). -/

@[simp] theorem event_clu (s : State) (source typ job unit : Nat) (payload : List Nat) (c : Nat) :
    (s.event source typ job unit payload).clu c = s.clu c := by
  dsimp only [State.event]
  split
  · rfl
  · split <;> rfl

/-- The state with an ignored arrival counted at line `l`. -/
def badArrivalCounted (l : Nat) (s : State) : State := s.bump F.CURT_CNT_BADARR_COUNT 1 l

/-- What an ignored arrival of `c` leaves: the first since the last clear raises an event. -/
theorem curtArrive_of_ignored (l c : Nat) (s : State) (hs : Regs.wf s.regs = true)
    (h : curtMember s l c = false ∨ curtArrived s l c = true) :
    curtArrive l c s = if s.flag F.CURT_STATUS_FIRSTEV l then badArrivalCounted l s
      else ((badArrivalCounted l s).set F.CURT_STATUS_FIRSTEV 1 l).event 6 1 0 l [c] := by
  have hfirst : (badArrivalCounted l s).flag F.CURT_STATUS_FIRSTEV l = s.flag F.CURT_STATUS_FIRSTEV l :=
    flag_set_apart s F.CURT_CNT_BADARR_COUNT _ _ l hs (by decide) (by decide)
  rw [curtArrive, if_pos h, ← hfirst]
  rfl

theorem regs_wf_badArrivalCounted (l : Nat) (s : State) (hs : Regs.wf s.regs = true) :
    Regs.wf (badArrivalCounted l s).regs = true := regs_wf_set s _ _ l 0 hs

theorem badArrivalCounted_count (l : Nat) (s : State) (hs : Regs.wf s.regs = true) :
    (badArrivalCounted l s).get F.CURT_CNT_BADARR_COUNT l =
      min (s.get F.CURT_CNT_BADARR_COUNT l + 1) (2 ^ F.CURT_CNT_BADARR_COUNT.width - 1) := by
  refine (get_set_same s F.CURT_CNT_BADARR_COUNT _ l hs (by decide)).trans (Nat.mod_eq_of_lt ?_)
  have := Nat.two_pow_pos F.CURT_CNT_BADARR_COUNT.width
  rw [saturate]
  omega

/-- A field of the line that its first event does not set is as the count left it. -/
theorem get_curtArrive_of_ignored (l c : Nat) (s : State) (g : Fld) (j : Nat) (hs : Regs.wf s.regs = true)
    (h : curtMember s l c = false ∨ curtArrived s l c = true) (hg : g.reg.blk = .CURT)
    (hfirst : ((badArrivalCounted l s).set F.CURT_STATUS_FIRSTEV 1 l).get g l j = (badArrivalCounted l s).get g l j) :
    (curtArrive l c s).get g l j = (badArrivalCounted l s).get g l j := by
  rw [curtArrive_of_ignored l c s hs h]
  split
  · rfl
  · rw [event_get _ _ _ _ _ _ g l j (curtReg_addr_ne_evdrop g.reg l j hg), hfirst]

/-- An ignored arrival is counted, and clusters, arrivals and generation are as before. -/
theorem curtArrive_of_ignored_frame (l c : Nat) (s : State) (hs : Regs.wf s.regs = true)
    (h : curtMember s l c = false ∨ curtArrived s l c = true) :
    let t := curtArrive l c s
    (∀ d, t.clu d = s.clu d) ∧ (∀ d, d < 80 → curtArrived t l d = curtArrived s l d) ∧
      t.get F.CURT_STATUS_GEN l = s.get F.CURT_STATUS_GEN l ∧
      t.get F.CURT_CNT_BADARR_COUNT l = min (s.get F.CURT_CNT_BADARR_COUNT l + 1) (2 ^ F.CURT_CNT_BADARR_COUNT.width - 1) := by
  have hwf := regs_wf_badArrivalCounted l s hs
  refine ⟨fun d => ?_, fun d hd => ?_, ?_, ?_⟩
  · rw [curtArrive_of_ignored l c s hs h]
    split
    · rfl
    · rw [event_clu, set_clu_of, badArrivalCounted, bump_clu_of]
  · have hrow : d / 32 < 3 := by omega
    have hstatus := get_set_of_addr_ne (badArrivalCounted l s) F.CURT_STATUS_FIRSTEV F.CURT_ARR_ARR 1 l l 0 (d / 32)
      (besideArrivals_status l _ hrow).symm
    have hcount := get_set_of_addr_ne s F.CURT_CNT_BADARR_COUNT F.CURT_ARR_ARR
      (saturate F.CURT_CNT_BADARR_COUNT.width (s.get F.CURT_CNT_BADARR_COUNT l + 1)) l l 0 (d / 32)
      (besideArrivals_badArrivals l _ hrow).symm
    rw [curtArrived_eq_get, get_curtArrive_of_ignored l c s _ _ hs h rfl hstatus, badArrivalCounted, State.bump, hcount,
      ← curtArrived_eq_get]
  · rw [get_curtArrive_of_ignored l c s _ 0 hs h rfl (get_set_apart _ _ _ 1 l hwf (by decide) (by decide))]
    exact get_set_apart s F.CURT_CNT_BADARR_COUNT _ _ l hs (by decide) (by decide)
  · rw [get_curtArrive_of_ignored l c s _ 0 hs h rfl (get_set_apart _ _ _ 1 l hwf (by decide) (by decide)),
      badArrivalCounted_count l s hs]

/-- After the first ignored arrival since the last clear an event has been raised. -/
theorem curtArrive_of_first_ignored (l c : Nat) (s : State) (hs : Regs.wf s.regs = true)
    (h : curtMember s l c = false ∨ curtArrived s l c = true) (hfirst : s.flag F.CURT_STATUS_FIRSTEV l = false) :
    (curtArrive l c s).flag F.CURT_STATUS_FIRSTEV l = true ∧ (curtArrive l c s).eventSeq = s.eventSeq + 1 := by
  rw [curtArrive_of_ignored l c s hs h, if_neg (by rw [hfirst]; decide)]
  constructor
  · rw [State.flag, event_get _ _ _ _ _ _ _ l 0 (curtReg_addr_ne_evdrop _ l 0 rfl),
      get_set_same _ _ 1 l (regs_wf_badArrivalCounted l s hs) (by decide)]
    rfl
  · rw [event_eventSeq, set_eventSeq, badArrivalCounted, bump_eventSeq]

/-- A later one raises none. -/
theorem curtArrive_of_later_ignored (l c : Nat) (s : State) (hs : Regs.wf s.regs = true)
    (h : curtMember s l c = false ∨ curtArrived s l c = true) (hlater : s.flag F.CURT_STATUS_FIRSTEV l = true) :
    (curtArrive l c s).flag F.CURT_STATUS_FIRSTEV l = true ∧ (curtArrive l c s).eventSeq = s.eventSeq := by
  rw [curtArrive_of_ignored l c s hs h, if_pos hlater]
  exact ⟨(flag_set_apart s F.CURT_CNT_BADARR_COUNT _ _ l hs (by decide) (by decide)).trans hlater, rfl⟩

/-! A member's arrival (R198). -/

/-- The arrival of a member while another one is awaited. -/
theorem curtArrive_of_awaited (l c d : Nat) (s : State) (hs : Regs.wf s.regs = true) (hc : c < 80) (hm : curtMember s l c = true)
    (ha : curtArrived s l c = false) (hd : d < 80) (hdc : d ≠ c) (hdm : curtMember s l d = true) (hda : curtArrived s l d = false) :
    let t := curtArrive l c s
    t.clus = s.clus ∧ (∀ e, curtArrived t l e = (curtArrived s l e || decide (e = c))) ∧
      t.get F.CURT_STATUS_GEN l = s.get F.CURT_STATUS_GEN l ∧ t.mem = s.mem := by
  obtain ⟨tm, htm⟩ := curtArrive_of_fresh l c s hm ha
  have hmember : curtMember (arrivalHeld l c tm s) l d = true := (curtMember_arrivalHeld l c d tm s hc hd).trans hdm
  have hmissing : curtArrived (arrivalHeld l c tm s) l d = false := by
    rw [curtArrived_arrivalHeld l c d tm s hs, hda, decide_eq_false hdc, Bool.or_false]
  rw [htm, curtSettle_of_missing l d _ hd hmember hmissing]
  exact ⟨rfl, fun e => curtArrived_arrivalHeld l c e tm s hs, get_arrivalHeld l c tm s _ l 0 hc (besideArrivals_status l), rfl⟩

/-- The last arrival, where every member is RUNNING. -/
theorem curtArrive_of_last (l c : Nat) (s : State) (hl : l < 32) (hs : Regs.wf s.regs = true) (hc : c < 80)
    (hm : curtMember s l c = true) (ha : curtArrived s l c = false)
    (hothers : ∀ d, d < 80 → d ≠ c → curtMember s l d = true → curtArrived s l d = true)
    (hrun : ∀ d, d < 80 → curtMember s l d = true → cluState s d = stRunning) :
    let t := curtArrive l c s
    (∀ d, d < 80 → curtArrived t l d = false) ∧
      t.get F.CURT_STATUS_GEN l = (s.get F.CURT_STATUS_GEN l + 1) % 65536 ∧ t.mem = s.mem ∧
      ∀ d, d < 80 → curtMember s l d = true →
        t.clu d = flagRaised s.ticks s.fabTime (s.get F.CURT_CFG_FLAG l) (s.clu d) := by
  obtain ⟨tm, htm⟩ := curtArrive_of_fresh l c s hm ha
  have hu : Regs.wf (arrivalHeld l c tm s).regs = true := regs_wf_arrivalHeld l c tm s hs
  have hmember := fun d hd => curtMember_arrivalHeld l c d tm s hc hd
  have hall : ∀ d, d < 80 → curtMember (arrivalHeld l c tm s) l d = true → curtArrived (arrivalHeld l c tm s) l d = true := by
    intro d hd hdm
    rw [curtArrived_arrivalHeld l c d tm s hs]
    by_cases hdc : d = c
    · rw [decide_eq_true hdc, Bool.or_true]
    · rw [hothers d hd hdc ((hmember d hd).symm.trans hdm), Bool.true_or]
  have hms : ∀ m ∈ curtMembers (arrivalHeld l c tm s) l, cluState (lineReleased l (arrivalHeld l c tm s)) m = stRunning := by
    intro m hmem
    obtain ⟨hm80, hmm⟩ := (mem_curtMembers _ l m).1 hmem
    rw [cluState_lineReleased l m _ hl, cluState, get_arrivalHeld l c tm s _ m 0 hc (besideArrivals_cluStatus l m hl)]
    exact hrun m hm80 ((hmember m hm80).symm.trans hmm)
  have hflag : (lineReleased l (arrivalHeld l c tm s)).get F.CURT_CFG_FLAG l = s.get F.CURT_CFG_FLAG l := by
    rw [cfgFlag_lineReleased, get_arrivalHeld l c tm s _ l 0 hc (besideArrivals_cfg l)]
  rw [htm, curtSettle_of_all l c _ hc ((hmember c hc).trans hm) hall, hflag]
  refine ⟨fun d hd => ?_, ?_, ?_, fun d hd hdm => ?_⟩
  · rw [releaseFlags_frame _ _ _ hms]
    exact curtArrived_lineReleased l d _ hu hd
  · rw [releaseFlags_frame _ _ _ hms]
    refine (gen_lineReleased l _ hu).trans ?_
    rw [get_arrivalHeld l c tm s _ l 0 hc (besideArrivals_status l)]
  · rw [releaseFlags_frame _ _ _ hms, lineReleased_frame]
    rfl
  · rw [releaseFlags_clu_of_mem _ d _ _ hms (nodup_curtMembers _ l) ((mem_curtMembers _ l d).2 ⟨hd, (hmember d hd).trans hdm⟩),
      lineReleased_frame]
    rfl

/-- A field of a line after the event of its first ignored arrival. -/
theorem get_firstBadArrival (l i c : Nat) (s : State) (g : Fld) (j : Nat) (hg : g.reg.blk = .CURT) :
    ((s.set F.CURT_STATUS_FIRSTEV 1 l).event 6 1 0 l [c]).get g i j = (s.set F.CURT_STATUS_FIRSTEV 1 l).get g i j :=
  event_get _ _ _ _ _ _ g i j (curtReg_addr_ne_evdrop g.reg i j hg)

/-! The timeout and the clear (R202, R207). -/

theorem curtClr_firstev (l : Nat) (s : State) (hs : Regs.wf s.regs = true) : (curtClr l s).flag F.CURT_STATUS_FIRSTEV l = false := by
  have hwf := regs_wf_set (s.zero R.CURT_CNT_BADARR l) F.CURT_STATUS_TIMEOUT 0 l 0 (regs_wf_wr s _ l 0 0 hs)
  rw [State.flag, curtClr, get_set_same _ _ 0 l hwf (by decide)]
  rfl

/-- The members of line `l` not yet arrived, of the 32 clusters of row `j`. -/
def lateMembers (s : State) (l j : Nat) : Nat := s.rd R.CURT_MEM l j - (s.rd R.CURT_MEM l j &&& s.rd R.CURT_ARR l j)

theorem execCurtainTimeout_due (s : State) (l : LineId) (t0 : Nat) (h : lookup s.tm.firstArrival l = some (t0, false))
    (hus : s.get F.CURT_TMO_US l ≠ 0) (hpassed : s.passedUs t0 (s.get F.CURT_TMO_US l) = true) :
    execCurtainTimeout l s =
      .next ((({ s with tm.firstArrival := place s.tm.firstArrival l (t0, true) } : State).set F.CURT_STATUS_TIMEOUT 1 l).event
        6 2 0 l [lateMembers s l 0, lateMembers s l 1, lateMembers s l 2]) := by
  simp only [execCurtainTimeout, h, hus, hpassed]
  rfl

theorem execCurtainTimeout_told (s : State) (l : LineId) (t0 : Nat) (h : lookup s.tm.firstArrival l = some (t0, true)) :
    execCurtainTimeout l s = .next s := by
  simp only [execCurtainTimeout, h, or_true, if_true]
  rfl

/-! The instruction (R303). -/

/-- CARR arrives where its prompter is ready and has no store outstanding. -/
theorem exec_carr_of_ready (s : State) (c : ClusterId) (x : FlagForm) (l : LineId) (hl : x.f8.toNat = l.val)
    (hready : readyFor s c (encF 0x34 x) [] = true) (hstores : (s.clu c).stores = []) :
    exec (.carr c x) s = .next (curtArrive l c (retire c s)) := by
  change ok (instr c (encF 0x34 x) [] _ s) = _
  rw [instr_ready c _ [] _ s hready, storesDone, hstores, hl, Nat.mod_eq_of_lt l.isLt]
  rfl

theorem retire_clu_same (c : Nat) (s : State) : (retire c s).clu c = (s.clu c).advance := clu_setClu_same s c _

theorem retire_clu_ne (c d : Nat) (s : State) (h : d ≠ c) : (retire c s).clu d = s.clu d := clu_setClu_ne s c d _ h

/-- Retiring keeps what a set flag needs to be seen: its governor and the flag waits. -/
theorem retire_flagRaised_flag (c d now fab f : Nat) (s : State) (hg : (s.clu d).governor f = none) (hw : (s.clu d).flagWaits = []) :
    (flagRaised now fab f ((retire c s).clu d)).flag f = true := by
  by_cases hdc : d = c
  · subst hdc
    rw [retire_clu_same]
    exact flagRaised_flag now fab f _ ((advance_governor _ f).trans hg) ((advance_flagWaits _).trans hw)
  · rw [retire_clu_ne c d s hdc]
    exact flagRaised_flag now fab f _ hg hw

/-- Settles O26: an arrival of a member is one more bit of the line's rows, which leaves the line waiting or releases it; any other
arrival reaches the count and FIRSTEV alone. -/
theorem curtainArrivals : Obligations.CurtainArrivals := by
  intro s c x l hs hl
  obtain ⟨-, hregs⟩ : (Memory.wf s.mem && Memory.wf s.flash) = true ∧ Regs.wf s.regs = true := by
    simpa only [State.wf, Bool.and_eq_true] using hs
  refine ⟨?_, ?_, ?_, ⟨_, rfl, curtClr_firstev l s hregs⟩, ?_⟩
  · rintro ⟨hready, hstores⟩ hm ha ⟨d, hd, hdc, hdm, hda⟩
    obtain ⟨hclus, harr, hgen, hmem⟩ := curtArrive_of_awaited l c d (retire c s) hregs c.isLt hm ha hd hdc hdm hda
    have hclu : ∀ e, (curtArrive l c (retire c s)).clu e = (retire c s).clu e := fun e => by rw [State.clu, hclus, State.clu]
    refine ⟨_, exec_carr_of_ready s c x l hl hready hstores, (hclu c).trans (retire_clu_same c s), ?_, fun e _ hec => ⟨?_, ?_⟩,
      hgen, hmem⟩
    · rw [harr, decide_eq_true rfl, Bool.or_true]
    · rw [harr, decide_eq_false hec, Bool.or_false]
      rfl
    · exact (hclu e).trans (retire_clu_ne c e s hec)
  · rintro ⟨hready, hstores⟩ hm ha hothers hrun
    obtain ⟨harr, hgen, hmem, hclu⟩ := curtArrive_of_last l c (retire c s) l.isLt hregs c.isLt hm ha hothers hrun
    refine ⟨_, exec_carr_of_ready s c x l hl hready hstores, harr, hgen, hmem, fun d hd hdm hg hw => ?_⟩
    rw [hclu d hd hdm]
    exact retire_flagRaised_flag c d _ _ _ s hg hw
  · rintro ⟨hready, hstores⟩ h
    obtain ⟨hclu, harr, hgen, hcount⟩ := curtArrive_of_ignored_frame l c (retire c s) hregs h
    exact ⟨_, exec_carr_of_ready s c x l hl hready hstores, (hclu c).trans (retire_clu_same c s), hcount, harr, hgen,
      curtArrive_of_first_ignored l c (retire c s) hregs h, curtArrive_of_later_ignored l c (retire c s) hregs h⟩
  · intro t0 told hfirst hus hpassed
    refine ⟨fun htold => ?_, fun htold => ?_⟩ <;> subst htold
    · exact execCurtainTimeout_due s l t0 hfirst hus hpassed
    · exact execCurtainTimeout_told s l t0 hfirst

end Sys2Proof.Proofs
end

section
/-! Finding a register by its BAR0 offset (R42), and the job table behind the DEV block's rows (R389 to R392). -/

namespace Sys2Proof.Proofs
open Sys2Proof.Machine Sys2Proof.Laws

/-! Rows of a register list. -/

theorem row_of_lt_cnt (r : Reg) (j : Nat) (hstep : 0 < r.step) (hj : j < r.cnt) : r.row (r.off + j * r.step) = some j := by
  rw [Reg.row, Nat.add_sub_cancel_left, Nat.mul_mod_left, Nat.mul_div_cancel j hstep, if_pos ⟨Nat.le_add_right .., rfl, hj⟩]

theorem row_eq_none_of_end_le (r : Reg) (off : Nat) (hstep : 0 < r.step) (h : r.off + r.cnt * r.step ≤ off) : r.row off = none := by
  refine if_neg fun ⟨_, _, hrow⟩ => ?_
  have hlt : off - r.off < r.cnt * r.step := (Nat.div_lt_iff_lt_mul hstep).1 hrow
  omega

theorem row_eq_none_of_mod_ne (r : Reg) (off : Nat) (h : (off - r.off) % r.step ≠ 0) : r.row off = none :=
  if_neg fun ⟨_, hmod, _⟩ => h hmod

theorem findRow_append_of_none (before rest : List Reg) (off : Nat) (h : ∀ r ∈ before, r.row off = none) :
    findRow (before ++ rest) off = findRow rest off := by
  induction before with
  | nil => rfl
  | cons r rs ih =>
    obtain ⟨hr, hrs⟩ := List.forall_mem_cons.1 h
    rw [List.cons_append, findRow, hr, ih hrs]

/-! The job table's rows: from offset 0x10000 the DEV block holds no other registers. -/

/-- The registers of the job table (R392), in the order of the DEV block. -/
def jobRegs : List Reg := [R.DEV_JOB_SEED_LO, R.DEV_JOB_SEED_HI, R.DEV_JOB_STEP_LO, R.DEV_JOB_STEP_HI, R.DEV_JOB_ADVANCE]

theorem findRow_dev_of_ge (off : Nat) (h : 0x10000 ≤ off) : findRow Blk.DEV.regs off = findRow jobRegs off := by
  have hends : ∀ r ∈ Blk.DEV.regs.take 23, 0 < r.step ∧ r.off + r.cnt * r.step ≤ 0x10000 := by decide
  refine findRow_append_of_none (Blk.DEV.regs.take 23) jobRegs off fun r hr => ?_
  obtain ⟨hstep, hend⟩ := hends r hr
  exact row_eq_none_of_end_le r off hstep (Nat.le_trans hend h)

theorem findReg_of_ge (r : Reg) (j : Nat) (hblk : r.blk = .DEV) (hoff : 0x10000 ≤ r.off) (hend : r.off + j * r.step < 0x100000)
    (h : findRow jobRegs (r.off + j * r.step) = some (r, j)) : findReg (r.addr 0 j) = some (r, 0, j) := by
  have haddr : r.addr 0 j = r.off + j * r.step := by simp [Reg.addr, hblk, Blk.base]
  have hrow : findRow Blk.DEV.regs (r.off + j * r.step) = some (r, j) :=
    (findRow_dev_of_ge _ (Nat.le_trans hoff (Nat.le_add_right ..))).trans h
  simp [findReg, blkOf, haddr, hend, Blk.base, Blk.stride, Blk.count, Nat.div_eq_of_lt, Nat.mod_eq_of_lt, hrow]

/-- The four halves of an entry lie in the entry's 16 bytes at distances below 16, so no row of one is a row of another. -/
theorem findReg_of_job_half (before rest : List Reg) (r : Reg) (j : Nat) (hregs : jobRegs = before ++ r :: rest) (hblk : r.blk = .DEV)
    (hstep : r.step = 16) (hcnt : r.cnt = 256) (hoff : 0x10000 ≤ r.off ∧ r.off < 0x10010)
    (hbefore : ∀ q ∈ before, q.step = 16 ∧ 0x10000 ≤ q.off ∧ q.off < r.off) (hj : j < 256) :
    findReg (r.addr 0 j) = some (r, 0, j) := by
  refine findReg_of_ge r j hblk hoff.1 (by rw [hstep]; omega) ?_
  rw [hregs, findRow_append_of_none before _ _ fun q hq => ?_, findRow, row_of_lt_cnt r j (by omega) (by omega)]
  obtain ⟨hq16, hqlo, hqhi⟩ := hbefore q hq
  exact row_eq_none_of_mod_ne q _ (by rw [hq16, hstep]; omega)

theorem findReg_seedHi (j : Nat) (hj : j < 256) : findReg (R.DEV_JOB_SEED_HI.addr 0 j) = some (R.DEV_JOB_SEED_HI, 0, j) :=
  findReg_of_job_half (jobRegs.take 1) (jobRegs.drop 2) _ j rfl rfl rfl rfl (by decide) (by decide) hj

theorem findReg_stepHi (j : Nat) (hj : j < 256) : findReg (R.DEV_JOB_STEP_HI.addr 0 j) = some (R.DEV_JOB_STEP_HI, 0, j) :=
  findReg_of_job_half (jobRegs.take 3) (jobRegs.drop 4) _ j rfl rfl rfl rfl (by decide) (by decide) hj

/-- A read of SEED_HI returns its latch (R389). -/
theorem regRead_seedHi (j : Nat) (s : State) (hj : j < 256) : regRead (R.DEV_JOB_SEED_HI.addr 0 j) s = ((s.job j).seedR, s) := by
  rw [regRead, findReg_seedHi j hj]
  rfl

/-- A read of STEP_HI returns its latch (R389). -/
theorem regRead_stepHi (j : Nat) (s : State) (hj : j < 256) : regRead (R.DEV_JOB_STEP_HI.addr 0 j) s = ((s.job j).stepR, s) := by
  rw [regRead, findReg_stepHi j hj]
  rfl

/-! A changed entry. -/

theorem job_setJob_ne (s : State) (j i : Nat) (x : JobSt) (h : i ≠ j) : (s.setJob j x).job i = s.job i := by
  simp [State.job, State.setJob, lookup_insert_ne _ _ _ _ h]

@[simp] theorem jobChange_seed (j seed step : Nat) (s : State) : ((jobChange j seed step s).job j).seed = seed % 2 ^ 64 := by
  rw [jobChange, job_setJob_same]

@[simp] theorem jobChange_step (j seed step : Nat) (s : State) : ((jobChange j seed step s).job j).step = step % 2 ^ 64 := by
  rw [jobChange, job_setJob_same]

theorem job_jobChange_ne (j i seed step : Nat) (s : State) (h : i ≠ j) : (jobChange j seed step s).job i = s.job i :=
  job_setJob_ne s j i _ h

/-! The commands of the job table that change a value. -/

theorem exec_devJobSeedLoWrite (j : BitVec 8) (v : Word) (s : State) : exec (.devJobSeedLoWrite j v) s =
    .next (jobChange j.toNat (v.toNat + (s.job j.toNat).seedW * 2 ^ 32) (s.job j.toNat).step s) := rfl

theorem exec_devJobStepLoWrite (j : BitVec 8) (v : Word) (s : State) : exec (.devJobStepLoWrite j v) s =
    .next (jobChange j.toNat (s.job j.toNat).seed (v.toNat + (s.job j.toNat).stepW * 2 ^ 32) s) := rfl

theorem exec_devJobAdvance (j : BitVec 8) (s : State) : exec (.devJobAdvance j) s =
    .next (jobChange j.toNat (s.job j.toNat).seed ((s.job j.toNat).step + 1) s) := rfl

/-- Settles O23: low-half writes and ADVANCE are one change of the entry, and an ADVANCE after a write finds the step already replaced;
the latch writes and the low-half reads hold by computation; a high half is found at its own row of the DEV block. -/
theorem jobTable : Obligations.JobTable := by
  intro s m j v x
  refine ⟨⟨_, exec_devJobSeedLoWrite j v s, jobChange_seed .., jobChange_step .., fun i => job_jobChange_ne _ i _ _ s⟩,
    ⟨_, exec_devJobStepLoWrite j v s, jobChange_step .., jobChange_seed .., fun i => job_jobChange_ne _ i _ _ s⟩,
    rfl, rfl, rfl, rfl, regRead_seedHi j.toNat s j.isLt, regRead_stepHi j.toNat s j.isLt,
    ⟨_, _, exec_devJobStepLoWrite j v s, exec_devJobAdvance j _, ?_⟩,
    ⟨_, exec_devJobAdvance j s, jobChange_step .., jobChange_seed .., fun i => job_jobChange_ne _ i _ _ s⟩⟩
  rw [jobChange_step, jobChange_step, Nat.mod_add_mod]

end Sys2Proof.Proofs
end
